-- ==== Sys2Proof/Word.lean ====
section
/-!
DEFINITION. Word.lean: the words the hart works on. Registers and addresses are carried in 64 bits; when XLENMAX is 32
only the low 32 bits of a field are ever nonzero (log 2).
-/
namespace Sys2Proof

/-- A register-wide value or address, carried in 64 bits (00_scope R10, log 2). -/
abbrev Word := BitVec 64

/-- One byte of memory (20_memory R96). -/
abbrev Byte := BitVec 8

/-- A 5-bit register specifier (30_encoding R139). -/
abbrev Reg := BitVec 5

/-- A 3-bit compressed register specifier, naming register `8 + field` (30_encoding R139). -/
abbrev CReg := BitVec 3

end Sys2Proof
end

