-- ==== Sys2Proof/Config.lean ====
section
/-!
DEFINITION. Config.lean: what an implementation fixes (the parameters of 00_scope R9), and the values no source fixes.
The parameters are plain data and stand in State (field `cfg`), so that every statement about all states speaks of every
configuration (log 1).
-/
namespace Sys2Proof

/-- What stands at a physical region (20_memory R111). -/
inductive RegionKind where
  | main
  | device
  deriving DecidableEq, Repr

/-- A physical memory region: base, size in bytes, kind, and the taggable attribute of 20_memory R110. -/
structure Region where
  base : Nat
  size : Nat
  kind : RegionKind
  taggable : Bool
  deriving DecidableEq, Repr

/-- The two choices of 00_scope R9 for `TAGGED_STORE_TO_UNTAGGABLE` and `PTE_CW_CLEAR_ACTION`. -/
inductive TagPolicy where
  | raiseFault
  | strip
  deriving DecidableEq, Repr

/-- The registers that need not store every address bit: pcc, the executable vectors and the data pointers (11_csrs R91, R93). -/
inductive AddrReg where
  | pcc
  | mtvecc
  | mepcc
  | stvecc
  | sepcc
  | jvtc
  | dpcc
  | ddc
  | dddc
  deriving DecidableEq, Repr

/-- How many address bits each of them stores: `PCC_ADDR_BITS` and the widths of the CSRs (00_scope R9, 93 U11; log 1). -/
structure AddrBits where
  pcc : Nat := 64
  mtvecc : Nat := 64
  mepcc : Nat := 64
  stvecc : Nat := 64
  sepcc : Nat := 64
  jvtc : Nat := 64
  dpcc : Nat := 64
  ddc : Nat := 64
  dddc : Nat := 64
  deriving DecidableEq, Repr

/-- The implementation parameters of 00_scope R9, one field each. -/
structure Params where
  /-- XLENMAX is 64 (else 32). -/
  xlenmax64 : Bool := true
  hasE : Bool := false
  hasLegacy : Bool := true
  /-- Zcheri_mode; read through `Params.mode`, which also asks for Zcheri_legacy (R9: HAS_MODE implies HAS_LEGACY). -/
  hasMode : Bool := true
  hasPte : Bool := true
  hasS : Bool := true
  hasU : Bool := true
  hasSdext : Bool := true
  hasA : Bool := true
  hasZam : Bool := false
  hasZbhlrsc : Bool := true
  hasC : Bool := true
  hasZcb : Bool := true
  hasZcmp : Bool := true
  hasZcmt : Bool := true
  hasF : Bool := true
  hasD : Bool := true
  /-- Zfhmin: of half precision the loads and stores, the moves and the conversions between formats (46_fp_loadstore R276, R280); with `hasZfh` all of it. -/
  hasZfhmin : Bool := true
  hasZfh : Bool := true
  hasZba : Bool := true
  /-- The extensions of unchanged computational instructions that 43_base_integer R231 names (log 41). -/
  hasM : Bool := true
  hasZbb : Bool := true
  hasZbc : Bool := true
  hasZbs : Bool := true
  hasZbkb : Bool := true
  hasZbkx : Bool := true
  hasZicond : Bool := true
  hasZicbom : Bool := true
  hasZicboz : Bool := true
  hasZicbop : Bool := true
  hasZicntr : Bool := true
  hasSv32 : Bool := true
  hasSv39 : Bool := true
  hasSv48 : Bool := true
  hasSv57 : Bool := true
  hicause : Nat := 16
  /-- How many triggers there are (11_csrs R95, 60_exceptions R398: open; log 37). -/
  triggerCount : Nat := 2
  bootAddr : Word := 0x80000000
  /-- log2 of CACHE_BLOCK_SIZE (92 D32: 64 bytes); read through `Params.blockLog`, which also asks for a whole granule. -/
  blockBits : Nat := 6
  /-- The address bits that pcc and the CSRs store (11_csrs R91, R93). -/
  addrBits : AddrBits := {}
  /-- The physical memory map (92 Part 1): main memory 0x8000_0000 to 0x8010_0000, the rest vacant. -/
  regions : List Region := [{ base := 0x80000000, size := 0x100000, kind := .main, taggable := true }]
  taggedToUntaggable : TagPolicy := .strip
  cwClear : TagPolicy := .raiseFault
  hasPteCd : Bool := false
  cdHwUpdate : Bool := false
  /-- menvcfg.CDE is writable when CD is implemented (11_csrs R87). -/
  cdeConfigurable : Bool := true
  mxlWritable : Bool := false
  xlWritable : Bool := false
  beWritable : Bool := false
  /-- misa.C is writable (11_csrs R63). -/
  misaCWritable : Bool := true
  mtvalZero : Bool := false
  misalignedIntOk : Bool := false
  debugPcrelIllegal : Bool := true
  debugModesw : Bool := true
  /-- The hart enters debug mode before its first instruction (60_exceptions R395: reset-halt; log 9). -/
  haltOnReset : Bool := false
  deriving DecidableEq, Repr

/-- Zcheri_mode is present; it requires Zcheri_legacy (00_scope R3, R9). -/
def Params.mode (p : Params) : Bool := p.hasLegacy && p.hasMode

/-- XLENMAX as a number (00_scope R9). -/
def Params.xlenmax (p : Params) : Nat := if p.xlenmax64 then 64 else 32

/-- A privilege mode below M exists (60_exceptions R390; log 18). -/
def Params.belowM (p : Params) : Bool := p.hasU || p.hasS

/-- Half-precision values can be loaded, stored, moved and converted: Zfhmin or Zfh (46_fp_loadstore R276, R280; log 45). -/
def Params.halfMoves (p : Params) : Bool := p.hasZfh || p.hasZfhmin

/-- There are triggers, and with them the trigger CSRs (11_csrs R95; log 37). -/
def Params.hasTriggers (p : Params) : Bool := p.triggerCount != 0

/-- CLEN/8: bytes of a capability, the size of a tag granule (00_scope R9, 20_memory R97). -/
def Params.capBytes (p : Params) : Nat := if p.xlenmax64 then 16 else 8

/-- log2 of the block size in effect: at least CLEN/8 bytes (00_scope R9, 49_cbo_prefetch_zba R335). -/
def Params.blockLog (p : Params) : Nat := max p.blockBits (if p.xlenmax64 then 4 else 3)

/-- CACHE_BLOCK_SIZE in bytes. -/
def Params.blockSize (p : Params) : Nat := 2 ^ p.blockLog

/-- FREE VALUE: what a byte of a device reads as, the n-th time (20_memory R111 gives devices no behaviour; log 13). -/
opaque Config.freeDevice : Nat → Nat → Byte

/-- FREE VALUE: `convertInvalid(csr, a)`, the address a register of few address bits holds in place of one it cannot hold (11_csrs R93, 93 U10; log 1). -/
opaque Config.convertInvalid : AddrReg → Word → Word

/-- FREE VALUE: the virtual address whose translation the hart caches after the n-th instruction, if it caches one (20_memory R112; log 44). -/
opaque Config.freeFill : Nat → Option Word

/-- FREE VALUE: whether the i-th cached translation is still held after the n-th instruction (20_memory R112; log 44). -/
opaque Config.freeKeep : Nat → Nat → Bool

/-- FREE VALUE: what the n-th read of a counter gives (60_exceptions R400 states no value; log 8). -/
opaque Config.freeCounter : Nat → Word

/-- FREE VALUE: the metadata and the address of pcc in debug mode (60_exceptions R396: UNSPECIFIED; log 9). -/
opaque Config.freePcc : Nat → Word × Word

/-- FREE VALUE: the tag of pcc in debug mode (60_exceptions R396: UNSPECIFIED; log 9). -/
opaque Config.freeTag : Nat → Bool

end Sys2Proof
end

