-- ==== Sys2Proof/Syntax.lean ====
section
/-!
DEFINITION. Syntax.lean: the instructions of spec/opcode_table.json, one constructor per mnemonic. Immediates are held as the
encoding gives them, least significant always-zero bits left out; each constructor's docstring says which bits they are.
-/
namespace Sys2Proof

/-- The length of the encoding an instruction came from: 32 bits, or the 16-bit form of 47_compressed R321 that expands to it. -/
inductive Form where
  | std
  | comp
  deriving DecidableEq, Repr

/-- As `Form`, for ADD and SLLI, whose unchanged Zba variants ADD.UW, SLLI.UW and C.ZEXT.W have no table row
(49_cbo_prefetch_zba R354, 47_compressed R321; log 15). -/
inductive UwForm where
  | std
  | comp
  | uw
  | compUw
  deriving DecidableEq, Repr

/-- One constructor per mnemonic of spec/opcode_table.json (190 rows, 181 mnemonics). -/
inductive Instr where
  -- 40_cap_inspect
  | gctag (rd rs1 : Reg) | gcperm (rd rs1 : Reg) | gchi (rd rs1 : Reg) | gcbase (rd rs1 : Reg) | gclen (rd rs1 : Reg)
  | cram (rd rs1 : Reg) | sceq (rd rs1 rs2 : Reg) | scss (rd rs1 rs2 : Reg)
  -- 41_cap_manipulate
  | cmv (rd rs1 : Reg)
  /-- CADD; `rs2 = 0` is CMV. -/
  | cadd (rd rs1 rs2 : Reg) | caddi (rd rs1 : Reg) (imm : BitVec 12) | scaddr (rd rs1 rs2 : Reg) | acperm (rd rs1 rs2 : Reg)
  | schi (rd rs1 rs2 : Reg) | sentry (rd rs1 : Reg) | cbld (rd rs1 rs2 : Reg) | scbnds (rd rs1 rs2 : Reg)
  /-- SCBNDSI; `s` scales the immediate by 4 places. -/
  | scbndsi (rd rs1 : Reg) (s : Bool) (uimm : BitVec 5)
  | scbndsr (rd rs1 rs2 : Reg) | scmode (rd rs1 rs2 : Reg) | modesw
  -- 42_cap_loadstore
  | lc (rd rs1 : Reg) (imm : BitVec 12) | sc (rs2 rs1 : Reg) (imm : BitVec 12)
  -- 43_base_integer
  /-- AUIPC; `imm` is imm[31:12]. -/
  | auipc (rd : Reg) (imm : BitVec 20)
  /-- JAL; `off` is offset[20:1]. -/
  | jal (rd : Reg) (off : BitVec 20) | jalr (rd rs1 : Reg) (imm : BitVec 12) | jalrMode (rd rs1 : Reg)
  /-- Branches; `off` is offset[12:1]. -/
  | beq (rs1 rs2 : Reg) (off : BitVec 12) | bne (rs1 rs2 : Reg) (off : BitVec 12) | blt (rs1 rs2 : Reg) (off : BitVec 12)
  | bge (rs1 rs2 : Reg) (off : BitVec 12) | bltu (rs1 rs2 : Reg) (off : BitVec 12) | bgeu (rs1 rs2 : Reg) (off : BitVec 12)
  | lb (rd rs1 : Reg) (imm : BitVec 12) | lh (rd rs1 : Reg) (imm : BitVec 12) | lw (rd rs1 : Reg) (imm : BitVec 12)
  | ld (rd rs1 : Reg) (imm : BitVec 12) | lbu (rd rs1 : Reg) (imm : BitVec 12) | lhu (rd rs1 : Reg) (imm : BitVec 12)
  | lwu (rd rs1 : Reg) (imm : BitVec 12)
  | sb (rs2 rs1 : Reg) (imm : BitVec 12) | sh (rs2 rs1 : Reg) (imm : BitVec 12) | sw (rs2 rs1 : Reg) (imm : BitVec 12)
  | sd (rs2 rs1 : Reg) (imm : BitVec 12)
  | mret | sret | dret
  /-- LUI; `imm` is imm[31:12]. -/
  | lui (f : Form) (rd : Reg) (imm : BitVec 20)
  | addi (f : Form) (rd rs1 : Reg) (imm : BitVec 12) | slti (rd rs1 : Reg) (imm : BitVec 12)
  | sltiu (rd rs1 : Reg) (imm : BitVec 12) | xori (f : Form) (rd rs1 : Reg) (imm : BitVec 12)
  | ori (rd rs1 : Reg) (imm : BitVec 12) | andi (f : Form) (rd rs1 : Reg) (imm : BitVec 12)
  | slli (f : UwForm) (rd rs1 : Reg) (shamt : BitVec 6) | srli (f : Form) (rd rs1 : Reg) (shamt : BitVec 6)
  | srai (f : Form) (rd rs1 : Reg) (shamt : BitVec 6)
  | add (f : UwForm) (rd rs1 rs2 : Reg) | sub (f : Form) (rd rs1 rs2 : Reg) | sll (rd rs1 rs2 : Reg)
  | slt (rd rs1 rs2 : Reg) | sltu (rd rs1 rs2 : Reg) | xor (f : Form) (rd rs1 rs2 : Reg) | srl (rd rs1 rs2 : Reg)
  | sra (rd rs1 rs2 : Reg) | or (f : Form) (rd rs1 rs2 : Reg) | and (f : Form) (rd rs1 rs2 : Reg)
  | addiw (f : Form) (rd rs1 : Reg) (imm : BitVec 12) | slliw (rd rs1 : Reg) (shamt : BitVec 5)
  | srliw (rd rs1 : Reg) (shamt : BitVec 5) | sraiw (rd rs1 : Reg) (shamt : BitVec 5)
  | addw (f : Form) (rd rs1 rs2 : Reg) | subw (f : Form) (rd rs1 rs2 : Reg) | sllw (rd rs1 rs2 : Reg)
  | srlw (rd rs1 rs2 : Reg) | sraw (rd rs1 rs2 : Reg)
  /-- FENCE and FENCE.I; every other field is ignored and kept here as encoded. -/
  | fence (rd rs1 : Reg) (imm : BitVec 12) | fenceI (rd rs1 : Reg) (imm : BitVec 12)
  | ecall | ebreak (f : Form) | wfi | sfenceVma (rs1 rs2 : Reg)
  -- 44_atomics
  | amoswapW (rd rs1 rs2 : Reg) (aq rl : Bool) | amoaddW (rd rs1 rs2 : Reg) (aq rl : Bool)
  | amoxorW (rd rs1 rs2 : Reg) (aq rl : Bool) | amoandW (rd rs1 rs2 : Reg) (aq rl : Bool)
  | amoorW (rd rs1 rs2 : Reg) (aq rl : Bool) | amominW (rd rs1 rs2 : Reg) (aq rl : Bool)
  | amomaxW (rd rs1 rs2 : Reg) (aq rl : Bool) | amominuW (rd rs1 rs2 : Reg) (aq rl : Bool)
  | amomaxuW (rd rs1 rs2 : Reg) (aq rl : Bool)
  | amoswapD (rd rs1 rs2 : Reg) (aq rl : Bool) | amoaddD (rd rs1 rs2 : Reg) (aq rl : Bool)
  | amoxorD (rd rs1 rs2 : Reg) (aq rl : Bool) | amoandD (rd rs1 rs2 : Reg) (aq rl : Bool)
  | amoorD (rd rs1 rs2 : Reg) (aq rl : Bool) | amominD (rd rs1 rs2 : Reg) (aq rl : Bool)
  | amomaxD (rd rs1 rs2 : Reg) (aq rl : Bool) | amominuD (rd rs1 rs2 : Reg) (aq rl : Bool)
  | amomaxuD (rd rs1 rs2 : Reg) (aq rl : Bool)
  | amoswapC (rd rs1 rs2 : Reg) (aq rl : Bool)
  | lrB (rd rs1 : Reg) (aq rl : Bool) | lrH (rd rs1 : Reg) (aq rl : Bool) | lrW (rd rs1 : Reg) (aq rl : Bool)
  | lrD (rd rs1 : Reg) (aq rl : Bool) | lrC (rd rs1 : Reg) (aq rl : Bool)
  | scB (rd rs1 rs2 : Reg) (aq rl : Bool) | scH (rd rs1 rs2 : Reg) (aq rl : Bool) | scW (rd rs1 rs2 : Reg) (aq rl : Bool)
  | scD (rd rs1 rs2 : Reg) (aq rl : Bool) | scC (rd rs1 rs2 : Reg) (aq rl : Bool)
  -- 45_csr
  | csrrw (rd rs1 : Reg) (csr : BitVec 12) | csrrs (rd rs1 : Reg) (csr : BitVec 12) | csrrc (rd rs1 : Reg) (csr : BitVec 12)
  | csrrwi (rd uimm : BitVec 5) (csr : BitVec 12) | csrrsi (rd uimm : BitVec 5) (csr : BitVec 12)
  | csrrci (rd uimm : BitVec 5) (csr : BitVec 12)
  -- 46_fp_loadstore
  | flh (frd rs1 : Reg) (imm : BitVec 12) | flw (frd rs1 : Reg) (imm : BitVec 12) | fld (frd rs1 : Reg) (imm : BitVec 12)
  | fsh (fs2 rs1 : Reg) (imm : BitVec 12) | fsw (fs2 rs1 : Reg) (imm : BitVec 12) | fsd (fs2 rs1 : Reg) (imm : BitVec 12)
  -- 47_compressed
  /-- `off` is offset[8:1]. -/
  | cBeqz (rs1 : CReg) (off : BitVec 8) | cBnez (rs1 : CReg) (off : BitVec 8) | cMv (rd rs2 : Reg)
  /-- `imm` is nzimm[9:4]. -/
  | cAddi16sp (imm : BitVec 6)
  /-- `imm` is uimm[9:2]. -/
  | cAddi4spn (rd : CReg) (imm : BitVec 8) | cModesw | cJalr (rs1 : Reg) | cJr (rs1 : Reg)
  /-- `off` is offset[11:1]. -/
  | cJal (off : BitVec 11) | cJ (off : BitVec 11)
  /-- `off` is offset[6:2]. -/
  | cLw (rd rs1 : CReg) (off : BitVec 5)
  /-- `off` is offset[7:3]. -/
  | cLd (rd rs1 : CReg) (off : BitVec 5)
  /-- `off` is offset[7:2]. -/
  | cLwsp (rd : Reg) (off : BitVec 6)
  /-- `off` is offset[8:3]. -/
  | cLdsp (rd : Reg) (off : BitVec 6)
  | cFlw (frd rs1 : CReg) (off : BitVec 5) | cFlwsp (frd : Reg) (off : BitVec 6)
  | cFld (frd rs1 : CReg) (off : BitVec 5) | cFldsp (frd : Reg) (off : BitVec 6)
  /-- `off` is the offset in units of CLEN/8. -/
  | cLc (rd rs1 : CReg) (off : BitVec 5) | cLcsp (rd : Reg) (off : BitVec 6)
  | cSw (rs2 rs1 : CReg) (off : BitVec 5) | cSd (rs2 rs1 : CReg) (off : BitVec 5)
  | cSwsp (rs2 : Reg) (off : BitVec 6) | cSdsp (rs2 : Reg) (off : BitVec 6)
  | cFsw (fs2 rs1 : CReg) (off : BitVec 5) | cFswsp (fs2 : Reg) (off : BitVec 6)
  | cFsd (fs2 rs1 : CReg) (off : BitVec 5) | cFsdsp (fs2 : Reg) (off : BitVec 6)
  /-- `off` is the offset in units of CLEN/8. -/
  | cSc (rs2 rs1 : CReg) (off : BitVec 5) | cScsp (rs2 : Reg) (off : BitVec 6)
  | cLbu (rd rs1 : CReg) (off : BitVec 2)
  /-- `off` is offset[1]. -/
  | cLhu (rd rs1 : CReg) (off : BitVec 1) | cLh (rd rs1 : CReg) (off : BitVec 1)
  | cSb (rs2 rs1 : CReg) (off : BitVec 2) | cSh (rs2 rs1 : CReg) (off : BitVec 1)
  -- 48_zcmp_zcmt
  | cmPush (rlist : BitVec 4) (spimm : BitVec 2) | cmPop (rlist : BitVec 4) (spimm : BitVec 2)
  | cmPopretz (rlist : BitVec 4) (spimm : BitVec 2) | cmPopret (rlist : BitVec 4) (spimm : BitVec 2)
  | cmMvsa01 (r1s r2s : CReg) | cmMva01s (r1s r2s : CReg)
  /-- `index < 32`. -/
  | cmJt (index : BitVec 8)
  /-- `index >= 32`. -/
  | cmJalt (index : BitVec 8)
  -- 49_cbo_prefetch_zba
  | cboInval (rs1 : Reg) | cboClean (rs1 : Reg) | cboFlush (rs1 : Reg) | cboZero (rs1 : Reg)
  /-- `off` is offset[11:5]. -/
  | prefetchI (rs1 : Reg) (off : BitVec 7) | prefetchR (rs1 : Reg) (off : BitVec 7) | prefetchW (rs1 : Reg) (off : BitVec 7)
  | sh1add (rd rs1 rs2 : Reg) | sh2add (rd rs1 rs2 : Reg) | sh3add (rd rs1 rs2 : Reg)
  | sh1addUw (rd rs1 rs2 : Reg) | sh2addUw (rd rs1 rs2 : Reg) | sh3addUw (rd rs1 rs2 : Reg)
  | sh4add (rd rs1 rs2 : Reg) | sh4addUw (rd rs1 rs2 : Reg)
  deriving DecidableEq, Repr

end Sys2Proof
end

