-- ==== Sys2Proof/WellFormed.lean ====
section
/-!
DEFINITION. WellFormed.lean: the constraints the spec puts on the fields of an instruction ("dest!=0", "src!=0", register numbers with
RV32E, shift amounts, list numbers), and the shape of the operands a 16-bit form can hold. Which extension provides an
instruction is `Ctx.available` in Decode.lean.
-/
namespace Sys2Proof

/-- What decoding depends on besides the bits: the parameters, the CHERI execution mode (30_encoding R137: Capability mode or Legacy),
the current XLEN (64 or 32) and whether C is enabled (misa.C). -/
structure Ctx where
  cfg : Params
  cap : Bool
  x64 : Bool
  c16 : Bool
  deriving DecidableEq, Repr

/-- With RV32E/RV64E only registers 0 to 15 exist (30_encoding R139). -/
def Ctx.reg (c : Ctx) (r : Reg) : Bool := !(c.cfg.hasE && r.getLsbD 4)

/-- Registers 8 to 15, which a 3-bit field names (30_encoding R139). -/
def isCReg (r : Reg) : Bool := r.extractLsb' 3 2 == 1#2

/-- The register a 3-bit field names: 8 + field (30_encoding R139). -/
def CReg.reg (r : CReg) : Reg := 1#2 ++ r

/-- The immediate is a sign-extended 6-bit value (47_compressed R321, log 14). -/
def isImm6 (imm : BitVec 12) : Bool := imm == (imm.extractLsb' 0 6).signExtend 12

/-- The operands of an OP-IMM instruction fit its 16-bit form (47_compressed R321, log 14). -/
def compAddi (rd rs1 : Reg) (imm : BitVec 12) : Bool := isImm6 imm && (rs1 == 0 || (rs1 == rd && imm != 0))

/-- The operands of a two-register instruction fit the CA format: `rd' = rs1'`, `rs2'`. -/
def compCA (rd rs1 rs2 : Reg) : Bool := rd == rs1 && isCReg rd && isCReg rs2

/-- The register lists of Zcmp: 0 to 3 are reserved, and above 6 with RV32E (48_zcmp_zcmt R323). -/
def rlistOk (c : Ctx) (rlist : BitVec 4) : Bool := 4 ≤ rlist.toNat && (!c.cfg.hasE || rlist.toNat ≤ 6)

/-- Saved registers 2 to 7 are x18 to x23, absent with RV32E (48_zcmp_zcmt R322). -/
def sregOk (c : Ctx) (r : CReg) : Bool := !c.cfg.hasE || r.toNat ≤ 1

/-- The fields of the instruction satisfy every constraint the spec prints for it. -/
def wellFormed (c : Ctx) : Instr → Bool
  | .gctag d a | .gcperm d a | .gchi d a | .gcbase d a | .gclen d a | .cram d a | .cmv d a | .sentry d a
  | .jalrMode d a => c.reg d && c.reg a
  | .sceq d a b | .scss d a b | .scaddr d a b | .acperm d a b | .schi d a b | .cbld d a b | .scbnds d a b
  | .scbndsr d a b | .scmode d a b | .sll d a b | .slt d a b | .sltu d a b | .srl d a b | .sra d a b
  | .sllw d a b | .srlw d a b | .sraw d a b | .sh1add d a b | .sh2add d a b | .sh3add d a b
  | .sh1addUw d a b | .sh2addUw d a b | .sh3addUw d a b | .sh4add d a b | .sh4addUw d a b => c.reg d && c.reg a && c.reg b
  | .cadd d a b => c.reg d && c.reg a && c.reg b && b != 0
  | .caddi d a _ | .lc d a _ | .jalr d a _ | .lb d a _ | .lh d a _ | .lw d a _ | .ld d a _ | .lbu d a _ | .lhu d a _
  | .lwu d a _ | .sc d a _ | .sb d a _ | .sh d a _ | .sw d a _ | .sd d a _ | .slti d a _ | .sltiu d a _ | .ori d a _
  | .beq d a _ | .bne d a _ | .blt d a _ | .bge d a _ | .bltu d a _ | .bgeu d a _
  | .slliw d a _ | .srliw d a _ | .sraiw d a _ | .fence d a _ | .fenceI d a _
  | .csrrw d a _ | .csrrs d a _ | .csrrc d a _ => c.reg d && c.reg a
  | .scbndsi d a _ _ => c.reg d && c.reg a
  | .modesw | .mret | .sret | .dret | .ecall | .ebreak _ | .wfi | .cModesw => true
  | .auipc d _ | .jal d _ => c.reg d
  | .lui .std d _ => c.reg d
  | .lui .comp d imm => c.reg d && d != 2 && imm != 0 && imm == (imm.extractLsb' 0 6).signExtend 20
  | .addi .std d a _ | .xori .std d a _ | .andi .std d a _ | .addiw .std d a _ => c.reg d && c.reg a
  | .addi .comp d a imm => c.reg d && c.reg a && compAddi d a imm
  | .xori .comp d a imm => d == a && isCReg d && imm == 0xFFF
  | .andi .comp d a imm => d == a && isCReg d && (isImm6 imm || imm == 0x0FF)
  | .addiw .comp d a imm => c.reg d && d == a && d != 0 && isImm6 imm
  | .slli .std d a sh => c.reg d && c.reg a && (c.x64 || !sh.getLsbD 5)
  | .slli .uw d a _ => c.reg d && c.reg a
  | .slli .comp d a sh => c.reg d && d == a && d != 0 && sh != 0 && (c.x64 || !sh.getLsbD 5)
  | .slli .compUw _ _ _ => false
  | .srli .std d a sh | .srai .std d a sh => c.reg d && c.reg a && (c.x64 || !sh.getLsbD 5)
  | .srli .comp d a sh | .srai .comp d a sh => d == a && isCReg d && sh != 0 && (c.x64 || !sh.getLsbD 5)
  | .add .std d a b | .add .uw d a b => c.reg d && c.reg a && c.reg b
  | .add .comp d a b => c.reg d && c.reg b && d == a && b != 0
  | .add .compUw d a b => d == a && isCReg d && b == 0
  | .sub .std d a b | .xor .std d a b | .or .std d a b | .and .std d a b | .addw .std d a b | .subw .std d a b =>
    c.reg d && c.reg a && c.reg b
  | .sub .comp d a b | .xor .comp d a b | .or .comp d a b | .and .comp d a b | .addw .comp d a b | .subw .comp d a b =>
    compCA d a b
  | .sfenceVma a b => c.reg a && c.reg b
  | .amoswapW d a b _ _ | .amoaddW d a b _ _ | .amoxorW d a b _ _ | .amoandW d a b _ _ | .amoorW d a b _ _
  | .amominW d a b _ _ | .amomaxW d a b _ _ | .amominuW d a b _ _ | .amomaxuW d a b _ _
  | .amoswapD d a b _ _ | .amoaddD d a b _ _ | .amoxorD d a b _ _ | .amoandD d a b _ _ | .amoorD d a b _ _
  | .amominD d a b _ _ | .amomaxD d a b _ _ | .amominuD d a b _ _ | .amomaxuD d a b _ _ | .amoswapC d a b _ _
  | .scB d a b _ _ | .scH d a b _ _ | .scW d a b _ _ | .scD d a b _ _ | .scC d a b _ _ => c.reg d && c.reg a && c.reg b
  | .lrB d a _ _ | .lrH d a _ _ | .lrW d a _ _ | .lrD d a _ _ | .lrC d a _ _ => c.reg d && c.reg a
  | .csrrwi d _ _ | .csrrsi d _ _ | .csrrci d _ _ => c.reg d
  | .flh _ a _ | .flw _ a _ | .fld _ a _ | .fsh _ a _ | .fsw _ a _ | .fsd _ a _ => c.reg a
  | .cBeqz _ _ | .cBnez _ _ | .cJal _ | .cJ _ | .cLw _ _ _ | .cLd _ _ _ | .cFlw _ _ _ | .cFlwsp _ _ | .cFld _ _ _
  | .cFldsp _ _ | .cLc _ _ _ | .cSw _ _ _ | .cSd _ _ _ | .cFsw _ _ _ | .cFswsp _ _ | .cFsd _ _ _ | .cFsdsp _ _
  | .cSc _ _ _ | .cLbu _ _ _ | .cLhu _ _ _ | .cLh _ _ _ | .cSb _ _ _ | .cSh _ _ _ => true
  | .cMv d b => c.reg d && c.reg b && d != 0 && b != 0
  | .cAddi16sp imm => imm != 0
  | .cAddi4spn _ imm => imm != 0
  | .cJalr a | .cJr a => c.reg a && a != 0
  | .cLwsp d _ | .cLdsp d _ | .cLcsp d _ => c.reg d && d != 0
  | .cSwsp b _ | .cSdsp b _ | .cScsp b _ => c.reg b
  | .cmPush l _ | .cmPop l _ | .cmPopretz l _ | .cmPopret l _ => rlistOk c l
  | .cmMvsa01 a b => sregOk c a && sregOk c b && a != b
  | .cmMva01s a b => sregOk c a && sregOk c b
  | .cmJt i => i.toNat < 32
  | .cmJalt i => 32 ≤ i.toNat
  | .cboInval a | .cboClean a | .cboFlush a | .cboZero a => c.reg a
  | .prefetchI a _ | .prefetchR a _ | .prefetchW a _ => c.reg a

end Sys2Proof
end

