-- ==== Sys2Proof/Decode.lean ====
section
/-!
DEFINITION. Decode.lean: the decoder (30_encoding, and the encoding lines of 40 to 49), total on any bits and refusing by name, then the encoder
written from the same tables. Encodings marked [from general knowledge] in the spec are the base ISA's (92 D1).
-/
namespace Sys2Proof

/-- An instruction as it stands in memory: one 16-bit parcel or one 32-bit word (30_encoding R130). -/
inductive Enc where
  | half (p : BitVec 16)
  | word (w : BitVec 32)
  deriving DecidableEq, Repr

/-- Why bits are no instruction. Every one of these is an illegal-instruction exception when executed (30_encoding R131, R140). -/
inductive DecodeError where
  /-- The bytes end inside the instruction. -/
  | truncated
  /-- A 48-bit or longer encoding (R131). -/
  | longEncoding
  /-- A 16-bit encoding without C, or with misa.C = 0 (R131). -/
  | noCompressed
  /-- The pattern matches no instruction (R140). -/
  | reserved
  /-- A field constraint fails (R140). -/
  | illFormed
  /-- The extension, XLEN or CHERI execution mode the instruction needs is absent (R141). -/
  | unavailable
  deriving DecidableEq, Repr

/-! ## Fields -/

/-- The major opcode, bits[6:0]. -/
def opc (w : BitVec 32) : BitVec 7 := w.extractLsb' 0 7
def fRd (w : BitVec 32) : Reg := w.extractLsb' 7 5
def fF3 (w : BitVec 32) : BitVec 3 := w.extractLsb' 12 3
def fRs1 (w : BitVec 32) : Reg := w.extractLsb' 15 5
def fRs2 (w : BitVec 32) : Reg := w.extractLsb' 20 5
def fF7 (w : BitVec 32) : BitVec 7 := w.extractLsb' 25 7
def fF5 (w : BitVec 32) : BitVec 5 := w.extractLsb' 27 5
/-- bits[31:26], the funct6 of shifts and SCBNDSI. -/
def fF6 (w : BitVec 32) : BitVec 6 := w.extractLsb' 26 6
def fShamt (w : BitVec 32) : BitVec 6 := w.extractLsb' 20 6
/-- The I-type immediate (R132). -/
def immI (w : BitVec 32) : BitVec 12 := w.extractLsb' 20 12
/-- The S-type immediate (R132). -/
def immS (w : BitVec 32) : BitVec 12 := fF7 w ++ fRd w
/-- offset[12:1] of the B-type (R132). -/
def offB (w : BitVec 32) : BitVec 12 := w.extractLsb' 31 1 ++ (w.extractLsb' 7 1 ++ (w.extractLsb' 25 6 ++ w.extractLsb' 8 4))
/-- imm[31:12] of the U-type (R132). -/
def immU (w : BitVec 32) : BitVec 20 := w.extractLsb' 12 20
/-- offset[20:1] of the J-type (R132). -/
def offJ (w : BitVec 32) : BitVec 20 := w.extractLsb' 31 1 ++ (w.extractLsb' 12 8 ++ (w.extractLsb' 20 1 ++ w.extractLsb' 21 10))

/-! ## 32-bit instructions -/

/-- LOAD (R134); funct3 011 is LC when XLENMAX is 32 (R136). -/
def decLoad (c : Ctx) (w : BitVec 32) : Option Instr :=
  let d := fRd w; let a := fRs1 w; let i := immI w
  if fF3 w = 0 then some (.lb d a i) else if fF3 w = 1 then some (.lh d a i) else if fF3 w = 2 then some (.lw d a i)
  else if fF3 w = 3 then some (if c.cfg.xlenmax64 then .ld d a i else .lc d a i)
  else if fF3 w = 4 then some (.lbu d a i) else if fF3 w = 5 then some (.lhu d a i)
  else if fF3 w = 6 then some (.lwu d a i) else none

/-- STORE (R134); funct3 011 is SC when XLENMAX is 32, 100 when it is 64 (R136). -/
def decStore (c : Ctx) (w : BitVec 32) : Option Instr :=
  let b := fRs2 w; let a := fRs1 w; let i := immS w
  if fF3 w = 0 then some (.sb b a i) else if fF3 w = 1 then some (.sh b a i) else if fF3 w = 2 then some (.sw b a i)
  else if fF3 w = 3 then some (if c.cfg.xlenmax64 then .sd b a i else .sc b a i)
  else if fF3 w = 4 then (if c.cfg.xlenmax64 then some (.sc b a i) else none) else none

/-- LOAD-FP and STORE-FP (R134). -/
def decLoadFp (w : BitVec 32) : Option Instr :=
  let d := fRd w; let a := fRs1 w; let i := immI w
  if fF3 w = 1 then some (.flh d a i) else if fF3 w = 2 then some (.flw d a i) else if fF3 w = 3 then some (.fld d a i) else none
def decStoreFp (w : BitVec 32) : Option Instr :=
  let b := fRs2 w; let a := fRs1 w; let i := immS w
  if fF3 w = 1 then some (.fsh b a i) else if fF3 w = 2 then some (.fsw b a i) else if fF3 w = 3 then some (.fsd b a i) else none

/-- MISC-MEM (R134): FENCE, FENCE.I, the cache-block operations, and LC when XLENMAX is 64. -/
def decMiscMem (c : Ctx) (w : BitVec 32) : Option Instr :=
  let d := fRd w; let a := fRs1 w; let i := immI w
  if fF3 w = 0 then some (.fence d a i) else if fF3 w = 1 then some (.fenceI d a i)
  else if fF3 w = 2 then
    if d ≠ 0 then none
    else if i = 0 then some (.cboInval a) else if i = 1 then some (.cboClean a)
    else if i = 2 then some (.cboFlush a) else if i = 4 then some (.cboZero a) else none
  else if fF3 w = 4 then (if c.cfg.xlenmax64 then some (.lc d a i) else none) else none

/-- The prefetch an ORI encoding stands for, if any (R142, 49 R341). -/
def prefetchKind (c : Ctx) (d : Reg) (i : BitVec 12) : Option (BitVec 5) :=
  let k := i.extractLsb' 0 5
  if c.cfg.hasZicbop && d == 0 && (k == 0 || k == 1 || k == 3) then some k else none

/-- OP-IMM (R134). -/
def decOpImm (c : Ctx) (w : BitVec 32) : Option Instr :=
  let d := fRd w; let a := fRs1 w; let i := immI w
  if fF3 w = 0 then some (.addi .std d a i) else if fF3 w = 2 then some (.slti d a i) else if fF3 w = 3 then some (.sltiu d a i)
  else if fF3 w = 4 then some (.xori .std d a i)
  else if fF3 w = 6 then
    match prefetchKind c d i with
    | some k => some (if k = 0 then .prefetchI a (fF7 w) else if k = 1 then .prefetchR a (fF7 w) else .prefetchW a (fF7 w))
    | none => some (.ori d a i)
  else if fF3 w = 7 then some (.andi .std d a i)
  else if fF3 w = 1 then (if fF6 w = 0 then some (.slli .std d a (fShamt w)) else none)
  else if fF6 w = 0 then some (.srli .std d a (fShamt w)) else if fF6 w = 0x10 then some (.srai .std d a (fShamt w))
  else if fF6 w = 1 then some (.scbndsi d a (w.getLsbD 25) (fRs2 w)) else none

/-- OP-IMM-32 (R134): CADDI, and the word forms. -/
def decOpImm32 (w : BitVec 32) : Option Instr :=
  let d := fRd w; let a := fRs1 w
  if fF3 w = 0 then some (.addiw .std d a (immI w)) else if fF3 w = 2 then some (.caddi d a (immI w))
  else if fF3 w = 1 then
    if fF7 w = 0 then some (.slliw d a (fRs2 w)) else if fF6 w = 2 then some (.slli .uw d a (fShamt w)) else none
  else if fF3 w = 5 then
    if fF7 w = 0 then some (.srliw d a (fRs2 w)) else if fF7 w = 0x20 then some (.sraiw d a (fRs2 w)) else none
  else none

/-- OP with funct7 0001000: the one-source CHERI group (R133). -/
def decOp08 (w : BitVec 32) : Option Instr :=
  let d := fRd w; let a := fRs1 w; let b := fRs2 w
  if fF3 w ≠ 0 then none
  else if b = 0 then some (.gctag d a) else if b = 1 then some (.gcperm d a) else if b = 4 then some (.gchi d a)
  else if b = 5 then some (.gcbase d a) else if b = 6 then some (.gclen d a) else if b = 7 then some (.cram d a)
  else if b = 8 then some (.sentry d a) else none

/-- OP with funct7 0000110 (R133); CMV before CADD (R142). -/
def decOp06 (w : BitVec 32) : Option Instr :=
  let d := fRd w; let a := fRs1 w; let b := fRs2 w
  if fF3 w = 0 then some (if b = 0 then .cmv d a else .cadd d a b)
  else if fF3 w = 1 then some (.scaddr d a b) else if fF3 w = 2 then some (.acperm d a b) else if fF3 w = 3 then some (.schi d a b)
  else if fF3 w = 4 then some (.sceq d a b) else if fF3 w = 5 then some (.cbld d a b) else if fF3 w = 6 then some (.scss d a b)
  else some (.scmode d a b)

/-- OP (R133, R134). -/
def decOp (w : BitVec 32) : Option Instr :=
  let d := fRd w; let a := fRs1 w; let b := fRs2 w
  if fF7 w = 0 then
    if fF3 w = 0 then some (.add .std d a b) else if fF3 w = 1 then some (.sll d a b) else if fF3 w = 2 then some (.slt d a b)
    else if fF3 w = 3 then some (.sltu d a b) else if fF3 w = 4 then some (.xor .std d a b) else if fF3 w = 5 then some (.srl d a b)
    else if fF3 w = 6 then some (.or .std d a b) else some (.and .std d a b)
  else if fF7 w = 0x20 then
    if fF3 w = 0 then some (.sub .std d a b) else if fF3 w = 5 then some (.sra d a b) else none
  else if fF7 w = 6 then decOp06 w
  else if fF7 w = 7 then
    if fF3 w = 0 then some (.scbnds d a b) else if fF3 w = 1 then some (.scbndsr d a b) else none
  else if fF7 w = 8 then decOp08 w
  else if fF7 w = 9 then (if w = 0x12001033#32 then some .modesw else none)
  else if fF7 w = 0x10 then
    if fF3 w = 2 then some (.sh1add d a b) else if fF3 w = 4 then some (.sh2add d a b) else if fF3 w = 6 then some (.sh3add d a b)
    else if fF3 w = 7 then some (.sh4add d a b) else none
  else none

/-- OP-32 (R134). -/
def decOp32 (w : BitVec 32) : Option Instr :=
  let d := fRd w; let a := fRs1 w; let b := fRs2 w
  if fF7 w = 0 then
    if fF3 w = 0 then some (.addw .std d a b) else if fF3 w = 1 then some (.sllw d a b)
    else if fF3 w = 5 then some (.srlw d a b) else none
  else if fF7 w = 0x20 then
    if fF3 w = 0 then some (.subw .std d a b) else if fF3 w = 5 then some (.sraw d a b) else none
  else if fF7 w = 4 then (if fF3 w = 0 then some (.add .uw d a b) else none)
  else if fF7 w = 0x10 then
    if fF3 w = 2 then some (.sh1addUw d a b) else if fF3 w = 4 then some (.sh2addUw d a b)
    else if fF3 w = 6 then some (.sh3addUw d a b) else if fF3 w = 7 then some (.sh4addUw d a b) else none
  else none

/-- BRANCH (R134). -/
def decBranch (w : BitVec 32) : Option Instr :=
  let a := fRs1 w; let b := fRs2 w; let o := offB w
  if fF3 w = 0 then some (.beq a b o) else if fF3 w = 1 then some (.bne a b o) else if fF3 w = 4 then some (.blt a b o)
  else if fF3 w = 5 then some (.bge a b o) else if fF3 w = 6 then some (.bltu a b o) else if fF3 w = 7 then some (.bgeu a b o)
  else none

/-- The capability-width atomics (R135): funct5 selects. -/
def decAmoC (w : BitVec 32) : Option Instr :=
  let d := fRd w; let a := fRs1 w; let b := fRs2 w; let q := w.getLsbD 26; let r := w.getLsbD 25
  if fF5 w = 1 then some (.amoswapC d a b q r) else if fF5 w = 2 then (if b = 0 then some (.lrC d a q r) else none)
  else if fF5 w = 3 then some (.scC d a b q r) else none

/-- AMO with funct3 010 (44_atomics R241, R247, R254). -/
def decAmoW (w : BitVec 32) : Option Instr :=
  let d := fRd w; let a := fRs1 w; let b := fRs2 w; let q := w.getLsbD 26; let r := w.getLsbD 25
  if fF5 w = 0 then some (.amoaddW d a b q r) else if fF5 w = 1 then some (.amoswapW d a b q r)
  else if fF5 w = 2 then (if b = 0 then some (.lrW d a q r) else none) else if fF5 w = 3 then some (.scW d a b q r)
  else if fF5 w = 4 then some (.amoxorW d a b q r) else if fF5 w = 8 then some (.amoorW d a b q r)
  else if fF5 w = 12 then some (.amoandW d a b q r) else if fF5 w = 16 then some (.amominW d a b q r)
  else if fF5 w = 20 then some (.amomaxW d a b q r) else if fF5 w = 24 then some (.amominuW d a b q r)
  else if fF5 w = 28 then some (.amomaxuW d a b q r) else none

/-- AMO with funct3 011 when XLENMAX is 64 (44_atomics R242, R248, R255). -/
def decAmoD (w : BitVec 32) : Option Instr :=
  let d := fRd w; let a := fRs1 w; let b := fRs2 w; let q := w.getLsbD 26; let r := w.getLsbD 25
  if fF5 w = 0 then some (.amoaddD d a b q r) else if fF5 w = 1 then some (.amoswapD d a b q r)
  else if fF5 w = 2 then (if b = 0 then some (.lrD d a q r) else none) else if fF5 w = 3 then some (.scD d a b q r)
  else if fF5 w = 4 then some (.amoxorD d a b q r) else if fF5 w = 8 then some (.amoorD d a b q r)
  else if fF5 w = 12 then some (.amoandD d a b q r) else if fF5 w = 16 then some (.amominD d a b q r)
  else if fF5 w = 20 then some (.amomaxD d a b q r) else if fF5 w = 24 then some (.amominuD d a b q r)
  else if fF5 w = 28 then some (.amomaxuD d a b q r) else none

/-- AMO with funct3 000 and 001: Zbhlrsc (R135). -/
def decAmoBH (w : BitVec 32) : Option Instr :=
  let d := fRd w; let a := fRs1 w; let b := fRs2 w; let q := w.getLsbD 26; let r := w.getLsbD 25
  if fF5 w = 2 then (if b = 0 then some (if fF3 w = 0 then .lrB d a q r else .lrH d a q r) else none)
  else if fF5 w = 3 then some (if fF3 w = 0 then .scB d a b q r else .scH d a b q r) else none

/-- AMO (R134, R136). -/
def decAmo (c : Ctx) (w : BitVec 32) : Option Instr :=
  if fF3 w = 0 ∨ fF3 w = 1 then decAmoBH w
  else if fF3 w = 2 then decAmoW w
  else if fF3 w = 3 then (if c.cfg.xlenmax64 then decAmoD w else decAmoC w)
  else if fF3 w = 4 then (if c.cfg.xlenmax64 then decAmoC w else none) else none

/-- SYSTEM (R134, R142). -/
def decSystem (w : BitVec 32) : Option Instr :=
  let d := fRd w; let a := fRs1 w; let i := immI w
  if fF3 w = 0 then
    if w = 0x00000073#32 then some .ecall else if w = 0x00100073#32 then some (.ebreak .std)
    else if w = 0x10200073#32 then some .sret else if w = 0x30200073#32 then some .mret
    else if w = 0x7B200073#32 then some .dret else if w = 0x10500073#32 then some .wfi
    else if fF7 w = 9 ∧ d = 0 then some (.sfenceVma a (fRs2 w)) else none
  else if fF3 w = 1 then some (.csrrw d a i) else if fF3 w = 2 then some (.csrrs d a i) else if fF3 w = 3 then some (.csrrc d a i)
  else if fF3 w = 5 then some (.csrrwi d a i) else if fF3 w = 6 then some (.csrrsi d a i) else if fF3 w = 7 then some (.csrrci d a i)
  else none

/-- A 32-bit word, by major opcode (R134). -/
def decode32 (c : Ctx) (w : BitVec 32) : Option Instr :=
  if opc w = 0x03 then decLoad c w else if opc w = 0x07 then decLoadFp w else if opc w = 0x0F then decMiscMem c w
  else if opc w = 0x13 then decOpImm c w else if opc w = 0x17 then some (.auipc (fRd w) (immU w))
  else if opc w = 0x1B then decOpImm32 w else if opc w = 0x23 then decStore c w else if opc w = 0x27 then decStoreFp w
  else if opc w = 0x2F then decAmo c w else if opc w = 0x33 then decOp w else if opc w = 0x37 then some (.lui .std (fRd w) (immU w))
  else if opc w = 0x3B then decOp32 w else if opc w = 0x63 then decBranch w
  else if opc w = 0x67 then
    if fF3 w = 0 then some (.jalr (fRd w) (fRs1 w) (immI w))
    else if fF3 w = 1 ∧ immI w = 0 then some (.jalrMode (fRd w) (fRs1 w)) else none
  else if opc w = 0x6F then some (.jal (fRd w) (offJ w))
  else if opc w = 0x73 then decSystem w else none

/-! ## 16-bit instructions (30_encoding R143, 47_compressed, 48_zcmp_zcmt) -/

def pF3 (p : BitVec 16) : BitVec 3 := p.extractLsb' 13 3
def pRd (p : BitVec 16) : Reg := p.extractLsb' 7 5
def pRs2 (p : BitVec 16) : Reg := p.extractLsb' 2 5
/-- The register field at bits[9:7] and the one at bits[4:2]. -/
def pHi (p : BitVec 16) : CReg := p.extractLsb' 7 3
def pLo (p : BitVec 16) : CReg := p.extractLsb' 2 3
/-- The 6-bit immediate of the CI format, bits[12], [6:2]. -/
def pImm6 (p : BitVec 16) : BitVec 6 := p.extractLsb' 12 1 ++ p.extractLsb' 2 5
/-- offset[6:2] of the CL and CS word formats. -/
def pOffW (p : BitVec 16) : BitVec 5 := p.extractLsb' 5 1 ++ (p.extractLsb' 10 3 ++ p.extractLsb' 6 1)
/-- offset[7:3] of the CL and CS double formats. -/
def pOffD (p : BitVec 16) : BitVec 5 := p.extractLsb' 5 2 ++ p.extractLsb' 10 3
/-- offset[8:4] of C.LC and C.SC when XLENMAX is 64. -/
def pOffQ (p : BitVec 16) : BitVec 5 := p.extractLsb' 10 1 ++ (p.extractLsb' 5 2 ++ p.extractLsb' 11 2)
/-- The stack-relative load offsets: [7:2], [8:3] and [9:4]. -/
def pOffWsp (p : BitVec 16) : BitVec 6 := p.extractLsb' 2 2 ++ (p.extractLsb' 12 1 ++ p.extractLsb' 4 3)
def pOffDsp (p : BitVec 16) : BitVec 6 := p.extractLsb' 2 3 ++ (p.extractLsb' 12 1 ++ p.extractLsb' 5 2)
def pOffQsp (p : BitVec 16) : BitVec 6 := p.extractLsb' 2 4 ++ (p.extractLsb' 12 1 ++ p.extractLsb' 6 1)
/-- The stack-relative store offsets: [7:2], [8:3] and [9:4]. -/
def pOffWss (p : BitVec 16) : BitVec 6 := p.extractLsb' 7 2 ++ p.extractLsb' 9 4
def pOffDss (p : BitVec 16) : BitVec 6 := p.extractLsb' 7 3 ++ p.extractLsb' 10 3
def pOffQss (p : BitVec 16) : BitVec 6 := p.extractLsb' 7 4 ++ p.extractLsb' 11 2
/-- offset[8:1] of the CB format. -/
def pOffB (p : BitVec 16) : BitVec 8 :=
  p.extractLsb' 12 1 ++ (p.extractLsb' 5 2 ++ (p.extractLsb' 2 1 ++ (p.extractLsb' 10 2 ++ p.extractLsb' 3 2)))
/-- offset[11:1] of the CJ format. -/
def pOffJ (p : BitVec 16) : BitVec 11 :=
  p.extractLsb' 12 1 ++ (p.extractLsb' 8 1 ++ (p.extractLsb' 9 2 ++ (p.extractLsb' 6 1 ++ (p.extractLsb' 7 1 ++
    (p.extractLsb' 2 1 ++ (p.extractLsb' 11 1 ++ p.extractLsb' 3 3))))))
/-- nzimm[9:4] of C.ADDI16SP. -/
def pImm16sp (p : BitVec 16) : BitVec 6 :=
  p.extractLsb' 12 1 ++ (p.extractLsb' 3 2 ++ (p.extractLsb' 5 1 ++ (p.extractLsb' 2 1 ++ p.extractLsb' 6 1)))
/-- uimm[9:2] of C.ADDI4SPN. -/
def pImm4spn (p : BitVec 16) : BitVec 8 :=
  p.extractLsb' 7 4 ++ (p.extractLsb' 11 2 ++ (p.extractLsb' 5 1 ++ p.extractLsb' 6 1))

/-- Quadrant 0 (47_compressed R285, R316 to R320). The slots of R285's table follow XLENMAX and the mode (R285; 30_encoding R136, R137; 92 D33): with XLENMAX 64 and
XLEN 32 they are those of RV64, so that C.LD and C.SD, which need XLEN 64, are illegal there (R136; log 16). -/
def decodeC0 (c : Ctx) (p : BitVec 16) : Option Instr :=
  let a := pHi p; let d := pLo p; let q := c.cfg.xlenmax64
  if pF3 p = 0 then some (.cAddi4spn d (pImm4spn p))
  else if pF3 p = 1 then some (if c.cap && q then .cLc d a (pOffQ p) else .cFld d a (pOffD p))
  else if pF3 p = 2 then some (.cLw d a (pOffW p))
  else if pF3 p = 3 then
    some (if q then .cLd d a (pOffD p) else if c.cap then .cLc d a (pOffD p) else .cFlw d a (pOffW p))
  else if pF3 p = 4 then
    if p.extractLsb' 10 3 = 0 then some (.cLbu d a (p.extractLsb' 5 1 ++ p.extractLsb' 6 1))
    else if p.extractLsb' 10 3 = 1 then
      some (if p.getLsbD 6 then .cLh d a (p.extractLsb' 5 1) else .cLhu d a (p.extractLsb' 5 1))
    else if p.extractLsb' 10 3 = 2 then some (.cSb d a (p.extractLsb' 5 1 ++ p.extractLsb' 6 1))
    else if p.extractLsb' 10 3 = 3 then (if p.getLsbD 6 then none else some (.cSh d a (p.extractLsb' 5 1))) else none
  else if pF3 p = 5 then some (if c.cap && q then .cSc d a (pOffQ p) else .cFsd d a (pOffD p))
  else if pF3 p = 6 then some (.cSw d a (pOffW p))
  else some (if q then .cSd d a (pOffD p) else if c.cap then .cSc d a (pOffD p) else .cFsw d a (pOffW p))

/-- A hint that names a register it would not change: no effect (30_encoding R140; log 14). -/
def hintNop : Instr := .addi .comp 0 0 0
/-- Such a hint, if the register it names exists (30_encoding R139). -/
def hintOf (c : Ctx) (r : Reg) : Option Instr := if c.reg r then some hintNop else none

/-- The CA group and the Zcb register forms, bits[15:10] = 100011 or 100111 (47_compressed R321, R291; log 14). -/
def decodeCA (c : Ctx) (p : BitVec 16) : Option Instr :=
  let d := (pHi p).reg; let b := (pLo p).reg; let k := p.extractLsb' 5 2
  if p = 0x9C1D#16 ∧ c.cfg.mode then some .cModesw
  else if p.getLsbD 12 then
    if k = 0 then some (.subw .comp d d b) else if k = 1 then some (.addw .comp d d b)
    else if k = 3 then
      if pLo p = 0 then some (.andi .comp d d 0x0FF) else if pLo p = 4 then some (.add .compUw d d 0)
      else if pLo p = 5 then some (.xori .comp d d 0xFFF) else none
    else none
  else if k = 0 then some (.sub .comp d d b) else if k = 1 then some (.xor .comp d d b)
  else if k = 2 then some (.or .comp d d b) else some (.and .comp d d b)

/-- Quadrant 1. The slot that C.JAL and C.ADDIW share is not in R285's table; it follows the current XLEN, where R294 says RV32 and RV64 (DESIGN CHOICE, log 43). -/
def decodeC1 (c : Ctx) (p : BitVec 16) : Option Instr :=
  let d := pRd p; let i := pImm6 p; let e := (pHi p).reg
  if pF3 p = 0 then (if d ≠ 0 ∧ i = 0 then hintOf c d else some (.addi .comp d d (i.signExtend 12)))
  else if pF3 p = 1 then some (if c.x64 then .addiw .comp d d (i.signExtend 12) else .cJal (pOffJ p))
  else if pF3 p = 2 then some (if d = 0 then hintNop else .addi .comp d 0 (i.signExtend 12))
  else if pF3 p = 3 then some (if d = 2 then .cAddi16sp (pImm16sp p) else .lui .comp d (i.signExtend 20))
  else if pF3 p = 4 then
    if p.extractLsb' 10 2 = 0 then some (if i = 0 then hintNop else .srli .comp e e i)
    else if p.extractLsb' 10 2 = 1 then some (if i = 0 then hintNop else .srai .comp e e i)
    else if p.extractLsb' 10 2 = 2 then some (.andi .comp e e (i.signExtend 12))
    else decodeCA c p
  else if pF3 p = 5 then some (.cJ (pOffJ p))
  else if pF3 p = 6 then some (.cBeqz (pHi p) (pOffB p)) else some (.cBnez (pHi p) (pOffB p))

/-- The Zcmp and Zcmt patterns of the slot bits[15:13] = 101, q = 10 (48_zcmp_zcmt R322; 92 D31): none when the parcel is none of them. They
are taken when Zcmp or Zcmt is implemented, those of the other too (R322), which `Ctx.available` then makes illegal (log 16). -/
def decodeZcm (c : Ctx) (p : BitVec 16) : Option Instr :=
  let l := p.extractLsb' 4 4; let s := p.extractLsb' 2 2; let k := p.extractLsb' 8 5; let t := p.extractLsb' 5 2
  if !(c.cfg.hasZcmp || c.cfg.hasZcmt) then none
  else if k == 0x18 then some (.cmPush l s) else if k == 0x1A then some (.cmPop l s)
  else if k == 0x1C then some (.cmPopretz l s) else if k == 0x1E then some (.cmPopret l s)
  else if p.extractLsb' 10 3 == 3 && t == 1 then some (.cmMvsa01 (pHi p) (pLo p))
  else if p.extractLsb' 10 3 == 3 && t == 3 then some (.cmMva01s (pHi p) (pLo p))
  else if p.extractLsb' 10 3 == 0 then
    some (if (p.extractLsb' 2 8).toNat < 32 then .cmJt (p.extractLsb' 2 8) else .cmJalt (p.extractLsb' 2 8))
  else none

/-- Quadrant 2; the slots of R285's table as in quadrant 0. -/
def decodeC2 (c : Ctx) (p : BitVec 16) : Option Instr :=
  let d := pRd p; let b := pRs2 p; let q := c.cfg.xlenmax64
  if pF3 p = 0 then
    if (d = 0 ∨ pImm6 p = 0) ∧ (c.x64 = true ∨ p.getLsbD 12 = false) then hintOf c d else some (.slli .comp d d (pImm6 p))
  else if pF3 p = 1 then some (if c.cap && q then .cLcsp d (pOffQsp p) else .cFldsp d (pOffDsp p))
  else if pF3 p = 2 then some (.cLwsp d (pOffWsp p))
  else if pF3 p = 3 then
    some (if q then .cLdsp d (pOffDsp p) else if c.cap then .cLcsp d (pOffDsp p) else .cFlwsp d (pOffWsp p))
  else if pF3 p = 4 then
    if p.getLsbD 12 then
      if b = 0 then some (if d = 0 then .ebreak .comp else .cJalr d) else some (.add .comp d d b)
    else if b = 0 then some (.cJr d) else (if d = 0 then hintOf c b else some (.cMv d b))
  else if pF3 p = 5 then
    match decodeZcm c p with
    | some i => some i
    | none => some (if c.cap && q then .cScsp b (pOffQss p) else .cFsdsp b (pOffDss p))
  else if pF3 p = 6 then some (.cSwsp b (pOffWss p))
  else some (if q then .cSdsp b (pOffDss p) else if c.cap then .cScsp b (pOffDss p) else .cFswsp b (pOffWss p))

/-- A 16-bit parcel, by quadrant. -/
def decode16 (c : Ctx) (p : BitVec 16) : Option Instr :=
  if p.extractLsb' 0 2 = 0 then decodeC0 c p else if p.extractLsb' 0 2 = 1 then decodeC1 c p
  else if p.extractLsb' 0 2 = 2 then decodeC2 c p else none

/-! ## Which extension provides which instruction (30_encoding R141) -/

/-- The Zcmp/Zcmt patterns take a stack-relative store's parcel (92 D31). -/
def Ctx.notZcm (c : Ctx) (imm : BitVec 6) (rs2 : Reg) : Bool := (decodeZcm c (5#3 ++ (imm ++ (rs2 ++ 2#2)))).isNone

/-- C.FLD, C.FLDSP and C.FSD exist beside neither Zcmp nor Zcmt (00_scope R9); C.FSDSP keeps what they leave of its slot (92 D31; log 16). -/
def Ctx.hasZcd (c : Ctx) : Bool := c.cfg.hasD && !c.cfg.hasZcmp && !c.cfg.hasZcmt

/-- The implementation, the current XLEN and the CHERI execution mode provide the instruction. -/
def Ctx.available (c : Ctx) (i : Instr) : Bool :=
  let half := c.cfg.hasC && c.c16
  let dbl := half && c.cfg.hasD && !(c.cap && c.cfg.xlenmax64)
  let sgl := half && c.cfg.hasF && !c.cfg.xlenmax64 && !c.cap
  match i with
  | .scmode _ _ _ | .modesw => c.cfg.mode
  | .cModesw => half && c.cfg.mode
  | .ld _ _ _ | .lwu _ _ _ | .sd _ _ _ | .slliw _ _ _ | .srliw _ _ _ | .sraiw _ _ _ | .sllw _ _ _
  | .srlw _ _ _ | .sraw _ _ _ | .addiw .std _ _ _ | .addw .std _ _ _ | .subw .std _ _ _ | .sh4addUw _ _ _ => c.x64
  | .addiw .comp _ _ _ | .addw .comp _ _ _ => half && c.x64
  | .subw .comp d _ b => half && c.x64 && !(c.cfg.mode && d == 8 && b == 15)
  | .sret | .sfenceVma _ _ => c.cfg.hasS
  | .dret => c.cfg.hasSdext
  | .ori d _ imm => (prefetchKind c d imm).isNone
  | .prefetchI _ _ | .prefetchR _ _ | .prefetchW _ _ => c.cfg.hasZicbop
  | .amoswapW _ _ _ _ _ | .amoaddW _ _ _ _ _ | .amoxorW _ _ _ _ _ | .amoandW _ _ _ _ _ | .amoorW _ _ _ _ _ | .amominW _ _ _ _ _
  | .amomaxW _ _ _ _ _ | .amominuW _ _ _ _ _ | .amomaxuW _ _ _ _ _ | .lrW _ _ _ _ | .scW _ _ _ _ _
  | .amoswapC _ _ _ _ _ | .lrC _ _ _ _ | .scC _ _ _ _ _ => c.cfg.hasA
  | .amoswapD _ _ _ _ _ | .amoaddD _ _ _ _ _ | .amoxorD _ _ _ _ _ | .amoandD _ _ _ _ _ | .amoorD _ _ _ _ _ | .amominD _ _ _ _ _
  | .amomaxD _ _ _ _ _ | .amominuD _ _ _ _ _ | .amomaxuD _ _ _ _ _ | .lrD _ _ _ _ | .scD _ _ _ _ _ => c.cfg.hasA && c.x64
  | .lrB _ _ _ _ | .lrH _ _ _ _ | .scB _ _ _ _ _ | .scH _ _ _ _ _ => c.cfg.hasZbhlrsc
  | .flh _ _ _ | .fsh _ _ _ => c.cfg.halfMoves
  | .flw _ _ _ | .fsw _ _ _ => c.cfg.hasF
  | .fld _ _ _ | .fsd _ _ _ => c.cfg.hasD
  | .lui .comp _ _ | .addi .comp _ _ _ | .slli .comp _ _ _ | .srli .comp _ _ _ | .srai .comp _ _ _ | .add .comp _ _ _
  | .sub .comp _ _ _ | .xor .comp _ _ _ | .or .comp _ _ _ | .and .comp _ _ _ | .ebreak .comp => half
  | .andi .comp _ _ imm => half && (isImm6 imm || c.cfg.hasZcb)
  | .xori .comp _ _ _ => half && c.cfg.hasZcb
  | .add .uw _ _ _ | .slli .uw _ _ _ => c.cfg.hasZba && c.x64
  | .add .compUw _ _ _ => half && c.cfg.hasZcb && c.cfg.hasZba && c.x64
  | .slli .compUw _ _ _ => false
  | .cBeqz _ _ | .cBnez _ _ | .cMv _ _ | .cAddi16sp _ | .cAddi4spn _ _ | .cJalr _ | .cJr _ | .cJ _ | .cLw _ _ _ | .cLwsp _ _
  | .cSw _ _ _ | .cSwsp _ _ => half
  | .cJal _ => half && !c.x64
  | .cLd _ _ _ | .cLdsp _ _ | .cSd _ _ _ | .cSdsp _ _ => half && c.x64
  | .cFlw _ _ _ | .cFlwsp _ _ | .cFsw _ _ _ | .cFswsp _ _ => sgl
  | .cFld _ _ _ | .cFldsp _ _ | .cFsd _ _ _ => dbl && c.hasZcd
  | .cFsdsp b off => dbl && c.notZcm (off.extractLsb' 0 3 ++ off.extractLsb' 3 3) b
  | .cLc _ _ _ | .cLcsp _ _ | .cSc _ _ _ => half && c.cap && (c.x64 == c.cfg.xlenmax64)
  | .cScsp b off => half && c.cap && (c.x64 == c.cfg.xlenmax64) && (!c.cfg.xlenmax64 || c.notZcm (off.extractLsb' 0 2 ++ off.extractLsb' 2 4) b)
  | .cLbu _ _ _ | .cLhu _ _ _ | .cLh _ _ _ | .cSb _ _ _ | .cSh _ _ _ => half && c.cfg.hasZcb
  | .cmPush _ _ | .cmPop _ _ | .cmPopretz _ _ | .cmPopret _ _ | .cmMvsa01 _ _ | .cmMva01s _ _ => half && c.cfg.hasZcmp
  | .cmJt _ | .cmJalt _ => half && c.cfg.hasZcmt
  | .cboInval _ | .cboClean _ | .cboFlush _ => c.cfg.hasZicbom
  | .cboZero _ => c.cfg.hasZicboz
  | .sh1add _ _ _ | .sh2add _ _ _ | .sh3add _ _ _ => c.cfg.hasZba
  | .sh1addUw _ _ _ | .sh2addUw _ _ _ | .sh3addUw _ _ _ => c.cfg.hasZba && c.x64
  | .gctag _ _ | .gcperm _ _ | .gchi _ _ | .gcbase _ _ | .gclen _ _ | .cram _ _ | .sceq _ _ _ | .scss _ _ _ | .cmv _ _ | .cadd _ _ _ 
  | .caddi _ _ _ | .scaddr _ _ _ | .acperm _ _ _ | .schi _ _ _ | .sentry _ _ | .cbld _ _ _ | .scbnds _ _ _ | .scbndsi _ _ _ _ 
  | .scbndsr _ _ _ | .lc _ _ _ | .sc _ _ _ | .auipc _ _ | .jal _ _ | .jalr _ _ _ | .jalrMode _ _ | .beq _ _ _ | .bne _ _ _ | .blt _ _ _ 
  | .bge _ _ _ | .bltu _ _ _ | .bgeu _ _ _ | .lb _ _ _ | .lh _ _ _ | .lw _ _ _ | .lbu _ _ _ | .lhu _ _ _ | .sb _ _ _ | .sh _ _ _ 
  | .sw _ _ _ | .mret | .slti _ _ _ | .sltiu _ _ _ | .sll _ _ _ | .slt _ _ _ | .sltu _ _ _ | .srl _ _ _ | .sra _ _ _ | .fence _ _ _ 
  | .fenceI _ _ _ | .ecall | .wfi | .csrrw _ _ _ | .csrrs _ _ _ | .csrrc _ _ _ | .csrrwi _ _ _ | .csrrsi _ _ _ | .csrrci _ _ _ 
  | .sh4add _ _ _ | .lui .std _ _ | .addi .std _ _ _ | .xori .std _ _ _ | .andi .std _ _ _ | .slli .std _ _ _ | .srli .std _ _ _ 
  | .srai .std _ _ _ | .add .std _ _ _ | .sub .std _ _ _ | .xor .std _ _ _ | .or .std _ _ _ | .and .std _ _ _ | .ebreak .std => true

/-! ## The decoder -/

/-- The instruction is legal here: its fields are well formed and it is provided. -/
def Ctx.legal (c : Ctx) (i : Instr) : Bool := wellFormed c i && c.available i

/-- Accept a candidate that is well formed and available (R140, R141). -/
def Ctx.accept (c : Ctx) : Option Instr → Except DecodeError Instr
  | none => .error .reserved
  | some i => if wellFormed c i then (if c.available i then .ok i else .error .unavailable) else .error .illFormed

/-- The instruction an encoding stands for (R131, R140 to R142). -/
def decodeEnc (c : Ctx) : Enc → Except DecodeError Instr
  | .half p => if c.cfg.hasC && c.c16 then c.accept (decode16 c p) else .error .noCompressed
  | .word w => if w.extractLsb' 2 3 = 7 ∨ w.extractLsb' 0 2 ≠ 3 then .error .longEncoding else c.accept (decode32 c w)

/-- The first parcel is a whole 16-bit instruction (R131). -/
def isHalf (p : BitVec 16) : Bool := p.extractLsb' 0 2 != 3

/-- Decode the first instruction of a list of bytes, and give the rest of the list; total on any bytes (R130, R131). -/
def decode (c : Ctx) : List Byte → Except DecodeError (Instr × List Byte)
  | b0 :: b1 :: rest =>
    if isHalf (b1 ++ b0) then (decodeEnc c (.half (b1 ++ b0))).map (·, rest)
    else match rest with
      | b2 :: b3 :: rest => (decodeEnc c (.word (b3 ++ (b2 ++ (b1 ++ b0))))).map (·, rest)
      | _ => .error .truncated
  | _ => .error .truncated

/-! ## The encoder (30_encoding R132, R133, R135, R143, and the encoding lines of 40 to 49) -/

def encR (f7 : BitVec 7) (b a : Reg) (f3 : BitVec 3) (d : Reg) (op : BitVec 7) : Enc := .word (f7 ++ (b ++ (a ++ (f3 ++ (d ++ op)))))
def encI (imm : BitVec 12) (a : Reg) (f3 : BitVec 3) (d : Reg) (op : BitVec 7) : Enc := .word (imm ++ (a ++ (f3 ++ (d ++ op))))
def encS (imm : BitVec 12) (b a : Reg) (f3 : BitVec 3) (op : BitVec 7) : Enc :=
  .word (imm.extractLsb' 5 7 ++ (b ++ (a ++ (f3 ++ (imm.extractLsb' 0 5 ++ op)))))
/-- B-type: `off` is offset[12:1]. -/
def encB (off : BitVec 12) (b a : Reg) (f3 : BitVec 3) : Enc :=
  .word (off.extractLsb' 11 1 ++ (off.extractLsb' 4 6 ++ (b ++ (a ++ (f3 ++ (off.extractLsb' 0 4 ++ (off.extractLsb' 10 1 ++ 0x63#7)))))))
def encU (imm : BitVec 20) (d : Reg) (op : BitVec 7) : Enc := .word (imm ++ (d ++ op))
/-- J-type: `off` is offset[20:1]. -/
def encJ (off : BitVec 20) (d : Reg) : Enc :=
  .word (off.extractLsb' 19 1 ++ (off.extractLsb' 0 10 ++ (off.extractLsb' 10 1 ++ (off.extractLsb' 11 8 ++ (d ++ 0x6F#7)))))
/-- Shifts with a 6-bit amount: funct6, shamt. -/
def encSh (f6 : BitVec 6) (sh : BitVec 6) (a : Reg) (f3 : BitVec 3) (d : Reg) (op : BitVec 7) : Enc :=
  .word (f6 ++ (sh ++ (a ++ (f3 ++ (d ++ op)))))
/-- AMO layout: funct5, aq, rl. -/
def encA (f5 : BitVec 5) (q r : Bool) (b a : Reg) (f3 : BitVec 3) (d : Reg) : Enc :=
  .word (f5 ++ (BitVec.ofBool q ++ (BitVec.ofBool r ++ (b ++ (a ++ (f3 ++ (d ++ 0x2F#7)))))))
/-- funct3 of the capability-width atomics (R136). -/
def amoCF3 (c : Ctx) : BitVec 3 := if c.cfg.xlenmax64 then 4 else 3
/-- CR, and CI with the immediate split as bits[12] and [6:2]. -/
def encCI (f3 : BitVec 3) (hi : BitVec 1) (d : Reg) (lo : BitVec 5) (q : BitVec 2) : Enc := .half (f3 ++ (hi ++ (d ++ (lo ++ q))))
def encCI6 (f3 : BitVec 3) (imm : BitVec 6) (d : Reg) (q : BitVec 2) : Enc :=
  encCI f3 (imm.extractLsb' 5 1) d (imm.extractLsb' 0 5) q
def encCSS (f3 : BitVec 3) (imm : BitVec 6) (b : Reg) : Enc := .half (f3 ++ (imm ++ (b ++ 2#2)))
/-- CL and CS: bits[12:10], the register at [9:7], bits[6:5], the register at [4:2]. -/
def encCL (f3 : BitVec 3) (hi : BitVec 3) (a : CReg) (lo : BitVec 2) (d : CReg) (q : BitVec 2) : Enc :=
  .half (f3 ++ (hi ++ (a ++ (lo ++ (d ++ q)))))
/-- CL and CS with a word, double or 16-byte scaled offset. -/
def encCLW (f3 : BitVec 3) (off : BitVec 5) (a d : CReg) : Enc :=
  encCL f3 (off.extractLsb' 1 3) a (off.extractLsb' 0 1 ++ off.extractLsb' 4 1) d 0
def encCLD (f3 : BitVec 3) (off : BitVec 5) (a d : CReg) : Enc := encCL f3 (off.extractLsb' 0 3) a (off.extractLsb' 3 2) d 0
def encCLQ (f3 : BitVec 3) (off : BitVec 5) (a d : CReg) : Enc :=
  encCL f3 (off.extractLsb' 0 2 ++ off.extractLsb' 4 1) a (off.extractLsb' 2 2) d 0
/-- Stack-relative loads. -/
def encWsp (f3 : BitVec 3) (off : BitVec 6) (d : Reg) : Enc :=
  encCI f3 (off.extractLsb' 3 1) d (off.extractLsb' 0 3 ++ off.extractLsb' 4 2) 2
def encDsp (f3 : BitVec 3) (off : BitVec 6) (d : Reg) : Enc :=
  encCI f3 (off.extractLsb' 2 1) d (off.extractLsb' 0 2 ++ off.extractLsb' 3 3) 2
def encQsp (f3 : BitVec 3) (off : BitVec 6) (d : Reg) : Enc :=
  encCI f3 (off.extractLsb' 1 1) d (off.extractLsb' 0 1 ++ off.extractLsb' 2 4) 2
/-- Stack-relative stores. -/
def encWss (f3 : BitVec 3) (off : BitVec 6) (b : Reg) : Enc := encCSS f3 (off.extractLsb' 0 4 ++ off.extractLsb' 4 2) b
def encDss (f3 : BitVec 3) (off : BitVec 6) (b : Reg) : Enc := encCSS f3 (off.extractLsb' 0 3 ++ off.extractLsb' 3 3) b
def encQss (f3 : BitVec 3) (off : BitVec 6) (b : Reg) : Enc := encCSS f3 (off.extractLsb' 0 2 ++ off.extractLsb' 2 4) b
/-- CB: `off` is offset[8:1]. -/
def encCB (f3 : BitVec 3) (off : BitVec 8) (a : CReg) : Enc :=
  .half (f3 ++ (off.extractLsb' 7 1 ++ (off.extractLsb' 2 2 ++ (a ++ (off.extractLsb' 5 2 ++ (off.extractLsb' 0 2 ++
    (off.extractLsb' 4 1 ++ 1#2)))))))
/-- CJ: `off` is offset[11:1]. -/
def encCJ (f3 : BitVec 3) (off : BitVec 11) : Enc :=
  .half (f3 ++ (off.extractLsb' 10 1 ++ (off.extractLsb' 3 1 ++ (off.extractLsb' 7 2 ++ (off.extractLsb' 9 1 ++
    (off.extractLsb' 5 1 ++ (off.extractLsb' 6 1 ++ (off.extractLsb' 0 3 ++ (off.extractLsb' 4 1 ++ 1#2)))))))))
/-- CA: bits[15:10], the register at [9:7], bits[6:5], the register at [4:2]. -/
def encCA (f6 : BitVec 6) (d : Reg) (k : BitVec 2) (b : CReg) : Enc := .half (f6 ++ (d.extractLsb' 0 3 ++ (k ++ (b ++ 1#2))))
/-- The Zcb loads and stores. -/
def encCLB (f6 : BitVec 6) (a : CReg) (k : BitVec 2) (d : CReg) : Enc := .half (f6 ++ (a ++ (k ++ (d ++ 0#2))))
/-- CMPP, CMMV and CMJT. -/
def encPP (k : BitVec 5) (l : BitVec 4) (s : BitVec 2) : Enc := .half (5#3 ++ (k ++ (l ++ (s ++ 2#2))))
def encMV (a : CReg) (k : BitVec 2) (b : CReg) : Enc := .half (0x2B#6 ++ (a ++ (k ++ (b ++ 2#2))))
def encJT (i : BitVec 8) : Enc := .half (0x28#6 ++ (i ++ 2#2))
def low (r : Reg) : CReg := r.extractLsb' 0 3

/-- The encoding of an instruction. -/
def encode (c : Ctx) : Instr → Enc
  | .gctag d a => encR 8 0 a 0 d 0x33 | .gcperm d a => encR 8 1 a 0 d 0x33 | .gchi d a => encR 8 4 a 0 d 0x33
  | .gcbase d a => encR 8 5 a 0 d 0x33 | .gclen d a => encR 8 6 a 0 d 0x33 | .cram d a => encR 8 7 a 0 d 0x33
  | .sceq d a b => encR 6 b a 4 d 0x33 | .scss d a b => encR 6 b a 6 d 0x33
  | .cmv d a => encR 6 0 a 0 d 0x33 | .cadd d a b => encR 6 b a 0 d 0x33 | .caddi d a i => encI i a 2 d 0x1B
  | .scaddr d a b => encR 6 b a 1 d 0x33 | .acperm d a b => encR 6 b a 2 d 0x33 | .schi d a b => encR 6 b a 3 d 0x33
  | .sentry d a => encR 8 8 a 0 d 0x33 | .cbld d a b => encR 6 b a 5 d 0x33 | .scbnds d a b => encR 7 b a 0 d 0x33
  | .scbndsi d a s i => encSh 1 (BitVec.ofBool s ++ i) a 5 d 0x13
  | .scbndsr d a b => encR 7 b a 1 d 0x33 | .scmode d a b => encR 6 b a 7 d 0x33 | .modesw => .word 0x12001033
  | .lc d a i => if c.cfg.xlenmax64 then encI i a 4 d 0x0F else encI i a 3 d 0x03
  | .sc b a i => if c.cfg.xlenmax64 then encS i b a 4 0x23 else encS i b a 3 0x23
  | .auipc d i => encU i d 0x17 | .jal d o => encJ o d | .jalr d a i => encI i a 0 d 0x67 | .jalrMode d a => encI 0 a 1 d 0x67
  | .beq a b o => encB o b a 0 | .bne a b o => encB o b a 1 | .blt a b o => encB o b a 4 | .bge a b o => encB o b a 5
  | .bltu a b o => encB o b a 6 | .bgeu a b o => encB o b a 7
  | .lb d a i => encI i a 0 d 0x03 | .lh d a i => encI i a 1 d 0x03 | .lw d a i => encI i a 2 d 0x03
  | .ld d a i => encI i a 3 d 0x03 | .lbu d a i => encI i a 4 d 0x03 | .lhu d a i => encI i a 5 d 0x03
  | .lwu d a i => encI i a 6 d 0x03
  | .sb b a i => encS i b a 0 0x23 | .sh b a i => encS i b a 1 0x23 | .sw b a i => encS i b a 2 0x23
  | .sd b a i => encS i b a 3 0x23
  | .mret => .word 0x30200073 | .sret => .word 0x10200073 | .dret => .word 0x7B200073
  | .lui .std d i => encU i d 0x37 | .lui .comp d i => encCI6 3 (i.extractLsb' 0 6) d 1
  | .addi .std d a i => encI i a 0 d 0x13
  | .addi .comp d a i => if a = d then encCI6 0 (i.extractLsb' 0 6) d 1 else encCI6 2 (i.extractLsb' 0 6) d 1
  | .slti d a i => encI i a 2 d 0x13 | .sltiu d a i => encI i a 3 d 0x13
  | .xori .std d a i => encI i a 4 d 0x13 | .xori .comp d _ _ => encCA 0x27 d 3 5
  | .ori d a i => encI i a 6 d 0x13
  | .andi .std d a i => encI i a 7 d 0x13
  | .andi .comp d _ i => if i = 0x0FF then encCA 0x27 d 3 0 else encCI6 4 (i.extractLsb' 0 6) (2#2 ++ low d) 1
  | .slli .std d a s => encSh 0 s a 1 d 0x13 | .slli .uw d a s => encSh 2 s a 1 d 0x1B
  | .slli .comp d _ s => encCI6 0 s d 2 | .slli .compUw d _ s => encCI6 0 s d 2
  | .srli .std d a s => encSh 0 s a 5 d 0x13 | .srli .comp d _ s => encCI6 4 s (0#2 ++ low d) 1
  | .srai .std d a s => encSh 0x10 s a 5 d 0x13 | .srai .comp d _ s => encCI6 4 s (1#2 ++ low d) 1
  | .add .std d a b => encR 0 b a 0 d 0x33 | .add .uw d a b => encR 4 b a 0 d 0x3B
  | .add .comp d _ b => encCI 4 1 d b 2 | .add .compUw d _ _ => encCA 0x27 d 3 4
  | .sub .std d a b => encR 0x20 b a 0 d 0x33 | .sub .comp d _ b => encCA 0x23 d 0 (low b)
  | .sll d a b => encR 0 b a 1 d 0x33 | .slt d a b => encR 0 b a 2 d 0x33 | .sltu d a b => encR 0 b a 3 d 0x33
  | .xor .std d a b => encR 0 b a 4 d 0x33 | .xor .comp d _ b => encCA 0x23 d 1 (low b)
  | .srl d a b => encR 0 b a 5 d 0x33 | .sra d a b => encR 0x20 b a 5 d 0x33
  | .or .std d a b => encR 0 b a 6 d 0x33 | .or .comp d _ b => encCA 0x23 d 2 (low b)
  | .and .std d a b => encR 0 b a 7 d 0x33 | .and .comp d _ b => encCA 0x23 d 3 (low b)
  | .addiw .std d a i => encI i a 0 d 0x1B | .addiw .comp d _ i => encCI6 1 (i.extractLsb' 0 6) d 1
  | .slliw d a s => encR 0 s a 1 d 0x1B | .srliw d a s => encR 0 s a 5 d 0x1B | .sraiw d a s => encR 0x20 s a 5 d 0x1B
  | .addw .std d a b => encR 0 b a 0 d 0x3B | .addw .comp d _ b => encCA 0x27 d 1 (low b)
  | .subw .std d a b => encR 0x20 b a 0 d 0x3B | .subw .comp d _ b => encCA 0x27 d 0 (low b)
  | .sllw d a b => encR 0 b a 1 d 0x3B | .srlw d a b => encR 0 b a 5 d 0x3B | .sraw d a b => encR 0x20 b a 5 d 0x3B
  | .fence d a i => encI i a 0 d 0x0F | .fenceI d a i => encI i a 1 d 0x0F
  | .ecall => .word 0x00000073 | .ebreak .std => .word 0x00100073 | .ebreak .comp => .half 0x9002
  | .wfi => .word 0x10500073 | .sfenceVma a b => encR 9 b a 0 0 0x73
  | .amoswapW d a b q r => encA 1 q r b a 2 d | .amoaddW d a b q r => encA 0 q r b a 2 d | .amoxorW d a b q r => encA 4 q r b a 2 d
  | .amoandW d a b q r => encA 12 q r b a 2 d | .amoorW d a b q r => encA 8 q r b a 2 d | .amominW d a b q r => encA 16 q r b a 2 d
  | .amomaxW d a b q r => encA 20 q r b a 2 d | .amominuW d a b q r => encA 24 q r b a 2 d
  | .amomaxuW d a b q r => encA 28 q r b a 2 d
  | .amoswapD d a b q r => encA 1 q r b a 3 d | .amoaddD d a b q r => encA 0 q r b a 3 d | .amoxorD d a b q r => encA 4 q r b a 3 d
  | .amoandD d a b q r => encA 12 q r b a 3 d | .amoorD d a b q r => encA 8 q r b a 3 d | .amominD d a b q r => encA 16 q r b a 3 d
  | .amomaxD d a b q r => encA 20 q r b a 3 d | .amominuD d a b q r => encA 24 q r b a 3 d
  | .amomaxuD d a b q r => encA 28 q r b a 3 d
  | .amoswapC d a b q r => encA 1 q r b a (amoCF3 c) d
  | .lrB d a q r => encA 2 q r 0 a 0 d | .lrH d a q r => encA 2 q r 0 a 1 d | .lrW d a q r => encA 2 q r 0 a 2 d
  | .lrD d a q r => encA 2 q r 0 a 3 d | .lrC d a q r => encA 2 q r 0 a (amoCF3 c) d
  | .scB d a b q r => encA 3 q r b a 0 d | .scH d a b q r => encA 3 q r b a 1 d | .scW d a b q r => encA 3 q r b a 2 d
  | .scD d a b q r => encA 3 q r b a 3 d | .scC d a b q r => encA 3 q r b a (amoCF3 c) d
  | .csrrw d a n => encI n a 1 d 0x73 | .csrrs d a n => encI n a 2 d 0x73 | .csrrc d a n => encI n a 3 d 0x73
  | .csrrwi d u n => encI n u 5 d 0x73 | .csrrsi d u n => encI n u 6 d 0x73 | .csrrci d u n => encI n u 7 d 0x73
  | .flh d a i => encI i a 1 d 0x07 | .flw d a i => encI i a 2 d 0x07 | .fld d a i => encI i a 3 d 0x07
  | .fsh b a i => encS i b a 1 0x27 | .fsw b a i => encS i b a 2 0x27 | .fsd b a i => encS i b a 3 0x27
  | .cBeqz a o => encCB 6 o a | .cBnez a o => encCB 7 o a | .cMv d b => encCI 4 0 d b 2
  | .cAddi16sp i => encCI 3 (i.extractLsb' 5 1) 2
      (i.extractLsb' 0 1 ++ (i.extractLsb' 2 1 ++ (i.extractLsb' 3 2 ++ i.extractLsb' 1 1))) 1
  | .cAddi4spn d i => .half (0#3 ++ (i.extractLsb' 2 2 ++ (i.extractLsb' 4 4 ++ (i.extractLsb' 0 1 ++ (i.extractLsb' 1 1 ++
      (d ++ 0#2))))))
  | .cModesw => .half 0x9C1D | .cJalr a => encCI 4 1 a 0 2 | .cJr a => encCI 4 0 a 0 2
  | .cJal o => encCJ 1 o | .cJ o => encCJ 5 o
  | .cLw d a o => encCLW 2 o a d | .cLd d a o => encCLD 3 o a d
  | .cLwsp d o => encWsp 2 o d | .cLdsp d o => encDsp 3 o d
  | .cFlw d a o => encCLW 3 o a d | .cFlwsp d o => encWsp 3 o d
  | .cFld d a o => encCLD 1 o a d | .cFldsp d o => encDsp 1 o d
  | .cLc d a o => if c.cfg.xlenmax64 then encCLQ 1 o a d else encCLD 3 o a d
  | .cLcsp d o => if c.cfg.xlenmax64 then encQsp 1 o d else encDsp 3 o d
  | .cSw b a o => encCLW 6 o a b | .cSd b a o => encCLD 7 o a b
  | .cSwsp b o => encWss 6 o b | .cSdsp b o => encDss 7 o b
  | .cFsw b a o => encCLW 7 o a b | .cFswsp b o => encWss 7 o b
  | .cFsd b a o => encCLD 5 o a b | .cFsdsp b o => encDss 5 o b
  | .cSc b a o => if c.cfg.xlenmax64 then encCLQ 5 o a b else encCLD 7 o a b
  | .cScsp b o => if c.cfg.xlenmax64 then encQss 5 o b else encDss 7 o b
  | .cLbu d a o => encCLB 0x20 a (o.extractLsb' 0 1 ++ o.extractLsb' 1 1) d
  | .cLhu d a o => encCLB 0x21 a (0#1 ++ o) d | .cLh d a o => encCLB 0x21 a (1#1 ++ o) d
  | .cSb b a o => encCLB 0x22 a (o.extractLsb' 0 1 ++ o.extractLsb' 1 1) b
  | .cSh b a o => encCLB 0x23 a (0#1 ++ o) b
  | .cmPush l s => encPP 0x18 l s | .cmPop l s => encPP 0x1A l s | .cmPopretz l s => encPP 0x1C l s
  | .cmPopret l s => encPP 0x1E l s
  | .cmMvsa01 a b => encMV a 1 b | .cmMva01s a b => encMV a 3 b
  | .cmJt i => encJT i | .cmJalt i => encJT i
  | .cboInval a => encI 0 a 2 0 0x0F | .cboClean a => encI 1 a 2 0 0x0F | .cboFlush a => encI 2 a 2 0 0x0F
  | .cboZero a => encI 4 a 2 0 0x0F
  | .prefetchI a o => encR o 0 a 6 0 0x13 | .prefetchR a o => encR o 1 a 6 0 0x13 | .prefetchW a o => encR o 3 a 6 0 0x13
  | .sh1add d a b => encR 0x10 b a 2 d 0x33 | .sh2add d a b => encR 0x10 b a 4 d 0x33 | .sh3add d a b => encR 0x10 b a 6 d 0x33
  | .sh1addUw d a b => encR 0x10 b a 2 d 0x3B | .sh2addUw d a b => encR 0x10 b a 4 d 0x3B
  | .sh3addUw d a b => encR 0x10 b a 6 d 0x3B
  | .sh4add d a b => encR 0x10 b a 7 d 0x33 | .sh4addUw d a b => encR 0x10 b a 7 d 0x3B

/-- The length of an encoding in bytes (30_encoding R130). -/
def Enc.bytes : Enc → Nat
  | .half _ => 2
  | .word _ => 4

/-- The context of the state after reset with the default parameters: Legacy mode, XLEN = 64, C enabled (70_reset_and_hazards R411; log 38). -/
def tableCtx : Ctx := ⟨{}, false, true, true⟩

/-- The bytes of a table word as memory holds them, the bits from `nbits` on zero; 4 bytes, the longest instruction. -/
def tableBytes (nbits w : Nat) : List Byte :=
  let v := w % 2 ^ nbits
  [BitVec.ofNat 8 v, BitVec.ofNat 8 (v / 2 ^ 8), BitVec.ofNat 8 (v / 2 ^ 16), BitVec.ofNat 8 (v / 2 ^ 24)]

/-- The instruction the decoder reads from a row's word (log 38). -/
def decodeTableWord (nbits w : Nat) : Option Instr :=
  match decode tableCtx (tableBytes nbits w) with
  | .ok (i, _) => some i
  | .error _ => none

end Sys2Proof
end

