-- ==== Sys2Proof/Machine/Cap.lean ====
section
/-!
DEFINITION. Machine/Cap.lean: the capability value (10_state), its fields, the decoding and encoding of its bounds, and the helpers of 00_scope R15.
Addresses and lengths are natural numbers here. Fields are 64 bits wide; with XLENMAX = 32 only their low 32 bits are used (log 2).
-/
namespace Sys2Proof.Machine
open Sys2Proof

/-- A capability: tag, metadata word `cap[CLEN-1:XLENMAX]`, address `cap[XLENMAX-1:0]` (10_state R17, R18). -/
structure Cap where
  tag : Bool
  md : Word
  addr : Word
  deriving DecidableEq, Repr

/-- The five architectural permissions (10_state R19). -/
structure Perms where
  c : Bool
  w : Bool
  r : Bool
  x : Bool
  asr : Bool
  deriving DecidableEq, Repr

/-! ## Bit helpers -/

/-- Keep the low XLENMAX bits (log 2). -/
def truncX (p : Params) (v : Word) : Word := if p.xlenmax64 then v else (v.setWidth 32).setWidth 64

/-- Sign-extend the low 32 bits (00_scope R11). -/
def sext32 (v : Word) : Word := (v.setWidth 32).signExtend 64

/-- Zero-extend the low 32 bits (00_scope R11). -/
def zext32 (v : Word) : Word := (v.setWidth 32).setWidth 64

/-- Bits `lo` to `lo + w - 1` as a number (00_scope R10). -/
def bitsOf (v : Word) (lo w : Nat) : Nat := (v.toNat >>> lo) % 2 ^ w

/-- Set bit `i` to `b`, the others unchanged. -/
def putBit (v : Word) (i : Nat) (b : Bool) : Word := if b then v ||| (1#64 <<< i) else v &&& ~~~(1#64 <<< i)

/-- Replace the bits of `mask` by those of `new`. -/
def putMask (v mask new : Word) : Word := (v &&& ~~~mask) ||| (new &&& mask)

/-! ## Field positions (10_state R26) -/

def mBit (p : Params) : Nat := if p.xlenmax64 then 47 else 25
def sBit (p : Params) : Nat := if p.xlenmax64 then 27 else 20
def efBit (p : Params) : Nat := if p.xlenmax64 then 26 else 19
/-- MW, the mantissa width (10_state R24). -/
def mw (p : Params) : Nat := if p.xlenmax64 then 14 else 10
/-- h = EW / 2 (10_state R27). -/
def hw (p : Params) : Nat := if p.xlenmax64 then 3 else 2
/-- CAP_MAX_E (10_state R24). -/
def capMaxE (p : Params) : Nat := if p.xlenmax64 then 52 else 24

/-- The M bit; without Zcheri_mode it is a reserved bit and reads as no mode (10_state R50). -/
def Cap.m (p : Params) (k : Cap) : Bool := k.md.getLsbD (mBit p)
def Cap.s (p : Params) (k : Cap) : Bool := k.md.getLsbD (sBit p)
def Cap.ef (p : Params) (k : Cap) : Bool := k.md.getLsbD (efBit p)
def Cap.t8 (p : Params) (k : Cap) : Nat := if p.xlenmax64 then 0 else bitsOf k.md 18 1
def Cap.tmid (p : Params) (k : Cap) : Nat := if p.xlenmax64 then bitsOf k.md 17 9 else bitsOf k.md 12 6
def Cap.te (p : Params) (k : Cap) : Nat := if p.xlenmax64 then bitsOf k.md 14 3 else bitsOf k.md 10 2
def Cap.bmid (p : Params) (k : Cap) : Nat := if p.xlenmax64 then bitsOf k.md 3 11 else bitsOf k.md 2 8
def Cap.be (p : Params) (k : Cap) : Nat := if p.xlenmax64 then bitsOf k.md 0 3 else bitsOf k.md 0 2
def Cap.ap (p : Params) (k : Cap) : Nat := if p.xlenmax64 then bitsOf k.md 48 5 else bitsOf k.md 26 4
def Cap.sdp (p : Params) (k : Cap) : Nat := if p.xlenmax64 then bitsOf k.md 53 4 else bitsOf k.md 30 2

/-- The bits of AP and SDP, of the bounds fields, and the reserved bits (10_state R26, R50). -/
def apMask (p : Params) : Word := if p.xlenmax64 then 0x001F000000000000 else 0x3C000000
def sdpMask (p : Params) : Word := if p.xlenmax64 then 0x01E0000000000000 else 0xC0000000
def boundsMask (p : Params) : Word := if p.xlenmax64 then 0x07FFFFFF else 0x000FFFFF
def reservedMask (p : Params) : Word :=
  if p.xlenmax64 then (if p.mode then 0xFE007FFFF0000000 else 0xFE00FFFFF0000000)
  else (if p.mode then 0x01E00000 else 0x03E00000)

/-- Every bit of the metadata word that is not reserved is kept, the others read zero (11_csrs R91). -/
def Cap.dropReserved (p : Params) (k : Cap) : Cap := { k with md := k.md &&& ~~~(reservedMask p) }

/-! ## Permissions -/

/-- AP decoded, XLENMAX = 32 (10_state R20); the reserved pattern grants nothing. -/
def decodeAP32 (ap : Nat) : Perms :=
  if ap = 1 then ⟨false, false, false, false, false⟩
  else ⟨ap.testBit 0, ap.testBit 1, ap.testBit 3 || ap.testBit 2, ap.testBit 3, ap.testBit 3 && ap.testBit 2⟩

/-- AP decoded, XLENMAX = 64 (10_state R21). -/
def decodeAP64 (ap : Nat) : Perms := ⟨ap.testBit 0, ap.testBit 1, ap.testBit 2, ap.testBit 3, ap.testBit 4⟩

/-- The permissions a capability grants (00_scope R15). -/
def Cap.perms (p : Params) (k : Cap) : Perms := if p.xlenmax64 then decodeAP64 (k.ap p) else decodeAP32 (k.ap p)

/-- The GCPERM bit map of the permissions: bits 0 to 4 are C, W, R, X, ASR (40_cap_inspect R162). -/
def Perms.bits (q : Perms) : Nat := q.c.toNat + 2 * q.w.toNat + 4 * q.r.toNat + 8 * q.x.toNat + 16 * q.asr.toNat

/-- The AP value of a permission set; with XLENMAX = 32 a set no row encodes gives 0 (41_cap_manipulate R175). -/
def encodeAP (p : Params) (q : Perms) : Nat :=
  if p.xlenmax64 then q.bits
  else ((List.range 16).find? fun n => n != 1 && decodeAP32 n == q).getD 0

/-- Both permission sets, the second within the first. -/
def Perms.le (q r : Perms) : Bool := (!q.c || r.c) && (!q.w || r.w) && (!q.r || r.r) && (!q.x || r.x) && (!q.asr || r.asr)

/-- Replace AP and SDP. -/
def Cap.withPerms (p : Params) (k : Cap) (ap sdp : Nat) : Cap :=
  let new := if p.xlenmax64 then BitVec.ofNat 64 (ap * 2 ^ 48 + sdp * 2 ^ 53) else BitVec.ofNat 64 (ap * 2 ^ 26 + sdp * 2 ^ 30)
  { k with md := putMask k.md (apMask p ||| sdpMask p) new }

/-! ## Bounds -/

/-- The stored exponent `e` of the internal-exponent format (10_state R27). -/
def Cap.expField (p : Params) (k : Cap) : Nat :=
  if p.xlenmax64 then k.te p * 8 + k.be p else k.t8 p * 16 + k.te p * 4 + k.be p

/-- B and the low MW-2 bits of T as decoded (10_state R27). -/
def Cap.bMant (p : Params) (k : Cap) : Nat := k.bmid p * 2 ^ hw p + (if k.ef p then k.be p else 0)
def Cap.tLow (p : Params) (k : Cap) : Nat := k.tmid p * 2 ^ hw p + (if k.ef p then k.te p else 0)

/-- Malformed bounds (10_state R33). -/
def Cap.malformed (p : Params) (k : Cap) : Bool :=
  !k.ef p &&
    (decide (capMaxE p < k.expField p)
      || (k.expField p == 0 && k.bMant p / 2 ^ (mw p - 2) != 0)
      || (k.expField p == 1 && k.bMant p / 2 ^ (mw p - 1) != 0))

/-- The exponent E; 0 for the exponent-zero format (10_state R27). Meaningful when the bounds are not malformed. -/
def Cap.exp (p : Params) (k : Cap) : Nat := if k.ef p then 0 else capMaxE p - k.expField p

/-- T, with its two most significant bits derived (10_state R27). -/
def Cap.tMant (p : Params) (k : Cap) : Nat :=
  let b := k.bMant p
  let carry := if k.tLow p < b % 2 ^ (mw p - 2) then 1 else 0
  let lmsb := if k.ef p then k.t8 p else 1
  ((b / 2 ^ (mw p - 2) + carry + lmsb) % 4) * 2 ^ (mw p - 2) + k.tLow p

/-- Tables 8 and 9: the correction of the upper section (10_state R27). -/
def boundCorrection (a3 x3 r : Nat) : Int := if a3 < r ∧ r ≤ x3 then -1 else if r ≤ a3 ∧ x3 < r then 1 else 0

/-- Base and top of the bounds decoded against an address (10_state R27; 92 D2). -/
def Cap.decodeBounds (p : Params) (k : Cap) (a : Word) : Nat × Nat :=
  let X := p.xlenmax
  let e := k.exp p
  let n := (truncX p a).toNat
  let b3 := k.bMant p / 2 ^ (mw p - 3)
  let t3 := k.tMant p / 2 ^ (mw p - 3)
  let r := (b3 + 7) % 8
  let a3 := (n >>> (e + mw p - 3)) % 8
  let hi : Int := (n >>> (e + mw p) : Nat)
  let sz : Int := (2 ^ (e + mw p) : Nat)
  let t := (((hi + boundCorrection a3 t3 r) * sz + (k.tMant p * 2 ^ e : Nat)) % (2 ^ (X + 1) : Nat)).toNat
  let b := (((hi + boundCorrection a3 b3 r) * sz + (k.bMant p * 2 ^ e : Nat)) % (2 ^ X : Nat)).toNat
  let flip := e + 1 < capMaxE p ∧ 1 < (t / 2 ^ (X - 1) + 4 - b / 2 ^ (X - 1)) % 4
  (b, if flip then (if t < 2 ^ X then t + 2 ^ X else t - 2 ^ X) else t)

/-- base, top and length of a capability (10_state R28; 92 D3). -/
def Cap.base (p : Params) (k : Cap) : Nat := (k.decodeBounds p k.addr).1
def Cap.top (p : Params) (k : Cap) : Nat := (k.decodeBounds p k.addr).2
def Cap.length (p : Params) (k : Cap) : Nat := (k.top p + 2 ^ (p.xlenmax + 1) - k.base p) % 2 ^ (p.xlenmax + 1)

/-- All bytes of `[addr, addr + n)` are in bounds (10_state R29). Bounds that cannot be decoded contain nothing (log 2). -/
def Cap.inBounds (p : Params) (k : Cap) (addr : Word) (n : Nat) : Bool :=
  !k.malformed p && decide (k.base p ≤ addr.toNat) && decide (addr.toNat + n ≤ k.top p)

/-- The representable range check (10_state R31; 92 D4). -/
def Cap.representable (p : Params) (k : Cap) (a : Word) : Bool :=
  !k.malformed p && decide (k.decodeBounds p k.addr = k.decodeBounds p a)

/-- SCADDR semantics (10_state R32). -/
def Cap.setAddr (p : Params) (k : Cap) (a : Word) : Cap :=
  { tag := k.tag && !k.s p && k.representable p a, md := k.md, addr := a }

/-- The address incremented, modulo 2^XLENMAX, with SCADDR semantics (41_cap_manipulate R172). -/
def Cap.incAddr (p : Params) (k : Cap) (off : Word) : Cap := k.setAddr p (truncX p (k.addr + off))

/-! ## Invalid address conversion (11_csrs R93; log 1) -/

/-- The address bits a register stores. -/
def AddrBits.width (b : AddrBits) (r : AddrReg) : Nat :=
  match r with
  | .pcc => b.pcc
  | .mtvecc => b.mtvecc
  | .mepcc => b.mepcc
  | .stvecc => b.stvecc
  | .sepcc => b.sepcc
  | .jvtc => b.jvtc
  | .dpcc => b.dpcc
  | .ddc => b.ddc
  | .dddc => b.dddc

/-- The same, at least one more than an Sv39 address has, so that an invalid address can be held; with XLENMAX = 32 every register stores all of them. -/
def Params.widthOf (p : Params) (r : AddrReg) : Nat := if p.xlenmax64 then max 40 (AddrBits.width p.addrBits r) else 64

/-- Bits `w - 1` to 0, sign-extended. -/
def sextFrom (w : Nat) (v : Word) : Word := (v <<< (64 - w)).sshiftRight (64 - w)

/-- The register can hold the address: the bits it does not store repeat the highest one it does. -/
def Params.holds (p : Params) (r : AddrReg) (a : Word) : Bool := decide (64 ≤ Params.widthOf p r) || sextFrom (Params.widthOf p r) a == a

/-- `convertInvalid`: another address that the register can hold, invalid under every translation scheme it has the bits for; which one is free, but the low
six bits stay. -/
def Params.converted (p : Params) (r : AddrReg) (a : Word) : Word :=
  let w := Params.widthOf p r
  let f := putMask (Config.convertInvalid r a) 63 a
  sextFrom w (putBit f (w - 1) (!f.getLsbD (w - 2)))

/-- The address as the register holds it. -/
def Params.heldAddr (p : Params) (r : AddrReg) (a : Word) : Word := if Params.holds p r a then a else Params.converted p r a

/-- A capability as the register holds it: where its address is converted, by set-address semantics. -/
def Cap.hold (p : Params) (r : AddrReg) (k : Cap) : Cap := if Params.holds p r k.addr then k else k.setAddr p (Params.converted p r k.addr)

/-- unseal and seal (10_state R23). -/
def Cap.unseal (p : Params) (k : Cap) : Cap := { k with md := putBit k.md (sBit p) false }
def Cap.seal (p : Params) (k : Cap) : Cap := { k with md := putBit k.md (sBit p) true }

/-- The NULL capability with an address (10_state R35). -/
def nullWithAddr (a : Word) : Cap := ⟨false, 0, a⟩
def nullCap : Cap := nullWithAddr 0

/-- The metadata of the Infinite capability (10_state R36). -/
def infiniteMd (p : Params) : Word := if p.xlenmax64 then 0x01FF000000000000 else 0xFC000000
/-- The Infinite capability with its tag set and a chosen address (10_state R36). -/
def infiniteAt (p : Params) (a : Word) : Cap := ⟨true, infiniteMd p, a⟩

/-- Bounds, permissions and SDP of `a` are within those of `b`; a malformed operand is within nothing (10_state R48; 92 D5). -/
def isCapSubset (p : Params) (a b : Cap) : Bool :=
  !a.malformed p && !b.malformed p && decide (b.base p ≤ a.base p) && decide (a.top p ≤ b.top p) &&
    (a.perms p).le (b.perms p) && (a.md &&& ~~~b.md &&& sdpMask p == 0)

/-- The fields fit XLENMAX bits (log 2); and a tagged capability has bounds that decode, no reserved bit set and no reserved AP value (10_state R34 (a) to (c)). -/
def Cap.lawful (p : Params) (k : Cap) : Bool :=
  truncX p k.md == k.md && truncX p k.addr == k.addr &&
    (!k.tag || (!k.malformed p && (k.md &&& reservedMask p == 0) && (p.xlenmax64 || k.ap p != 1)))

/-- What a tagged capability satisfies, beside being unforged (10_state R34 (a) to (d)). -/
def Cap.derivable (p : Params) (k : Cap) : Bool :=
  !k.malformed p && (k.md &&& reservedMask p == 0) && decide (k.base p ≤ k.top p) && (p.xlenmax64 || k.ap p != 1)

/-! ## Encoding bounds (41_cap_manipulate R181) -/

/-- The outcome of `encodeBounds`: the bounds fields in place in a metadata word, exactness, the bounds, and the format chosen. -/
structure EncBounds where
  bits : Word
  exact : Bool
  base : Nat
  top : Nat
  ef : Bool
  exp : Nat
  deriving DecidableEq, Repr

/-- Round down, and up, to a multiple of `g`. -/
def floorTo (g x : Nat) : Nat := x / g * g
def ceilTo (g x : Nat) : Nat := (x + g - 1) / g * g

/-- The inequality that fixes the exponent. -/
def expFits (p : Params) (base top e : Nat) : Bool :=
  decide (ceilTo (2 ^ (e + hw p)) top - floorTo (2 ^ (e + hw p)) base < 2 ^ (e + mw p - 1))

/-- The least exponent from `e` on that fits, looking at most `fuel` further. -/
def findExp (p : Params) (base top : Nat) : Nat → Nat → Nat
  | 0, e => e
  | fuel + 1, e => if expFits p base top e then e else findExp p base top fuel (e + 1)

/-- Put the bounds fields where the metadata word has them (10_state R26). -/
def boundsBits (p : Params) (ef : Bool) (t8 tmid te bmid be : Nat) : Word :=
  if p.xlenmax64 then BitVec.ofNat 64 (ef.toNat * 2 ^ 26 + tmid * 2 ^ 17 + te * 2 ^ 14 + bmid * 2 ^ 3 + be)
  else BitVec.ofNat 64 (ef.toNat * 2 ^ 19 + t8 * 2 ^ 18 + tmid * 2 ^ 12 + te * 2 ^ 10 + bmid * 2 ^ 2 + be)

/-- The request fits the exponent-zero format. -/
def smallLen (p : Params) (len : Nat) : Bool := if p.xlenmax64 then decide (len < 4096) else decide (len < 512)

/-- `encodeBounds(base, len)` (41_cap_manipulate R181; 92 D25). -/
def encodeBounds (p : Params) (base len : Nat) : EncBounds :=
  let top := base + len
  let h := hw p
  let M := mw p
  if smallLen p len then
    let b := base % 2 ^ M
    let t := top % 2 ^ M
    let tl := t % 2 ^ (M - 2)
    let carry := if tl < b % 2 ^ (M - 2) then 1 else 0
    let t8 := if p.xlenmax64 then 0 else (t / 2 ^ (M - 2) + 8 - b / 2 ^ (M - 2) - carry) % 4 % 2
    { bits := boundsBits p true t8 (tl / 2 ^ h) (tl % 2 ^ h) (b / 2 ^ h) (b % 2 ^ h)
      exact := true, base := base, top := top, ef := true, exp := 0 }
  else
    let e := findExp p base top (capMaxE p) 0
    let g := 2 ^ (e + h)
    let b' := floorTo g base
    let t' := ceilTo g top
    let f := capMaxE p - e
    let bm := (b' >>> e) % 2 ^ M / 2 ^ h
    let tm := (t' >>> e) % 2 ^ (M - 2) / 2 ^ h
    { bits := if p.xlenmax64 then boundsBits p false 0 tm (f / 8) bm (f % 8)
        else boundsBits p false (f / 16) tm (f / 4 % 4) bm (f % 4)
      exact := b' == base && t' == top, base := b', top := t', ef := false, exp := e }

/-- `setBounds(cs1, len, mustBeExact)` (41_cap_manipulate R179). -/
def Cap.setBounds (p : Params) (k : Cap) (len : Nat) (mustBeExact : Bool) : Cap :=
  let f := encodeBounds p k.addr.toNat len
  { tag := k.tag && !k.s p && !k.malformed p && decide (k.base p ≤ f.base) && decide (f.top ≤ k.top p) && (f.exact || !mustBeExact)
    md := putMask k.md (boundsMask p) f.bits
    addr := k.addr }

/-- The alignment mask of CRAM, before truncation to XLEN (40_cap_inspect R166). -/
def cramMask (p : Params) (len : Nat) : Word :=
  let f := encodeBounds p 0 len
  if f.ef then BitVec.allOnes 64 else ~~~(BitVec.ofNat 64 (2 ^ (f.exp + hw p) - 1))

end Sys2Proof.Machine
end

