-- ==== Sys2Proof/Machine/State.lean ====
section
/-!
DEFINITION. Machine/State.lean: everything the spec gives the machine, as plain data, and the state right after reset (70_reset_and_hazards).
-/
namespace Sys2Proof.Machine
open Sys2Proof

/-- Privilege modes (60_exceptions R390); debug mode is a separate flag. -/
inductive Priv where
  | user
  | supervisor
  | machine
  deriving DecidableEq, Repr

/-- One trigger (60_exceptions R367, R395, R398; 11_csrs R95): the fields of tdata1 and tdata2, named as the debug specification names those of mcontrol6 (log 37). -/
structure Trigger where
  /-- tdata2: the address compared with. -/
  addr : Word := 0
  /-- type is 6, mcontrol6; else 15, a disabled trigger. -/
  enabled : Bool := false
  /-- Only debug mode may write this trigger. -/
  dmode : Bool := false
  /-- action is 1: debug-mode entry, with Sdext; else 0: a breakpoint exception. -/
  toDebug : Bool := false
  /-- The privilege modes it watches. -/
  m : Bool := false
  s : Bool := false
  u : Bool := false
  /-- The accesses it watches. -/
  execute : Bool := false
  store : Bool := false
  load : Bool := false
  deriving DecidableEq, Repr

/-- An abstract command of the debugger, of the kind Access Register (60_exceptions R393; log 42): the register's number, the size of the transfer, whether there
is one and which way it goes, and the program buffer to run after it. -/
structure DebugCmd where
  regno : BitVec 16
  size64 : Bool
  transfer : Bool
  write : Bool
  postexec : List (BitVec 16)
  deriving DecidableEq, Repr

/-- A translation scheme: levels, bits of index per level, bytes of an entry (20_memory R112, R120). -/
structure SvMode where
  levels : Nat
  vpnBits : Nat
  pteBytes : Nat
  deriving DecidableEq, Repr

/-- A leaf entry: levels below it, its own physical address, the entry, CW and CD among its bits (20_memory R120), and whether it or an entry on the way to it is
global. -/
structure Leaf where
  lvl : Nat
  addr : Nat
  pte : Word
  global : Bool
  deriving DecidableEq, Repr

/-- A cached translation: the scheme, the address space and the page number it is for, and the leaf entry as it was read (10_state R46 (c); log 44). -/
structure CachedLeaf where
  mode : SvMode
  asid : Nat
  vpn : Nat
  leaf : Leaf
  deriving DecidableEq, Repr

/-- Physical memory (20_memory R96, R97): the bytes that are not zero, by strictly rising address, and the numbers of the granules whose tag is set,
strictly rising. An unlisted byte reads 0 (log 6). -/
structure Memory where
  cells : List Host.Cell
  tags : List Nat
  deriving DecidableEq, Repr

/-- The control and status registers (11_csrs, 60_exceptions); one field each, views computed by accessors (log 7). -/
structure Csrs where
  mtvecc : Cap
  mscratchc : Cap
  mepcc : Cap
  stvecc : Cap
  sscratchc : Cap
  sepcc : Cap
  jvtc : Cap
  dpcc : Cap
  dscratch0c : Cap
  dscratch1c : Cap
  dddc : Cap
  mtdc : Cap
  stdc : Cap
  /-- misa.MXL (11_csrs R63). -/
  mxl : BitVec 2
  /-- misa.C (11_csrs R63). -/
  misaC : Bool
  /-- mstatus in the RV64 layout, mstatush's bits at 37:36 (11_csrs R64). -/
  mstatus : Word
  mcause : Word
  mtval : Word
  scause : Word
  stval : Word
  medeleg : Word
  mideleg : Word
  mie : Word
  /-- The software-writable bits of mip (60_exceptions R370). -/
  mip : Word
  mseccfg : Word
  menvcfg : Word
  senvcfg : Word
  satp : Word
  mcounteren : BitVec 32
  scounteren : BitVec 32
  dcsr : BitVec 32
  /-- The trigger that tdata1 to tdata3 name (11_csrs R95; log 37). -/
  tselect : Word
  fcsr : BitVec 8
  deriving DecidableEq, Repr

/-- The state of the hart, its memory and its inputs. -/
structure State where
  /-- The implementation parameters (00_scope R9); no step changes them (log 1). -/
  cfg : Params
  /-- c0 to c31; element 0 is never read or written by an accessor (10_state R37, R38). -/
  regs : Vector Cap 32
  pcc : Cap
  ddc : Cap
  fregs : Vector Word 32
  priv : Priv
  /-- Debug mode (60_exceptions R390). -/
  debug : Bool
  /-- dinfc.M, the one bit of dinfc that changes (11_csrs R81). -/
  dinfcM : Bool
  csr : Csrs
  /-- The platform's interrupt inputs, numbered as mip (60_exceptions R370; log 10). -/
  irqIn : Word
  /-- The debugger's halt request (60_exceptions R395; log 9). -/
  haltReq : Bool
  /-- The halt request stands since reset: halt-on-reset (60_exceptions R395; log 9). -/
  resetHalt : Bool
  /-- The debugger's resume request (60_exceptions R393; log 42). -/
  resumeReq : Bool
  /-- The debugger's abstract command, until it is run, and its data register (60_exceptions R393; log 42). -/
  command : Option DebugCmd
  debugData : Word
  /-- The triggers, by number: what tdata1 and tdata2 hold (11_csrs R95; log 37). -/
  triggers : List Trigger
  /-- The program buffer left to run in debug mode, in parcels (60_exceptions R396; log 9). -/
  progBuf : List (BitVec 16)
  /-- A command failed, or an instruction of the program buffer raised an exception (60_exceptions R396; log 9, log 42). -/
  cmdErr : Bool
  /-- The load reservation: physical address and size (44_atomics R250). -/
  resv : Option (Nat × Nat)
  mem : Memory
  /-- The cached translations, the newest first (10_state R46 (c); log 44). -/
  tlb : List CachedLeaf
  /-- The model's own: picks the next free value (log 8). -/
  freeCtr : Nat
  deriving DecidableEq, Repr

/-- Why the machine stops: it never does. Every exception of 60_exceptions R369 is taken, and an access to a device goes on with a free value (log 13). -/
inductive Fault
  deriving DecidableEq, Repr

/-- Why an instruction has no meaning here. -/
inductive Refusal where
  /-- The meaning of this mnemonic is not written yet. Raised by an arm of exec; no arm raises it. Safe. -/
  | notModelled (mnemonic : String)
  deriving DecidableEq, Repr

/-- The CSRs after reset (70_reset_and_hazards R411, R412, R414; logs 3, 5, 7). -/
def Csrs.reset (p : Params) : Csrs where
  mtvecc := infiniteAt p 0
  mscratchc := nullCap
  mepcc := infiniteAt p 0
  stvecc := infiniteAt p 0
  sscratchc := nullCap
  sepcc := infiniteAt p 0
  jvtc := infiniteAt p 0
  dpcc := nullCap
  dscratch0c := nullCap
  dscratch1c := nullCap
  dddc := nullCap
  mtdc := nullCap
  stdc := nullCap
  mxl := if p.xlenmax64 then 2 else 1
  misaC := p.hasC
  mstatus := if p.xlenmax64 then 0x0000000A00000000 else 0
  mcause := 0
  mtval := 0
  scause := 0
  stval := 0
  medeleg := 0
  mideleg := 0
  mie := 0
  mip := 0
  mseccfg := 0
  menvcfg := 0
  senvcfg := 0
  satp := 0
  mcounteren := 0
  scounteren := 0
  dcsr := 0x40000003
  tselect := 0
  fcsr := 0

/-- The machine right after reset, for any parameters (70_reset_and_hazards R410 to R414). -/
def State.resetWith (p : Params) : State where
  cfg := p
  regs := Vector.replicate 32 nullCap
  pcc := infiniteAt p p.bootAddr
  ddc := infiniteAt p 0
  fregs := Vector.replicate 32 0
  priv := .machine
  debug := false
  dinfcM := false
  csr := Csrs.reset p
  irqIn := 0
  haltReq := p.haltOnReset
  resetHalt := p.haltOnReset
  resumeReq := false
  command := none
  debugData := 0
  triggers := List.replicate p.triggerCount {}
  progBuf := []
  cmdErr := false
  resv := none
  mem := ⟨[], []⟩
  tlb := []
  freeCtr := 0

/-- The machine right after reset, with the default parameters of 92 Part 1 (log 1). -/
def State.reset : State := State.resetWith {}

end Sys2Proof.Machine
end

