-- ==== Sys2Proof/Machine/Ops.lean ====
section
/-!
DEFINITION. Machine/Ops.lean: the named operations over registers, modes and memory, taking an exception or an interrupt and returning from one, entering and
leaving debug mode.
-/
namespace Sys2Proof.Machine
open Sys2Proof

/-! ## Outcomes of the parts of an instruction -/

/-- A synchronous exception: its code and what xtval receives (60_exceptions R361, R364, R365). -/
structure Exc where
  code : Nat
  tval : Word
  deriving DecidableEq, Repr

/-- The outcome of a part of an instruction: a value, an exception to take (00_scope R14), or debug-mode entry by a trigger before the instruction has an
effect (60_exceptions R395; log 37). -/
inductive Res (α : Type) where
  | ok (a : α)
  | exc (e : Exc)
  | halt
  deriving DecidableEq, Repr

/-- Go on with the value, if there is one. -/
def Res.bind {α β : Type} (r : Res α) (f : α → Res β) : Res β :=
  match r with
  | .ok a => f a
  | .exc e => .exc e
  | .halt => .halt

/-- Raise `e` unless the condition holds. -/
def Res.check (b : Bool) (e : Exc) : Res Unit := if b then .ok () else .exc e

/-- The same outcome, an exception reporting the address `v` (60_exceptions R365, R369: the effective address of the access). -/
def Res.reportAt {α : Type} (r : Res α) (v : Word) : Res α :=
  match r with
  | .exc e => .exc { e with tval := v }
  | r => r

/-- raise CHERI(type, cause): code 28, xtval = (TYPE << 16) | CAUSE (60_exceptions R364). -/
def cheri (type cause : Nat) : Exc := ⟨28, BitVec.ofNat 64 (type * 65536 + cause)⟩

/-- Illegal instruction, xtval 0 (60_exceptions R365). -/
def illegal : Exc := ⟨2, 0⟩

/-! ## mstatus fields (11_csrs R64; log 7) -/

def mieBit : Nat := 3
def sieBit : Nat := 1
/-- MPP and SPP as privilege modes: 0 U, 1 S, 3 M (60_exceptions R390). -/
def privOf (n : Nat) : Priv := if n = 0 then .user else if n = 1 then .supervisor else .machine
def Priv.num : Priv → Nat
  | .user => 0
  | .supervisor => 1
  | .machine => 3
def State.st (s : State) (i : Nat) : Bool := s.csr.mstatus.getLsbD i
def State.mpp (s : State) : Priv := privOf (bitsOf s.csr.mstatus 11 2)
/-- mstatus.FS is Off (30_encoding R138 (e)). -/
def State.fsOff (s : State) : Bool := bitsOf s.csr.mstatus 13 2 == 0
/-- SXL and UXL are 2, 64 bits (11_csrs R64). -/
def State.sxl64 (s : State) : Bool := bitsOf s.csr.mstatus 34 2 == 2
def State.uxl64 (s : State) : Bool := bitsOf s.csr.mstatus 32 2 == 2

/-! ## XLEN, byte order, privilege (11_csrs R63 to R65, R90; 60_exceptions R392) -/

/-- XLEN is 64 in a privilege mode (11_csrs R65: without Zcheri_legacy it is XLENMAX everywhere). -/
def State.x64Of (s : State) (q : Priv) : Bool :=
  s.cfg.xlenmax64 && (!s.cfg.hasLegacy ||
    match q with
    | .machine => s.csr.mxl == 2#2
    | .supervisor => s.sxl64
    | .user => s.uxl64)

/-- The current XLEN is 64; debug mode uses XLENMAX (log 9). -/
def State.cur64 (s : State) : Bool := if s.debug then s.cfg.xlenmax64 else s.x64Of s.priv

/-- Data of a privilege mode is big-endian (20_memory R103). -/
def State.beOf (s : State) (q : Priv) : Bool :=
  s.cfg.hasLegacy &&
    match q with
    | .machine => s.st 37
    | .supervisor => s.st 36
    | .user => s.st 6

/-- The privilege data accesses are made with (20_memory R112). -/
def State.effPriv (s : State) : Priv :=
  if s.debug then .machine else if s.priv = .machine ∧ s.st 17 then s.mpp else s.priv

/-- XLEN, and byte order, of data accesses (60_exceptions R392). -/
def State.eff64 (s : State) : Bool := if s.debug then s.cfg.xlenmax64 else s.x64Of s.effPriv
def State.effBe (s : State) : Bool := !s.debug && s.beOf s.effPriv

/-! ## CHERI execution mode (11_csrs R88, R90) -/

/-- CRE and CME as each privilege mode sees them; senvcfg.CRE reads 0 when menvcfg.CRE is 0 (11_csrs R86 to R89). -/
def State.creOf (s : State) (q : Priv) : Bool :=
  match q with
  | .machine => true
  | .supervisor => s.csr.menvcfg.getLsbD 29
  | .user => s.csr.menvcfg.getLsbD 29 && (!s.cfg.hasS || s.csr.senvcfg.getLsbD 29)
def State.cmeOf (s : State) (q : Priv) : Bool :=
  match q with
  | .machine => s.csr.mseccfg.getLsbD 3
  | .supervisor => s.csr.menvcfg.getLsbD 28
  | .user => if s.cfg.hasS then s.csr.senvcfg.getLsbD 28 else s.csr.menvcfg.getLsbD 28

/-- CHERI register access is disabled (11_csrs R90; MBE_RESET is 0, 92 D6). -/
def State.cheriRegsDisabled (s : State) : Bool :=
  s.cfg.hasLegacy && !s.debug && ((s.x64Of s.priv != s.cfg.xlenmax64) || s.beOf s.priv || !s.creOf s.priv)

/-- capMode(): the CHERI execution mode is Capability (11_csrs R88). -/
def State.capMode (s : State) : Bool :=
  if !s.cfg.hasLegacy then true
  else if s.debug then !s.cfg.mode || s.dinfcM
  else if s.cheriRegsDisabled then false
  else if !s.cmeOf s.priv then false
  else !s.cfg.mode || s.pcc.m s.cfg

/-- pcc grants ASR-permission; implicitly granted in debug mode (60_exceptions R391, R396). -/
def State.asrOk (s : State) : Bool := s.debug || (s.pcc.perms s.cfg).asr

/-- IALIGN is 16 (00_scope R9). -/
def State.ialign16 (s : State) : Bool := s.cfg.hasC && s.csr.misaC
/-- The minimum instruction size, IALIGN/8 (20_memory R109). -/
def State.minLen (s : State) : Nat := if s.ialign16 then 2 else 4

/-- A value as an unsigned number of XLEN bits (11_csrs R90; log 40); and of the XLEN of a privilege mode. -/
def State.cutX (s : State) (v : Word) : Word := if s.cur64 then v else zext32 v
def State.cutOf (s : State) (q : Priv) (v : Word) : Word := if s.x64Of q then v else zext32 v

/-! ## General registers (10_state R37 to R39) -/

/-- c[i]: all CLEN+1 bits; register 0 is NULL (R38). -/
def State.rc (s : State) (i : Reg) : Cap := if i = 0 then nullCap else s.regs[i.toNat]'i.isLt

/-- x[i], sign-extended from XLEN to 64 bits (00_scope R12; log 2). -/
def State.rx (s : State) (i : Reg) : Word := if s.cur64 then (s.rc i).addr else sext32 (s.rc i).addr

/-- c[i] <- k; writes to register 0 are discarded (R38). -/
def State.wc (s : State) (i : Reg) (k : Cap) : State := if i = 0 then s else { s with regs := s.regs.set i.toNat k i.isLt }

/-- The value an XLEN-bit result leaves in an XLENMAX-bit field: sign-extended (11_csrs R90). -/
def State.toX (s : State) (v : Word) : Word := truncX s.cfg (if s.cur64 then v else sext32 v)

/-- x[i] <- v: tag and metadata become zero (00_scope R12, 10_state R39). -/
def State.wx (s : State) (i : Reg) (v : Word) : State := s.wc i (nullWithAddr (s.toX v))

/-- f[i], with 64 bits of storage; and its write. -/
def State.rf (s : State) (i : Reg) : Word := s.fregs[i.toNat]'i.isLt
def State.wf (s : State) (i : Reg) (v : Word) : State := { s with fregs := s.fregs.set i.toNat v i.isLt }

/-! ## The program counter (10_state R41, R43) -/

/-- pcc at another address, sign-extended from XLEN (11_csrs R90), its metadata and tag unchanged unless the address is converted (11_csrs R93). -/
def State.pccAt (s : State) (a : Word) : Cap := Cap.hold s.cfg .pcc { s.pcc with addr := s.toX a }
/-- pcc.address <- a. -/
def State.setPc (s : State) (a : Word) : State := { s with pcc := s.pccAt a }
/-- The address of a jump's target as pcc holds it: sign-extended from XLEN, then converted where pcc cannot hold it. R203 says so of
indirect jumps, and R93 of pcc in general; that direct jumps, branches and table jumps convert before their checks too, where R202, R206 and R331 name no conversion, is
the model's choice (log 1). -/
def State.targetAt (s : State) (a : Word) : Word := Params.heldAddr s.cfg .pcc (s.toX a)
/-- pcc.address <- a target that passed the checks of a jump: metadata and tag unchanged (43_base_integer R202, R203). -/
def State.jumpTo (s : State) (t : Word) : State := { s with pcc := { s.pcc with addr := t } }
/-- A capability as a trap or a return installs it in pcc, for a privilege mode: sign-extended from that mode's XLEN, by set-address semantics (11_csrs R90;
log 40), then converted (11_csrs R93). -/
def State.pccFor (s : State) (q : Priv) (k : Cap) : Cap :=
  let a := if s.x64Of q = s.cfg.xlenmax64 then k.addr else sext32 k.addr
  Cap.hold s.cfg .pcc (if a = k.addr then k else k.setAddr s.cfg a)
/-- pcc <- k. -/
def State.setPcc (s : State) (k : Cap) : State := { s with pcc := k }
/-- The address of pcc as an XLEN-bit value (11_csrs R90: bits above XLEN are ignored). -/
def State.pc (s : State) : Word := if s.cur64 then s.pcc.addr else sext32 s.pcc.addr
/-- The address of the instruction as an unsigned number of XLEN bits: what is fetched, and what xtval reports (log 40). -/
def State.fetchAddr (s : State) : Word := s.cutX s.pcc.addr
/-- Advance by the length of the instruction (R43). -/
def State.advance (s : State) (n : Nat) : State := s.setPc (s.pc + BitVec.ofNat 64 n)

/-! ## Physical memory (20_memory R96 to R99) -/

/-- A byte; an unlisted one reads 0 (log 6). -/
def readCells : List Host.Cell → Nat → Byte
  | [], _ => 0
  | (k, v) :: r, a => if k = a then v else readCells r a

/-- Write a byte, keeping the list rising and without zero bytes. -/
def writeCells : List Host.Cell → Nat → Byte → List Host.Cell
  | [], a, v => if v = 0 then [] else [(a, v)]
  | (k, w) :: r, a, v =>
    if a < k then (if v = 0 then (k, w) :: r else (a, v) :: (k, w) :: r)
    else if a = k then (if v = 0 then r else (a, v) :: r)
    else (k, w) :: writeCells r a v

/-- Insert into, and remove from, a strictly rising list of granule numbers. -/
def insertTag : List Nat → Nat → List Nat
  | [], g => [g]
  | k :: r, g => if g < k then g :: k :: r else if g = k then k :: r else k :: insertTag r g
def removeTag : List Nat → Nat → List Nat
  | [], _ => []
  | k :: r, g => if k = g then r else k :: removeTag r g

def Memory.readByte (m : Memory) (a : Nat) : Byte := readCells m.cells a
def Memory.writeByte (m : Memory) (a : Nat) (v : Byte) : Memory := { m with cells := writeCells m.cells a v }
/-- The tag of a granule (20_memory R97). -/
def Memory.tagOf (m : Memory) (g : Nat) : Bool := m.tags.contains g
def Memory.setTag (m : Memory) (g : Nat) (b : Bool) : Memory :=
  { m with tags := if b then insertTag m.tags g else removeTag m.tags g }

/-- Read, and write, the bytes at a list of addresses. -/
def Memory.readList (m : Memory) (as : List Nat) : List Byte := as.map m.readByte
def Memory.writeList (m : Memory) : List Nat → List Byte → Memory
  | a :: as, v :: vs => (m.writeByte a v).writeList as vs
  | _, _ => m
/-- Clear the tag of every granule a byte of the list lies in (20_memory R98). -/
def Memory.clearTags (m : Memory) (gran : Nat) : List Nat → Memory
  | [] => m
  | a :: as => (m.setTag (a / gran) false).clearTags gran as

/-- Addresses strictly rising. -/
def rising : List Nat → Bool
  | [] => true
  | [_] => true
  | a :: b :: r => decide (a < b) && rising (b :: r)

/-- The canonical form of memory. -/
def Memory.wf (m : Memory) : Bool := rising (m.cells.map (·.1)) && m.cells.all (fun c => c.2 != 0) && rising m.tags

/-- A list of bytes as a little-endian number, and back (20_memory R103). -/
def leNat : List Byte → Nat
  | [] => 0
  | b :: r => b.toNat + 256 * leNat r
def leBytes : Nat → Nat → List Byte
  | 0, _ => []
  | n + 1, v => BitVec.ofNat 8 v :: leBytes n (v / 256)
/-- In the byte order of a data access. -/
def ordered (be : Bool) (bs : List Byte) : List Byte := if be then bs.reverse else bs

/-- `n` consecutive addresses. -/
def span (a n : Nat) : List Nat := (List.range n).map (a + ·)

/-- A write to the bytes of a list by this hart clears a reservation it overlaps (44_atomics R250). -/
def resvAfter (r : Option (Nat × Nat)) (as : List Nat) : Option (Nat × Nat) :=
  match r with
  | none => none
  | some (a, n) => if as.any (fun x => decide (a ≤ x) && decide (x < a + n)) then none else some (a, n)

/-- MemWrite: the bytes, their granules' tags cleared, an overlapping reservation lost (20_memory R98). -/
def State.storeBytes (s : State) (as : List Nat) (bs : List Byte) : State :=
  { s with mem := (s.mem.writeList as bs).clearTags s.cfg.capBytes as, resv := resvAfter s.resv as }

/-- The CLEN bits of a capability as bytes: the address below, the metadata above (20_memory R100). -/
def capToBytes (p : Params) (k : Cap) : List Byte :=
  let n := p.capBytes / 2
  leBytes n k.addr.toNat ++ leBytes n k.md.toNat
def bytesToCap (p : Params) (tag : Bool) (bs : List Byte) : Cap :=
  let n := p.capBytes / 2
  ⟨tag, BitVec.ofNat 64 (leNat (bs.drop n)), BitVec.ofNat 64 (leNat (bs.take n))⟩

/-! ## Physical memory attributes (20_memory R110, R111) -/

/-- The region a physical byte lies in. -/
def Params.regionAt (p : Params) (a : Nat) : Option Region := p.regions.find? fun r => decide (r.base ≤ a) && decide (a < r.base + r.size)
/-- A byte of main memory; a byte of a device; a byte that is not vacant. -/
def Params.isMain (p : Params) (a : Nat) : Bool := (Params.regionAt p a).any (·.kind == .main)
def Params.isDevice (p : Params) (a : Nat) : Bool := (Params.regionAt p a).any (·.kind == .device)
def Params.isMapped (p : Params) (a : Nat) : Bool := (Params.regionAt p a).isSome
/-- The CLEN/8 bytes at `a` have the taggable attribute; devices have not. -/
def Params.isTaggable (p : Params) (a : Nat) : Bool :=
  (span a p.capBytes).all fun b => (Params.regionAt p b).any fun r => r.kind == .main && r.taggable

/-- A byte as an access reads it: of a device, a free value (R111; log 13). -/
def State.loadByte (s : State) (a : Nat) : Byte := if Params.isDevice s.cfg a then Config.freeDevice s.freeCtr a else s.mem.readByte a
/-- The bytes at a list of addresses. -/
def State.loadList (s : State) (as : List Nat) : List Byte := as.map s.loadByte

/-- MemReadCap: the CLEN bits and the tag, 0 where the granule is not taggable (20_memory R99). Little-endian always, as 20_memory R103 has it of capability accesses,
also where 60_exceptions R392 would let MPRV give M-mode's data accesses a big-endian mode's order (DESIGN CHOICE, log 43). -/
def State.readCap (s : State) (a : Nat) : Cap :=
  bytesToCap s.cfg (s.mem.tagOf (a / s.cfg.capBytes) && Params.isTaggable s.cfg a) (s.loadList (span a s.cfg.capBytes))
/-- MemWriteCap: the CLEN bits and the tag (20_memory R99). -/
def State.writeCap (s : State) (a : Nat) (k : Cap) : State :=
  let as := span a s.cfg.capBytes
  { s with
    mem := (s.mem.writeList as (capToBytes s.cfg k)).setTag (a / s.cfg.capBytes) k.tag
    resv := resvAfter s.resv as }

/-! ## Interrupt bits, trap entry (60_exceptions R370 to R375) -/

/-- Platform interrupts 16 to HICAUSE (R370). -/
def platformMask (p : Params) : Word := BitVec.ofNat 64 (2 ^ (min p.hicause 63 + 1) - 1) &&& ~~~0xFFFF#64

/-- mip as read: the software bits and the platform's inputs, which are MSIP, MTIP, SEIP, MEIP and the platform interrupts (R370). -/
def State.mipVal (s : State) : Word := s.csr.mip ||| (s.irqIn &&& (0xA88 ||| platformMask s.cfg))

/-- What mtval and stval receive (00_scope R9 MTVAL_ZERO), cut to XLENMAX. -/
def State.tvalOf (s : State) (v : Word) : Word := if s.cfg.mtvalZero then 0 else truncX s.cfg v

/-- {Interrupt, Exception Code}, Interrupt at bit MXLEN-1 or SXLEN-1 (11_csrs R70, R76). -/
def causeOf (x64 : Bool) (irq : Bool) (code : Nat) : Word :=
  putBit (BitVec.ofNat 64 code) (if x64 then 63 else 31) irq

/-- The handler a trap vector gives: its address with bits 1:0 clear, and with four times the cause added for a vectored interrupt
(11_csrs R66, 60_exceptions R373). -/
def vecTarget (p : Params) (tvec : Cap) (irq : Bool) (code : Nat) : Cap :=
  let v : Cap := { tvec with addr := tvec.addr &&& ~~~3#64 }
  if irq ∧ tvec.addr.extractLsb' 0 2 = 1#2 then v.setAddr p (truncX p (v.addr + BitVec.ofNat 64 (4 * code))) else v

/-- mstatus after entry into M-mode: MPP, MPIE, MIE (R373). -/
def mstatusTrapM (m : Word) (q : Priv) : Word :=
  putBit (putBit (putMask m (3#64 <<< 11) (BitVec.ofNat 64 (q.num * 2 ^ 11))) 7 (m.getLsbD 3)) 3 false
/-- mstatus after entry into S-mode: SPP, SPIE, SIE (R374). -/
def mstatusTrapS (m : Word) (q : Priv) : Word :=
  putBit (putBit (putBit m 8 (q == .supervisor)) 5 (m.getLsbD 1)) 1 false

/-- Trap entry into M-mode (R373). -/
def State.trapM (s : State) (irq : Bool) (code : Nat) (tval : Word) : State :=
  { s with
    csr := { s.csr with
      mepcc := Cap.hold s.cfg .mepcc s.pcc
      mcause := causeOf (s.x64Of .machine) irq code
      mtval := s.tvalOf tval
      mstatus := mstatusTrapM s.csr.mstatus s.priv }
    priv := .machine
    pcc := s.pccFor .machine (vecTarget s.cfg s.csr.mtvecc irq code) }

/-- Trap entry into S-mode (R374). -/
def State.trapS (s : State) (irq : Bool) (code : Nat) (tval : Word) : State :=
  { s with
    csr := { s.csr with
      sepcc := Cap.hold s.cfg .sepcc s.pcc
      scause := causeOf (s.x64Of .supervisor) irq code
      stval := s.tvalOf tval
      mstatus := mstatusTrapS s.csr.mstatus s.priv }
    priv := .supervisor
    pcc := s.pccFor .supervisor (vecTarget s.cfg s.csr.stvecc irq code) }

/-- Exceptions of the current mode with this code go to S-mode (R372). -/
def State.delegated (s : State) (code : Nat) : Bool := s.cfg.hasS && s.priv != .machine && s.csr.medeleg.getLsbD code

/-- TAKING A SYNCHRONOUS EXCEPTION (R372 to R374). In debug mode it ends the program buffer and reports an error (R396; log 24). -/
def takeException (s : State) (e : Exc) : State :=
  if s.debug then { s with progBuf := [], cmdErr := true }
  else if s.delegated e.code then s.trapS false e.code e.tval
  else s.trapM false e.code e.tval

/-! ## Trap return (60_exceptions R376, 43_base_integer R228, R229) -/

/-- An xepcc as read: bit 1 reads 0 while IALIGN is 32, the tag lost if that changes the address of a sealed or unrepresentable capability
(11_csrs R69). -/
def State.readEpcc (s : State) (k : Cap) : Cap :=
  if s.ialign16 then k
  else if k.addr.getLsbD 1 then k.setAddr s.cfg (putBit k.addr 1 false) else k

/-- The least-privileged mode that exists (R228); S and U are parameters on their own (00_scope R9). -/
def State.leastPriv (s : State) : Priv := if s.cfg.hasU then .user else if s.cfg.hasS then .supervisor else .machine

/-- A privilege mode software asked for, if it exists: else the least-privileged one (log 18). -/
def State.legalPriv (s : State) (q : Priv) : Priv :=
  match q with
  | .machine => .machine
  | .supervisor => if s.cfg.hasS then .supervisor else s.leastPriv
  | .user => s.leastPriv

/-- mstatus after MRET: MIE, MPIE, MPP, MPRV (R228). -/
def mstatusMret (m : Word) (dst least : Priv) : Word :=
  let a := putMask (putBit (putBit m 3 (m.getLsbD 7)) 7 true) (3#64 <<< 11) (BitVec.ofNat 64 (least.num * 2 ^ 11))
  if dst = .machine then a else putBit a 17 false
/-- mstatus after SRET: SIE, SPIE, SPP, and MPRV where the new privilege is not M (R229). -/
def mstatusSret (m : Word) (dst : Priv) : Word :=
  let a := putBit (putBit (putBit m 1 (m.getLsbD 5)) 5 true) 8 false
  if dst = .machine then a else putBit a 17 false

/-- The mode SRET returns to: SPP (R229). -/
def State.sretPriv (s : State) : Priv := s.legalPriv (if s.st 8 then .supervisor else .user)

/-- Install unseal(mepcc) and restore the status (R228). -/
def State.returnM (s : State) : State :=
  { s with
    pcc := s.pccFor (s.legalPriv s.mpp) ((s.readEpcc s.csr.mepcc).unseal s.cfg)
    priv := s.legalPriv s.mpp
    csr := { s.csr with mstatus := mstatusMret s.csr.mstatus (s.legalPriv s.mpp) s.leastPriv } }
/-- Install unseal(sepcc) and restore the status (R229). -/
def State.returnS (s : State) : State :=
  { s with
    pcc := s.pccFor s.sretPriv ((s.readEpcc s.csr.sepcc).unseal s.cfg)
    priv := s.sretPriv
    csr := { s.csr with mstatus := mstatusSret s.csr.mstatus s.sretPriv } }

/-! ## Debug mode (60_exceptions R395 to R397) -/

/-- dpcc and dpc as read: the low bit, and bit 1 while IALIGN is 32, read 0 (43_base_integer R204; log 19). -/
def State.readDpcc (s : State) : Cap :=
  let a := putBit s.csr.dpcc.addr 0 false
  let b := if s.ialign16 then a else putBit a 1 false
  if b = s.csr.dpcc.addr then s.csr.dpcc else s.csr.dpcc.setAddr s.cfg b

/-- dcsr with a new cause (bits 8:6) and prv (bits 1:0). -/
def dcsrEnter (d : BitVec 32) (cause : Nat) (q : Priv) : BitVec 32 :=
  (d &&& 0xFFFFFE3C#32) ||| BitVec.ofNat 32 (cause % 8 * 64 + q.num)

/-- The value of pcc in debug mode: free (R396; log 9). -/
def freePccOf (p : Params) (n : Nat) : Cap :=
  let k : Cap := ⟨true, truncX p (Config.freePcc n).1, truncX p (Config.freePcc n).2⟩
  { k with tag := Config.freeTag n && k.derivable p }

/-- Debug-mode entry (R395), for the reason `cause`; pcc holds the address of the next instruction to be executed. -/
def State.enterDebug (s : State) (cause : Nat) : State :=
  { s with
    csr := { s.csr with
      dpcc := Cap.hold s.cfg .dpcc s.pcc
      dddc := if s.cfg.hasLegacy then Cap.hold s.cfg .dddc s.ddc else s.csr.dddc
      dcsr := dcsrEnter s.csr.dcsr cause s.priv }
    ddc := if s.cfg.hasLegacy then infiniteAt s.cfg s.ddc.addr else s.ddc
    debug := true
    dinfcM := true
    pcc := freePccOf s.cfg s.freeCtr
    freeCtr := s.freeCtr + 1
    haltReq := false
    resetHalt := false
    progBuf := [] }

/-- The mode the hart resumes in: dcsr.prv (R397; a mode that does not exist: log 18). -/
def State.resumePriv (s : State) : Priv := s.legalPriv (privOf (s.csr.dcsr.toNat % 4))

/-- Debug-mode exit (R397): pcc from dpcc unsealed, ddc from dddc, the privilege of dcsr.prv. mstatus.MPRV stays as it is, also where that privilege is below
M (log 9). A resume request that stands is dropped, by a DRET too: R230 does not say what DRET does to it (DESIGN CHOICE, log 42). -/
def State.leaveDebug (s : State) : State :=
  { s with
    pcc := s.pccFor s.resumePriv (s.readDpcc.unseal s.cfg)
    ddc := if s.cfg.hasLegacy then Cap.hold s.cfg .ddc s.csr.dddc else s.ddc
    priv := s.resumePriv
    debug := false
    resumeReq := false
    progBuf := [] }

/-- The outcome of an instruction: a next state in every case. A trigger enters debug mode with cause 2 (R395; the value is the debug specification's, log 37). -/
def Res.run (s : State) (r : Res State) : Host.Outcome State Fault Refusal :=
  match r with
  | .ok t => .next t
  | .exc e => .next (takeException s e)
  | .halt => .next (s.enterDebug 2)

/-- dinfc as read: Infinite, with the M bit of debug mode under Zcheri_mode (11_csrs R81). -/
def State.dinfc (s : State) : Cap :=
  let k := infiniteAt s.cfg 0
  if s.cfg.mode then { k with md := putBit k.md (mBit s.cfg) s.dinfcM } else k

end Sys2Proof.Machine
end

