-- ==== Sys2Proof/Machine/Flags.lean ====
section
/-!
DEFINITION. Machine/Flags.lean: the hart has no flags (10_state R44). What stands here is what a flag computation would be elsewhere: the results of the computational
instructions (43_base_integer R231), the branch conditions (R207 to R212) and the functions of the atomics (44_atomics R241).
Operands are values sign-extended from XLEN to 64 bits; a result is narrowed to XLEN by the register write (00_scope R12).
-/
namespace Sys2Proof.Machine
open Sys2Proof

/-- One bit as a word. -/
def ofBit (b : Bool) : Word := if b then 1 else 0

/-- Set-less-than, signed and unsigned. -/
def aluSlt (a b : Word) : Word := ofBit (a.slt b)
def aluSltu (a b : Word) : Word := ofBit (a.ult b)

/-- The shift amount: the low 6 bits with XLEN = 64, 5 with XLEN = 32 (R231). -/
def shiftAmount (x64 : Bool) (b : Word) : Nat := if x64 then b.toNat % 64 else b.toNat % 32
def aluSll (x64 : Bool) (a b : Word) : Word := a <<< shiftAmount x64 b
def aluSrl (x64 : Bool) (a b : Word) : Word := (if x64 then a else zext32 a) >>> shiftAmount x64 b
def aluSra (x64 : Bool) (a b : Word) : Word := a.sshiftRight (shiftAmount x64 b)

/-- The 32-bit operations of RV64: computed on the low 32 bits, the result sign-extended (R231). -/
def aluAddw (a b : Word) : Word := sext32 (a + b)
def aluSubw (a b : Word) : Word := sext32 (a - b)
def aluSllw (a b : Word) : Word := sext32 (a <<< (b.toNat % 32))
def aluSrlw (a b : Word) : Word := sext32 (zext32 a >>> (b.toNat % 32))
def aluSraw (a b : Word) : Word := (sext32 a).sshiftRight (b.toNat % 32)

/-- The branch conditions (R207 to R212). -/
inductive Cond where
  | eq
  | ne
  | lt
  | ge
  | ltu
  | geu
  deriving DecidableEq, Repr

/-- The condition on the two operands. -/
def condHolds (c : Cond) (a b : Word) : Bool :=
  match c with
  | .eq => a == b
  | .ne => a != b
  | .lt => a.slt b
  | .ge => !a.slt b
  | .ltu => a.ult b
  | .geu => !a.ult b

/-- The operations of the integer atomics (44_atomics R241). -/
inductive AmoOp where
  | swap
  | add
  | xor
  | and
  | or
  | min
  | max
  | minu
  | maxu
  deriving DecidableEq, Repr

/-- The new memory value f(m, r), both operands sign-extended from the access width. -/
def amoResult (o : AmoOp) (m r : Word) : Word :=
  match o with
  | .swap => r
  | .add => m + r
  | .xor => m ^^^ r
  | .and => m &&& r
  | .or => m ||| r
  | .min => if m.slt r then m else r
  | .max => if m.slt r then r else m
  | .minu => if m.ult r then m else r
  | .maxu => if m.ult r then r else m

/-- Sign-extend the low `n` bytes. -/
def sextBytes (n : Nat) (v : Word) : Word := (v <<< (64 - 8 * n)).sshiftRight (64 - 8 * n)

end Sys2Proof.Machine
end

