-- ==== Sys2Proof/Machine/Translate.lean ====
section
/-!
DEFINITION. Machine/Translate.lean: address translation (20_memory R112, R113, R120; the walk is the base architecture's, log 12), the physical check
(20_memory R110, R111), and the triggers (60_exceptions R367, R398; log 37).
-/
namespace Sys2Proof.Machine
open Sys2Proof

/-- What an access is made for; `atomic` needs both reading and writing (20_memory R105). -/
inductive Acc where
  | fetch
  | load
  | store
  | atomic
  deriving DecidableEq, Repr

/-- Exception codes by kind of access (60_exceptions R369). -/
def Acc.pageFault : Acc → Nat
  | .fetch => 12
  | .load => 13
  | _ => 15
def Acc.accessFault : Acc → Nat
  | .fetch => 1
  | .load => 5
  | _ => 7
def Acc.misaligned : Acc → Nat
  | .fetch => 0
  | .load => 4
  | _ => 6

/-! ## The physical check -/

/-- Vacant bytes raise the access fault (R111). -/
def pmaCheck (p : Params) (kind : Acc) (va : Word) (as : List Nat) : Res Unit := Res.check (as.all (Params.isMapped p)) ⟨kind.accessFault, va⟩

/-! ## Triggers -/

/-- A trigger is enabled and watches this kind of access, at this address, in this privilege mode: that of the hart, also where mstatus.MPRV makes data accesses with
another (log 37). -/
def Trigger.matches_ (b : Trigger) (q : Priv) (kind : Acc) (a : Word) : Bool :=
  b.enabled && b.addr == a &&
    (match q with
    | .machine => b.m
    | .supervisor => b.s
    | .user => b.u) &&
    match kind with
    | .fetch => b.execute
    | .load => b.load
    | .store => b.store
    | .atomic => b.load || b.store

/-- A trigger matches this access; none does in debug mode, and none is asked about the jump-table read of 48_zcmp_zcmt R330 (log 37). -/
def State.bpHit (s : State) (kind : Acc) (a : Word) : Bool := !s.debug && s.triggers.any (·.matches_ s.priv kind a)
/-- One that asks for debug-mode entry does (60_exceptions R395; log 37). -/
def State.haltHit (s : State) (kind : Acc) (a : Word) : Bool :=
  !s.debug && s.cfg.hasSdext && s.triggers.any fun b => b.toDebug && b.matches_ s.priv kind a

/-- The triggers first (60_exceptions R367): debug-mode entry, else the breakpoint exception. -/
def State.bpCheck (s : State) (kind : Acc) (a : Word) : Res Unit := if s.haltHit kind a then .halt else Res.check (!s.bpHit kind a) ⟨3, a⟩

/-! ## The page-table walk -/

/-- The scheme in effect for accesses of a privilege mode, and the root table (R112; log 12). satp is read in the layout of the present SXLEN, whatever layout it was
written in: R112 does not say what a change of SXL makes of it (DESIGN CHOICE, log 43). -/
def State.svMode (s : State) (q : Priv) : Option (SvMode × Nat) :=
  if q = .machine ∨ s.cfg.hasS = false then none
  else if s.x64Of .supervisor then
    let root := bitsOf s.csr.satp 0 44 * 4096
    let m := bitsOf s.csr.satp 60 4
    if m = 8 then some (⟨3, 9, 8⟩, root) else if m = 9 then some (⟨4, 9, 8⟩, root)
    else if m = 10 then some (⟨5, 9, 8⟩, root) else none
  else if s.csr.satp.getLsbD 31 then some (⟨2, 10, 4⟩, bitsOf s.csr.satp 0 22 * 4096) else none

/-- The virtual address is valid for the scheme (R113). -/
def SvMode.valid (m : SvMode) (va : Word) : Bool :=
  let n := 12 + m.levels * m.vpnBits
  m.pteBytes == 4 || va.toNat >>> (n - 1) == 0 || va.toNat >>> (n - 1) == 2 ^ (65 - n) - 1

/-- The physical page number of an entry. -/
def SvMode.ppn (m : SvMode) (pte : Word) : Nat := if m.pteBytes = 4 then bitsOf pte 10 22 else bitsOf pte 10 44

/-- An entry that is not valid, writable without being readable, or with a reserved bit set (log 12). Reserved are the bits that no field takes; CW and CD in an entry
that is no leaf, and in every entry without Zcheri_pte; D, A and U in an entry that is no leaf. With Zcheri_pte, CD of a leaf is ignored where CD is not implemented
(R120 does not say: log 12). -/
def pteBad (p : Params) (m : SvMode) (leaf : Bool) (pte : Word) : Bool :=
  !pte.getLsbD 0 || (pte.getLsbD 2 && !pte.getLsbD 1) || (!leaf && (pte.getLsbD 4 || pte.getLsbD 6 || pte.getLsbD 7)) ||
    (m.pteBytes == 8 && (bitsOf pte 54 5 != 0 || bitsOf pte 61 3 != 0 || (!(p.hasPte && leaf) && bitsOf pte 59 2 != 0)))

/-- The leaf permits the access: R, W, X, U with SUM and MXR, and A and D set (log 12). -/
def State.pteAllows (s : State) (kind : Acc) (q : Priv) (pte : Word) : Bool :=
  let r := pte.getLsbD 1
  let w := pte.getLsbD 2
  let x := pte.getLsbD 3
  let u := pte.getLsbD 4
  (match kind with
    | .fetch => x
    | .load => r || (s.st 19 && x)
    | .store => w
    | .atomic => w && r) &&
  (match q with
    | .user => u
    | _ => !u || (kind != .fetch && s.st 18)) &&
  pte.getLsbD 6 && (kind == .fetch || kind == .load || pte.getLsbD 7)

/-- A translated address: the physical address, and the leaf entry with its own address where a table was walked. -/
structure Phys where
  pa : Nat
  leaf : Option (Nat × Word)
  deriving DecidableEq, Repr

/-- The walk from the table at `base`, `lvl` levels left, to the leaf entry; `g`: an entry on the way was global (log 12). -/
def State.walk (s : State) (kind : Acc) (va : Word) (m : SvMode) : Nat → Nat → Bool → Res Leaf
  | 0, _, _ => .exc ⟨kind.pageFault, va⟩
  | lvl + 1, base, g =>
    let pa := base + bitsOf va (12 + lvl * m.vpnBits) m.vpnBits * m.pteBytes
    let as := span pa m.pteBytes
    (pmaCheck s.cfg kind va as).bind fun _ =>
      let pte : Word := BitVec.ofNat 64 (leNat (ordered (s.beOf .supervisor) (s.loadList as)))
      let leaf := pte.getLsbD 1 || pte.getLsbD 3
      if pteBad s.cfg m leaf pte then .exc ⟨kind.pageFault, va⟩
      else if !leaf then s.walk kind va m lvl (m.ppn pte * 4096) (g || pte.getLsbD 5)
      else .ok ⟨lvl, pa, pte, g || pte.getLsbD 5⟩

/-- The bits of an address below the page, or the large page, of a leaf; and the number of that page. -/
def SvMode.pageBits (m : SvMode) (lvl : Nat) : Nat := 12 + lvl * m.vpnBits
def SvMode.vpnOf (m : SvMode) (lvl : Nat) (va : Word) : Nat := va.toNat >>> m.pageBits lvl

/-- What a leaf makes of an address: aligned, and permitting the access, or a page fault (log 12). -/
def State.useLeaf (s : State) (kind : Acc) (q : Priv) (va : Word) (m : SvMode) (l : Leaf) : Res Phys :=
  if m.ppn l.pte % 2 ^ (l.lvl * m.vpnBits) ≠ 0 ∨ s.pteAllows kind q l.pte = false then .exc ⟨kind.pageFault, va⟩
  else .ok ⟨m.ppn l.pte * 4096 + va.toNat % 2 ^ m.pageBits l.lvl, some (l.addr, l.pte)⟩

/-! ## Cached translations (10_state R46 (c), 20_memory R112; log 44) -/

/-- The bits of an address-space number in satp, and that number (log 7). -/
def State.asidBits (s : State) : Nat := if s.x64Of .supervisor then 16 else 9
def State.asid (s : State) : Nat := bitsOf s.csr.satp (if s.x64Of .supervisor then 44 else 22) s.asidBits

/-- The cached translation is for the page of this address. -/
def CachedLeaf.covers (c : CachedLeaf) (va : Word) : Bool := c.mode.vpnOf c.leaf.lvl va == c.vpn

/-- The leaf cached for an address, in this address space or globally. -/
def State.cachedLeaf (s : State) (m : SvMode) (va : Word) : Option Leaf :=
  (s.tlb.find? fun c => decide (c.mode = m) && (c.asid == s.asid || c.leaf.global) && c.covers va).map (·.leaf)

/-- The leaf entry for an address: the cached one, else the one the walk finds (log 44). -/
def State.leafOf (s : State) (kind : Acc) (va : Word) (m : SvMode) (root : Nat) : Res Leaf :=
  match s.cachedLeaf m va with
  | some l => .ok l
  | none => s.walk kind va m m.levels root false

/-- The same state with no translation cached: what memory itself says. -/
def State.uncached (s : State) : State := { s with tlb := [] }

/-- The cached translations after an instruction: the hart may have dropped any and may have walked for any address (log 44). -/
def State.nextTlb (s : State) : List CachedLeaf :=
  match s.svMode .supervisor with
  | none => s.tlb
  | some (m, root) =>
    let kept := (s.tlb.zipIdx.filter fun c => Config.freeKeep s.freeCtr c.2).map (·.1)
    match Config.freeFill s.freeCtr with
    | none => kept
    | some va =>
      if m.valid va then
        match s.walk .load va m m.levels root false with
        | .ok l => ⟨m, s.asid, m.vpnOf l.lvl va, l⟩ :: kept
        | _ => kept
      else kept

/-- The model's own: a step that runs an instruction uses up a free value (log 8), after which other translations may be cached (log 44). -/
def State.tick (s : State) : State := { s with freeCtr := s.freeCtr + 1, tlb := s.nextTlb }

/-! ## Translation -/

/-- Translate an address as accesses of a privilege mode are (R112). -/
def State.translateAs (s : State) (q : Priv) (kind : Acc) (va : Word) : Res Phys :=
  match s.svMode q with
  | none => .ok ⟨va.toNat, none⟩
  | some (m, root) =>
    if m.valid va then (s.leafOf kind va m root).bind fun l => s.useLeaf kind q va m l else .exc ⟨kind.pageFault, va⟩

/-- Translate a data address (R112: with MPRV, as the privilege mode in MPP). -/
def State.translate (s : State) (kind : Acc) (va : Word) : Res Phys := s.translateAs s.effPriv kind va

/-- The effective address modulo 2^XLEN of data accesses, unsigned (20_memory R96, 43_base_integer R215; log 40). -/
def State.eaOf (s : State) (a : Word) : Word := if s.eff64 then a else zext32 a

/-- The bytes from the i-th on of an access that may be misaligned, each translated and checked before the next, modulo 2^XLEN; an exception reports the address
of the access (20_memory R96, R102, 60_exceptions R369; log 33). -/
def State.translateBytes (s : State) (kind : Acc) (ea : Word) (i : Nat) : Nat → Res (List Nat)
  | 0 => .ok []
  | n + 1 =>
    ((s.translate kind (s.eaOf (ea + BitVec.ofNat 64 i))).reportAt ea).bind fun x =>
    (pmaCheck s.cfg kind ea [x.pa]).bind fun _ =>
    (s.translateBytes kind ea (i + 1) n).bind fun r => .ok (x.pa :: r)

end Sys2Proof.Machine
end

