-- ==== Sys2Proof/Machine/Operands.lean ====
section
/-!
DEFINITION. Machine/Operands.lean: operand forms: immediates, effective addresses and the capability that authorises an access, the checks and effects of
every kind of memory access, and the targets of jumps.
-/
namespace Sys2Proof.Machine
open Sys2Proof

/-! ## Lengths and immediates -/

/-- The length of the encoding in bytes. -/
def formLen : Form → Nat
  | .std => 4
  | .comp => 2
def uwLen : UwForm → Nat
  | .std | .uw => 4
  | .comp | .compUw => 2
/-- The unsigned-word variant (49_cbo_prefetch_zba R354). -/
def isUw : UwForm → Bool
  | .std | .comp => false
  | .uw | .compUw => true

/-- A signed immediate of `k` scaled units (30_encoding R132). -/
def simm {n : Nat} (i : BitVec n) (scale : Nat) : Word := i.signExtend 64 <<< scale
/-- An unsigned immediate. -/
def uimm {n : Nat} (i : BitVec n) (scale : Nat) : Word := i.setWidth 64 <<< scale

/-! ## Authority and effective address (20_memory R104) -/

/-- The authorising capability and the effective address: c[rs1] and its address in Capability mode, ddc and x[rs1] in Legacy mode (R104). -/
def State.authEa (s : State) (rs1 : Reg) (off : Word) : Cap × Word :=
  if s.capMode then (s.rc rs1, s.eaOf ((s.rc rs1).addr + off)) else (s.ddc, s.eaOf (s.rx rs1 + off))

/-- 2^XLEN of data accesses. -/
def State.spaceEnd (s : State) : Nat := if s.eff64 then 2 ^ 64 else 2 ^ 32

/-- All bytes of the access are in bounds: `inBounds` as R29 has it, and the bytes that lie past the end of the address space where they are, from address 0 on
(10_state R29, 20_memory R96, R105). -/
def State.covers (s : State) (auth : Cap) (ea : Word) (n : Nat) : Bool :=
  auth.inBounds s.cfg ea n &&
    (decide (ea.toNat + n ≤ s.spaceEnd) || auth.inBounds s.cfg 0 (ea.toNat + n - s.spaceEnd))

/-- `checkData(auth, ea, n, kind)` (R105): tag, seal, permission, length. -/
def State.checkData (s : State) (auth : Cap) (ea : Word) (n : Nat) (kind : Acc) : Res Unit :=
  if !auth.tag then .exc (cheri 1 0)
  else if auth.s s.cfg then .exc (cheri 1 1)
  else if (kind == .load || kind == .atomic) && !(auth.perms s.cfg).r then .exc (cheri 1 2)
  else if (kind == .store || kind == .atomic) && !(auth.perms s.cfg).w then .exc (cheri 1 2)
  else if !s.covers auth ea n then .exc (cheri 1 3)
  else .ok ()

/-- What a misaligned address means: integer and FP accesses (R102), capability accesses (R101), integer atomics (44_atomics R258). -/
inductive Align where
  | plain
  | strict
  | zam
  deriving DecidableEq, Repr

/-- The alignment check (20_memory R106 step 3). -/
def alignCheck (p : Params) (ea : Word) (n : Nat) (kind : Acc) (al : Align) : Res Unit :=
  if ea.toNat % n = 0 then .ok ()
  else match al with
    | .plain => if p.misalignedIntOk then .ok () else .exc ⟨kind.misaligned, ea⟩
    | .strict => .exc ⟨kind.misaligned, ea⟩
    | .zam => .exc ⟨if p.hasZam then kind.misaligned else kind.accessFault, ea⟩

/-- Where the bytes of an access are, and the leaf entry its translation used. -/
structure Path where
  bytes : List Nat
  leaf : Option (Nat × Word)
  deriving DecidableEq, Repr

/-- The steps of an explicit access up to translation, in the order of 20_memory R106: breakpoint, CHERI checks, alignment, translation. -/
def State.dataPath (s : State) (auth : Cap) (ea : Word) (n : Nat) (kind : Acc) (al : Align) : Res Path :=
  (s.bpCheck kind ea).bind fun _ =>
  (s.checkData auth ea n kind).bind fun _ =>
  (alignCheck s.cfg ea n kind al).bind fun _ =>
  if ea.toNat % n = 0 then (s.translate kind ea).bind fun x => .ok ⟨span x.pa n, x.leaf⟩
  else (s.translateBytes kind ea 0 n).bind fun as => .ok ⟨as, none⟩

/-- A whole access: the path, then the physical check (R106 step 5). The result is the physical address of each byte. -/
def State.dataAccess (s : State) (auth : Cap) (ea : Word) (n : Nat) (kind : Acc) (al : Align) : Res (List Nat) :=
  (s.dataPath auth ea n kind al).bind fun x => (pmaCheck s.cfg kind ea x.bytes).bind fun _ => .ok x.bytes

/-! ## Integer data -/

/-- MemRead of the bytes, zero-extended, in the byte order of data accesses (R98, R103). -/
def State.readInt (s : State) (as : List Nat) : Word := BitVec.ofNat 64 (leNat (ordered s.effBe (s.loadList as)))
/-- MemWrite of the low bytes of a value (R98, R103). -/
def State.writeInt (s : State) (as : List Nat) (v : Word) : State := s.storeBytes as (ordered s.effBe (leBytes as.length v.toNat))

/-- The load of `n` bytes (43_base_integer R214). -/
def State.loadInt (s : State) (rs1 : Reg) (off : Word) (n : Nat) : Res Word :=
  (s.dataAccess (s.authEa rs1 off).1 (s.authEa rs1 off).2 n .load .plain).bind fun as => .ok (s.readInt as)
/-- The store of `n` bytes (43_base_integer R223). -/
def State.storeInt (s : State) (rs1 : Reg) (off : Word) (n : Nat) (v : Word) : Res State :=
  (s.dataAccess (s.authEa rs1 off).1 (s.authEa rs1 off).2 n .store .plain).bind fun as => .ok (s.writeInt as v)

/-- `intLoad(n, ext)` and the advance of pc (R214). -/
def State.intLoad (s : State) (rd rs1 : Reg) (off : Word) (n : Nat) (signed : Bool) (len : Nat) : Res State :=
  (s.loadInt rs1 off n).bind fun v => .ok ((s.wx rd (if signed then sextBytes n v else v)).advance len)
/-- `intStore(n)` and the advance of pc (R223). -/
def State.intStore (s : State) (rs2 rs1 : Reg) (off : Word) (n : Nat) (len : Nat) : Res State :=
  (s.storeInt rs1 off n (s.rx rs2)).bind fun t => .ok (t.advance len)

/-! ## Floating-point data (46_fp_loadstore R275, R279) -/

/-- NaN-box a narrower value: ones above it, up to FLEN (log 26). -/
def nanBox (p : Params) (n : Nat) (v : Word) : Word :=
  let x := v ||| (BitVec.allOnes 64 <<< (8 * n))
  if p.hasD then x else zext32 x
/-- mstatus.FS becomes Dirty (log 26). -/
def State.fsDirty (s : State) : State := { s with csr := { s.csr with mstatus := s.csr.mstatus ||| (3#64 <<< 13) } }

/-- `fpLoad(n)` (R275). -/
def State.fpLoad (s : State) (frd rs1 : Reg) (off : Word) (n : Nat) (len : Nat) : Res State :=
  (Res.check (!s.fsOff) illegal).bind fun _ =>
  (s.loadInt rs1 off n).bind fun v => .ok (((s.wf frd (nanBox s.cfg n v)).fsDirty).advance len)
/-- `fpStore(n)` (R279). -/
def State.fpStore (s : State) (fs2 rs1 : Reg) (off : Word) (n : Nat) (len : Nat) : Res State :=
  (Res.check (!s.fsOff) illegal).bind fun _ =>
  (s.storeInt rs1 off n (s.rf fs2)).bind fun t => .ok (t.advance len)

/-! ## Capability data (20_memory R99, R107, R110, R120) -/

/-- The authority permits reading, or writing, capabilities (R107). -/
def grantsRC (p : Params) (auth : Cap) : Bool := (auth.perms p).r && (auth.perms p).c
def grantsWC (p : Params) (auth : Cap) : Bool := (auth.perms p).w && (auth.perms p).c
/-- The capability with its tag kept only if the condition holds. -/
def Cap.keepTag (k : Cap) (b : Bool) : Cap := { k with tag := k.tag && b }

/-- `loadedCap(auth, pa)` (R107). -/
def State.loadedCap (s : State) (auth : Cap) (pa : Nat) : Cap := (s.readCap pa).keepTag (grantsRC s.cfg auth)

/-- The physical address of an aligned access's bytes. -/
def firstByte (as : List Nat) : Nat := as.headD 0

/-- A capability-wide read through an authority: its physical address and the value (42_cap_loadstore R191). -/
def State.capRead (s : State) (auth : Cap) (ea : Word) : Res (Nat × Cap) :=
  (s.dataAccess auth ea s.cfg.capBytes .load .strict).bind fun as => .ok (firstByte as, s.loadedCap auth (firstByte as))

/-- A capability-wide write that passed its checks: where, what, and the leaf entry whose CD bit hardware sets. -/
structure CapWrite where
  pa : Nat
  val : Cap
  cd : Option (Nat × Word)
  deriving DecidableEq, Repr

/-- menvcfg.CDE as read (11_csrs R87). -/
def State.cde (s : State) : Bool := s.cfg.hasPte && s.cfg.hasPteCd && (!s.cfg.cdeConfigurable || s.csr.menvcfg.getLsbD 61)

/-- The CW and CD rules on a leaf entry (R120), for a value already stripped by R107: the value, and whether CD is to be set. -/
def State.cwCd (s : State) (auth : Cap) (ea : Word) (pte : Word) (v : Cap) : Res (Cap × Bool) :=
  if !pte.getLsbD 59 then
    if s.cfg.cwClear = .raiseFault ∧ grantsWC s.cfg auth then .exc ⟨15, ea⟩ else .ok (v.keepTag false, false)
  else if s.cde && !pte.getLsbD 60 && grantsWC s.cfg auth && v.tag then
    if s.cfg.cdHwUpdate then .ok (v, true) else .exc ⟨15, ea⟩
  else .ok (v, false)

/-- CW and CD are in force: Zcheri_pte and an Sv39, Sv48 or Sv57 translation (R120). -/
def State.cwPages (s : State) : Bool := s.cfg.hasPte && (s.svMode s.effPriv).any (·.1.pteBytes == 8)

/-- The CW and CD rules where they are in force. -/
def State.cwRule (s : State) (auth : Cap) (ea : Word) (leaf : Option (Nat × Word)) (v : Cap) : Res (Cap × Option (Nat × Word)) :=
  match leaf with
  | some (a, pte) =>
    if s.cwPages then (s.cwCd auth ea pte v).bind fun (w, set) => .ok (w, if set then some (a, putBit pte 60 true) else none)
    else .ok (v, none)
  | none => .ok (v, none)

/-- Hardware would set CD in this leaf entry (R120). -/
def State.setsCd (s : State) (auth : Cap) (ea : Word) (leaf : Option (Nat × Word)) (v : Cap) : Bool :=
  match s.cwRule auth ea leaf v with
  | .ok (_, some _) => true
  | _ => false

/-- Where CD is to be set, the entry is the one memory holds now, not a cached one (R121: the update atomically checks the entry). -/
def State.currentPath (s : State) (auth : Cap) (ea : Word) (v : Cap) (kind : Acc) (x : Path) : Res Path :=
  if s.setsCd auth ea x.leaf v then (s.uncached.translate kind ea).bind fun y => .ok ⟨span y.pa s.cfg.capBytes, y.leaf⟩ else .ok x

/-- The checks of a capability-wide write up to the physical one, in the order of R106, and the value left after R107 and R120. -/
def State.capWriteChecked (s : State) (auth : Cap) (ea : Word) (v : Cap) (kind : Acc) : Res CapWrite :=
  (s.dataPath auth ea s.cfg.capBytes kind .strict).bind fun y =>
  (s.currentPath auth ea (v.keepTag (grantsWC s.cfg auth)) kind y).bind fun x =>
  (s.cwRule auth ea x.leaf (v.keepTag (grantsWC s.cfg auth))).bind fun (w, cd) =>
  (pmaCheck s.cfg kind ea x.bytes).bind fun _ => .ok ⟨firstByte x.bytes, w, cd⟩

/-- A tagged store to memory that is not taggable faults or loses its tag (R110). -/
def State.tagRule (s : State) (ea : Word) (w : CapWrite) : Res CapWrite :=
  if w.val.tag && !Params.isTaggable s.cfg w.pa then
    if s.cfg.taggedToUntaggable = .raiseFault then .exc ⟨7, ea⟩ else .ok { w with val := w.val.keepTag false }
  else .ok w

/-- Every check of a capability-wide write, and the value left to store. Where a later check traps, CD is not set either: 60_exceptions R375 lets the update be visible,
and the model drops it (DESIGN CHOICE, log 43). -/
def State.capWritePath (s : State) (auth : Cap) (ea : Word) (v : Cap) (kind : Acc) : Res CapWrite :=
  (s.capWriteChecked auth ea v kind).bind fun w => s.tagRule ea w

/-- The hardware update of a leaf entry's CD bit (R120, R121). -/
def State.setCd (s : State) (cd : Option (Nat × Word)) : State :=
  match cd with
  | some (a, pte) => s.storeBytes (span a 8) (ordered (s.beOf .supervisor) (leBytes 8 pte.toNat))
  | none => s
/-- The CD update, then the store itself (R121, R99). -/
def State.putCap (s : State) (w : CapWrite) : State := (s.setCd w.cd).writeCap w.pa w.val

/-- LC and its compressed forms (42_cap_loadstore R191). -/
def State.capLoad (s : State) (rd rs1 : Reg) (off : Word) (len : Nat) : Res State :=
  (s.capRead (s.authEa rs1 off).1 (s.authEa rs1 off).2).bind fun (_, k) => .ok ((s.wc rd k).advance len)
/-- SC and its compressed forms (42_cap_loadstore R192). -/
def State.capStore (s : State) (rs2 rs1 : Reg) (off : Word) (len : Nat) : Res State :=
  (s.capWritePath (s.authEa rs1 off).1 (s.authEa rs1 off).2 (s.rc rs2) .store).bind fun w => .ok ((s.putCap w).advance len)

/-! ## Jumps (43_base_integer R200 to R206) -/

/-- The instructions that read or update pcc are illegal in debug mode if the implementation says so (R200). -/
def State.pcrelCheck (s : State) : Res Unit := Res.check (!(s.debug && s.cfg.debugPcrelIllegal)) illegal

/-- Instruction address misaligned (R204). -/
def State.targetAlign (s : State) (t : Word) : Res Unit := Res.check (decide (t.toNat % s.minLen = 0)) ⟨0, s.cutX t⟩

/-- A minimum-length instruction at the target is in pcc's bounds (20_memory R109); not checked in debug mode (60_exceptions R396). -/
def State.targetInPcc (s : State) (t : Word) : Res Unit :=
  Res.check (s.debug || s.pcc.inBounds s.cfg t s.minLen) (cheri 2 3)

/-- A jump to an address under pcc: aligned, then in bounds (R202). -/
def State.checkTarget (s : State) (t : Word) : Res Unit := (s.targetAlign t).bind fun _ => s.targetInPcc t

/-- The sealed link capability, and the write of the link register in either mode (R202). -/
def State.linkCap (s : State) (len : Nat) : Cap := (s.pcc.setAddr s.cfg (s.toX (s.pc + BitVec.ofNat 64 len))).seal s.cfg
def State.writeLink (s : State) (rd : Reg) (len : Nat) (capForm : Bool) : State :=
  if capForm then s.wc rd (s.linkCap len) else s.wx rd (s.pc + BitVec.ofNat 64 len)

/-- JAL and its compressed forms (R202). -/
def State.jumpDirect (s : State) (rd : Reg) (off : Word) (len : Nat) : Res State :=
  s.pcrelCheck.bind fun _ =>
  (s.checkTarget (s.targetAt (s.pc + off))).bind fun _ =>
  .ok ((s.writeLink rd len s.capMode).jumpTo (s.targetAt (s.pc + off)))

/-- The target address of an indirect jump: bit 0 cleared, then as pcc holds it (R203). -/
def State.indirectTarget (s : State) (a off : Word) : Word := s.targetAt (putBit (a + off) 0 false)

/-- The checks on the target capability of an indirect jump (R203, Capability mode). -/
def State.checkJumpCap (s : State) (t : Cap) (off : Word) : Res Unit :=
  (s.targetAlign (s.indirectTarget t.addr off)).bind fun _ =>
  if !t.tag then .exc (cheri 2 0)
  else if t.s s.cfg && off != 0 then .exc (cheri 2 1)
  else if !(t.perms s.cfg).x then .exc (cheri 2 2)
  else if !t.inBounds s.cfg (s.indirectTarget t.addr off) s.minLen then .exc (cheri 2 3)
  else .ok ()

/-- The pcc an indirect jump through a capability installs (R203). -/
def State.jumpedPcc (s : State) (t : Cap) (off : Word) : Cap := { t.unseal s.cfg with addr := s.indirectTarget t.addr off }

/-- JALR as in Capability mode (R203). -/
def State.jumpCap (s : State) (rd rs1 : Reg) (off : Word) (len : Nat) : Res State :=
  s.pcrelCheck.bind fun _ =>
  (s.checkJumpCap (s.rc rs1) off).bind fun _ =>
  .ok ((s.writeLink rd len true).setPcc (s.jumpedPcc (s.rc rs1) off))

/-- JALR as in Legacy mode (R203). -/
def State.jumpInt (s : State) (rd rs1 : Reg) (off : Word) (len : Nat) : Res State :=
  s.pcrelCheck.bind fun _ =>
  (s.checkTarget (s.indirectTarget (s.rx rs1) off)).bind fun _ =>
  .ok ((s.writeLink rd len false).jumpTo (s.indirectTarget (s.rx rs1) off))

/-- JALR in the current mode; JALR.MODE asks for the other (R203, R205). -/
def State.jumpIndirect (s : State) (rd rs1 : Reg) (off : Word) (len : Nat) (capForm : Bool) : Res State :=
  if capForm then s.jumpCap rd rs1 off len else s.jumpInt rd rs1 off len

/-- Conditional branches (R206). -/
def State.branch (s : State) (c : Cond) (a b : Word) (off : Word) (len : Nat) : Res State :=
  s.pcrelCheck.bind fun _ =>
  if condHolds c a b then (s.checkTarget (s.targetAt (s.pc + off))).bind fun _ => .ok (s.jumpTo (s.targetAt (s.pc + off)))
  else .ok (s.advance len)

end Sys2Proof.Machine
end

