-- ==== Sys2Proof/Machine/CapInspect.lean ====
section
/-!
DEFINITION. Machine/CapInspect.lean: the capability inspection instructions (40_cap_inspect R160 to R168).
-/
namespace Sys2Proof.Machine
open Sys2Proof

/-- The outcome of an instruction. -/
abbrev Out := Host.Outcome State Fault Refusal

/-- The CHERI instructions are illegal while CHERI register access is disabled (11_csrs R90). -/
def State.cheriOk (s : State) : Res Unit := Res.check (!s.cheriRegsDisabled) illegal

/-- An inspection: the value goes to x[rd]; no exception of its own (R160). -/
def State.inspect (s : State) (rd : Reg) (v : Word) : Res State := s.cheriOk.bind fun _ => .ok ((s.wx rd v).advance 4)

/-- The value of GCPERM (R162). -/
def gcpermVal (p : Params) (k : Cap) : Word := BitVec.ofNat 64 ((k.perms p).bits + k.sdp p * 65536)
/-- The value of GCBASE (R164). -/
def gcbaseVal (p : Params) (k : Cap) : Word := if k.malformed p then 0 else BitVec.ofNat 64 (k.base p)
/-- The value of GCLEN (R165; 92 D3). -/
def gclenVal (p : Params) (k : Cap) : Word :=
  if k.malformed p then 0
  else if 2 ^ p.xlenmax ≤ k.length p then truncX p (BitVec.allOnes 64) else BitVec.ofNat 64 (k.length p)

/-- GCTAG (R161). -/
def execGctag (rd rs1 : Reg) (s : State) : Out := (s.inspect rd (ofBit (s.rc rs1).tag)).run s
/-- GCPERM (R162). -/
def execGcperm (rd rs1 : Reg) (s : State) : Out := (s.inspect rd (gcpermVal s.cfg (s.rc rs1))).run s
/-- GCHI (R163). -/
def execGchi (rd rs1 : Reg) (s : State) : Out := (s.inspect rd (s.rc rs1).md).run s
/-- GCBASE (R164). -/
def execGcbase (rd rs1 : Reg) (s : State) : Out := (s.inspect rd (gcbaseVal s.cfg (s.rc rs1))).run s
/-- GCLEN (R165). -/
def execGclen (rd rs1 : Reg) (s : State) : Out := (s.inspect rd (gclenVal s.cfg (s.rc rs1))).run s
/-- CRAM (R166): of the length in x[rs1]. -/
def execCram (rd rs1 : Reg) (s : State) : Out := (s.inspect rd (cramMask s.cfg (truncX s.cfg (s.rx rs1)).toNat)).run s
/-- SCEQ (R167): bit-for-bit equality with the tag. -/
def execSceq (rd rs1 rs2 : Reg) (s : State) : Out := (s.inspect rd (ofBit (s.rc rs1 == s.rc rs2))).run s
/-- SCSS (R168). -/
def execScss (rd rs1 rs2 : Reg) (s : State) : Out :=
  (s.inspect rd (ofBit ((s.rc rs1).tag == (s.rc rs2).tag && isCapSubset s.cfg (s.rc rs2) (s.rc rs1)))).run s

end Sys2Proof.Machine
end

