-- ==== Sys2Proof/Machine/Atomics.lean ====
section
/-!
DEFINITION. Machine/Atomics.lean: the atomic instructions (44_atomics R240 to R258). The aq and rl bits have no further effect in a sequentially
consistent memory (R240; log 28).
-/
namespace Sys2Proof.Machine
open Sys2Proof

/-- AMO<OP> of `n` bytes (R241). -/
def State.amo (s : State) (op : AmoOp) (n : Nat) (rd rs1 rs2 : Reg) : Res State :=
  (s.dataAccess (s.authEa rs1 0).1 (s.authEa rs1 0).2 n .atomic .zam).bind fun as =>
  .ok ((((s.writeInt as (amoResult op (sextBytes n (s.readInt as)) (sextBytes n (s.rx rs2)))).wx rd (sextBytes n (s.readInt as))).advance 4))

/-- Load-reserved of `n` bytes (R244). -/
def State.lr (s : State) (n : Nat) (rd rs1 : Reg) : Res State :=
  (s.dataAccess (s.authEa rs1 0).1 (s.authEa rs1 0).2 n .load .zam).bind fun as =>
  .ok (({ s with resv := some (firstByte as, n) }.wx rd (sextBytes n (s.readInt as))).advance 4)

/-- The outcome of a store-conditional: whatever happens, the reservation is gone, also when it traps (R250), and when a
trigger stops it (R250 does not say: log 29). -/
def State.scOut (s : State) (r : Res State) : Out := Res.run { s with resv := none } r

/-- Store-conditional of `n` bytes (R251). -/
def State.sc (s : State) (n : Nat) (rd rs1 rs2 : Reg) : Res State :=
  (s.dataAccess (s.authEa rs1 0).1 (s.authEa rs1 0).2 n .store .zam).bind fun as =>
  if s.resv = some (firstByte as, n) then .ok (({ s.writeInt as (s.rx rs2) with resv := none }.wx rd 0).advance 4)
  else .ok (({ s with resv := none }.wx rd 1).advance 4)

/-- AMOSWAP.C (R243): both directions stripped without C-permission (20_memory R107); the old value is read after the update of CD (20_memory R120). -/
def State.amoswapCap (s : State) (rd rs1 rs2 : Reg) : Res State :=
  (s.capWritePath (s.authEa rs1 0).1 (s.authEa rs1 0).2 (s.rc rs2) .atomic).bind fun w =>
  .ok (((s.putCap w).wc rd ((s.setCd w.cd).loadedCap (s.authEa rs1 0).1 w.pa)).advance 4)

/-- LR.C (R249). -/
def State.lrCap (s : State) (rd rs1 : Reg) : Res State :=
  (s.capRead (s.authEa rs1 0).1 (s.authEa rs1 0).2).bind fun (pa, k) =>
  .ok (({ s with resv := some (pa, s.cfg.capBytes) }.wc rd k).advance 4)

/-- SC.C (R256). The update of CD belongs to the translation: it is made before the reservation is looked at, and ends one it overlaps (R250). -/
def State.scCap (s : State) (rd rs1 rs2 : Reg) : Res State :=
  (s.capWriteChecked (s.authEa rs1 0).1 (s.authEa rs1 0).2 (s.rc rs2) .store).bind fun c =>
  if (s.setCd c.cd).resv = some (c.pa, s.cfg.capBytes) then
    (s.tagRule (s.authEa rs1 0).2 c).bind fun w => .ok (({ s.putCap w with resv := none }.wx rd 0).advance 4)
  else .ok (({ s.setCd c.cd with resv := none }.wx rd 1).advance 4)

/-- AMOSWAP.W (R241). -/
def execAmoswapW (rd rs1 rs2 : Reg) (_aq _rl : Bool) (s : State) : Out := (s.amo .swap 4 rd rs1 rs2).run s
/-- AMOADD.W (R241). -/
def execAmoaddW (rd rs1 rs2 : Reg) (_aq _rl : Bool) (s : State) : Out := (s.amo .add 4 rd rs1 rs2).run s
/-- AMOXOR.W (R241). -/
def execAmoxorW (rd rs1 rs2 : Reg) (_aq _rl : Bool) (s : State) : Out := (s.amo .xor 4 rd rs1 rs2).run s
/-- AMOAND.W (R241). -/
def execAmoandW (rd rs1 rs2 : Reg) (_aq _rl : Bool) (s : State) : Out := (s.amo .and 4 rd rs1 rs2).run s
/-- AMOOR.W (R241). -/
def execAmoorW (rd rs1 rs2 : Reg) (_aq _rl : Bool) (s : State) : Out := (s.amo .or 4 rd rs1 rs2).run s
/-- AMOMIN.W (R241). -/
def execAmominW (rd rs1 rs2 : Reg) (_aq _rl : Bool) (s : State) : Out := (s.amo .min 4 rd rs1 rs2).run s
/-- AMOMAX.W (R241). -/
def execAmomaxW (rd rs1 rs2 : Reg) (_aq _rl : Bool) (s : State) : Out := (s.amo .max 4 rd rs1 rs2).run s
/-- AMOMINU.W (R241). -/
def execAmominuW (rd rs1 rs2 : Reg) (_aq _rl : Bool) (s : State) : Out := (s.amo .minu 4 rd rs1 rs2).run s
/-- AMOMAXU.W (R241). -/
def execAmomaxuW (rd rs1 rs2 : Reg) (_aq _rl : Bool) (s : State) : Out := (s.amo .maxu 4 rd rs1 rs2).run s
/-- AMOSWAP.D (R242). -/
def execAmoswapD (rd rs1 rs2 : Reg) (_aq _rl : Bool) (s : State) : Out := (s.amo .swap 8 rd rs1 rs2).run s
/-- AMOADD.D (R242). -/
def execAmoaddD (rd rs1 rs2 : Reg) (_aq _rl : Bool) (s : State) : Out := (s.amo .add 8 rd rs1 rs2).run s
/-- AMOXOR.D (R242). -/
def execAmoxorD (rd rs1 rs2 : Reg) (_aq _rl : Bool) (s : State) : Out := (s.amo .xor 8 rd rs1 rs2).run s
/-- AMOAND.D (R242). -/
def execAmoandD (rd rs1 rs2 : Reg) (_aq _rl : Bool) (s : State) : Out := (s.amo .and 8 rd rs1 rs2).run s
/-- AMOOR.D (R242). -/
def execAmoorD (rd rs1 rs2 : Reg) (_aq _rl : Bool) (s : State) : Out := (s.amo .or 8 rd rs1 rs2).run s
/-- AMOMIN.D (R242). -/
def execAmominD (rd rs1 rs2 : Reg) (_aq _rl : Bool) (s : State) : Out := (s.amo .min 8 rd rs1 rs2).run s
/-- AMOMAX.D (R242). -/
def execAmomaxD (rd rs1 rs2 : Reg) (_aq _rl : Bool) (s : State) : Out := (s.amo .max 8 rd rs1 rs2).run s
/-- AMOMINU.D (R242). -/
def execAmominuD (rd rs1 rs2 : Reg) (_aq _rl : Bool) (s : State) : Out := (s.amo .minu 8 rd rs1 rs2).run s
/-- AMOMAXU.D (R242). -/
def execAmomaxuD (rd rs1 rs2 : Reg) (_aq _rl : Bool) (s : State) : Out := (s.amo .maxu 8 rd rs1 rs2).run s
/-- AMOSWAP.C (R243). -/
def execAmoswapC (rd rs1 rs2 : Reg) (_aq _rl : Bool) (s : State) : Out := (s.cheriOk.bind fun _ => s.amoswapCap rd rs1 rs2).run s
/-- LR.B (R245). -/
def execLrB (rd rs1 : Reg) (_aq _rl : Bool) (s : State) : Out := (s.lr 1 rd rs1).run s
/-- LR.H (R246). -/
def execLrH (rd rs1 : Reg) (_aq _rl : Bool) (s : State) : Out := (s.lr 2 rd rs1).run s
/-- LR.W (R247). -/
def execLrW (rd rs1 : Reg) (_aq _rl : Bool) (s : State) : Out := (s.lr 4 rd rs1).run s
/-- LR.D (R248). -/
def execLrD (rd rs1 : Reg) (_aq _rl : Bool) (s : State) : Out := (s.lr 8 rd rs1).run s
/-- LR.C (R249). -/
def execLrC (rd rs1 : Reg) (_aq _rl : Bool) (s : State) : Out := (s.cheriOk.bind fun _ => s.lrCap rd rs1).run s
/-- SC.B (R252). -/
def execScB (rd rs1 rs2 : Reg) (_aq _rl : Bool) (s : State) : Out := s.scOut (s.sc 1 rd rs1 rs2)
/-- SC.H (R253). -/
def execScH (rd rs1 rs2 : Reg) (_aq _rl : Bool) (s : State) : Out := s.scOut (s.sc 2 rd rs1 rs2)
/-- SC.W (R254). -/
def execScW (rd rs1 rs2 : Reg) (_aq _rl : Bool) (s : State) : Out := s.scOut (s.sc 4 rd rs1 rs2)
/-- SC.D (R255). -/
def execScD (rd rs1 rs2 : Reg) (_aq _rl : Bool) (s : State) : Out := s.scOut (s.sc 8 rd rs1 rs2)
/-- SC.C (R256). Where disabled CHERI register access makes it an illegal instruction it is no store-conditional, and the reservation stands (R250 does not say:
log 29). -/
def execScC (rd rs1 rs2 : Reg) (_aq _rl : Bool) (s : State) : Out :=
  if s.cheriRegsDisabled then Res.run s (.exc illegal) else s.scOut (s.scCap rd rs1 rs2)

end Sys2Proof.Machine
end

