-- ==== Sys2Proof/Machine/BaseControl.lean ====
section
/-!
DEFINITION. Machine/BaseControl.lean: AUIPC, jumps, branches and LUI (43_base_integer R201 to R212, R231).
-/
namespace Sys2Proof.Machine
open Sys2Proof

/-- The 32-bit offset of AUIPC and LUI, sign-extended (R201). -/
def upperImm (imm : BitVec 20) : Word := (imm ++ 0#12).signExtend 64

/-- AUIPC (R201). -/
def execAuipc (rd : Reg) (imm : BitVec 20) (s : State) : Out :=
  (s.pcrelCheck.bind fun _ =>
    .ok ((if s.capMode then s.wc rd (s.pcc.setAddr s.cfg (s.toX (s.pc + upperImm imm)))
      else s.wx rd (s.pc + upperImm imm)).advance 4)).run s
/-- JAL (R202). -/
def execJal (rd : Reg) (off : BitVec 20) (s : State) : Out := (s.jumpDirect rd (simm off 1) 4).run s
/-- JALR (R203). -/
def execJalr (rd rs1 : Reg) (imm : BitVec 12) (s : State) : Out := (s.jumpIndirect rd rs1 (simm imm 0) 4 s.capMode).run s
/-- JALR.MODE (R205): JALR of the other mode, with zero offset; a CHERI instruction (11_csrs R90). -/
def execJalrMode (rd rs1 : Reg) (s : State) : Out := (s.cheriOk.bind fun _ => s.jumpIndirect rd rs1 0 4 (!s.capMode)).run s
/-- BEQ (R207). -/
def execBeq (rs1 rs2 : Reg) (off : BitVec 12) (s : State) : Out := (s.branch .eq (s.rx rs1) (s.rx rs2) (simm off 1) 4).run s
/-- BNE (R208). -/
def execBne (rs1 rs2 : Reg) (off : BitVec 12) (s : State) : Out := (s.branch .ne (s.rx rs1) (s.rx rs2) (simm off 1) 4).run s
/-- BLT (R209). -/
def execBlt (rs1 rs2 : Reg) (off : BitVec 12) (s : State) : Out := (s.branch .lt (s.rx rs1) (s.rx rs2) (simm off 1) 4).run s
/-- BGE (R210). -/
def execBge (rs1 rs2 : Reg) (off : BitVec 12) (s : State) : Out := (s.branch .ge (s.rx rs1) (s.rx rs2) (simm off 1) 4).run s
/-- BLTU (R211). -/
def execBltu (rs1 rs2 : Reg) (off : BitVec 12) (s : State) : Out := (s.branch .ltu (s.rx rs1) (s.rx rs2) (simm off 1) 4).run s
/-- BGEU (R212). -/
def execBgeu (rs1 rs2 : Reg) (off : BitVec 12) (s : State) : Out := (s.branch .geu (s.rx rs1) (s.rx rs2) (simm off 1) 4).run s

end Sys2Proof.Machine
end

