-- ==== Sys2Proof/Machine/BaseInt.lean ====
section
/-!
DEFINITION. Machine/BaseInt.lean: the integer computational instructions (43_base_integer R231; 92 D1), their 16-bit forms (47_compressed R321; log 14), and
ADD.UW and SLLI.UW (49_cbo_prefetch_zba R354; log 15).
-/
namespace Sys2Proof.Machine
open Sys2Proof

/-- A computational instruction: XLEN bits to x[rd], tag and metadata zeroed; it never traps (R231). -/
def State.compute (s : State) (rd : Reg) (v : Word) (len : Nat) : Res State := .ok ((s.wx rd v).advance len)

/-- The first source of ADD.UW and SLLI.UW is the unsigned low word (49 R354). -/
def uwOperand (f : UwForm) (v : Word) : Word := if isUw f then zext32 v else v

/-- LUI and C.LUI (R231). -/
def execLui (f : Form) (rd : Reg) (imm : BitVec 20) (s : State) : Out := (s.compute rd (upperImm imm) (formLen f)).run s
/-- ADDI, C.ADDI, C.LI, C.NOP (R231). -/
def execAddi (f : Form) (rd rs1 : Reg) (imm : BitVec 12) (s : State) : Out := (s.compute rd (s.rx rs1 + simm imm 0) (formLen f)).run s
/-- SLTI (R231). -/
def execSlti (rd rs1 : Reg) (imm : BitVec 12) (s : State) : Out := (s.compute rd (aluSlt (s.rx rs1) (simm imm 0)) 4).run s
/-- SLTIU (R231). -/
def execSltiu (rd rs1 : Reg) (imm : BitVec 12) (s : State) : Out := (s.compute rd (aluSltu (s.rx rs1) (simm imm 0)) 4).run s
/-- XORI and C.NOT (R231). -/
def execXori (f : Form) (rd rs1 : Reg) (imm : BitVec 12) (s : State) : Out := (s.compute rd (s.rx rs1 ^^^ simm imm 0) (formLen f)).run s
/-- ORI (R231). -/
def execOri (rd rs1 : Reg) (imm : BitVec 12) (s : State) : Out := (s.compute rd (s.rx rs1 ||| simm imm 0) 4).run s
/-- ANDI, C.ANDI, C.ZEXT.B (R231). -/
def execAndi (f : Form) (rd rs1 : Reg) (imm : BitVec 12) (s : State) : Out := (s.compute rd (s.rx rs1 &&& simm imm 0) (formLen f)).run s
/-- SLLI, C.SLLI, SLLI.UW (R231). -/
def execSlli (f : UwForm) (rd rs1 : Reg) (shamt : BitVec 6) (s : State) : Out := (s.compute rd (aluSll s.cur64 (uwOperand f (s.rx rs1)) (uimm shamt 0)) (uwLen f)).run s
/-- SRLI and C.SRLI (R231). -/
def execSrli (f : Form) (rd rs1 : Reg) (shamt : BitVec 6) (s : State) : Out := (s.compute rd (aluSrl s.cur64 (s.rx rs1) (uimm shamt 0)) (formLen f)).run s
/-- SRAI and C.SRAI (R231). -/
def execSrai (f : Form) (rd rs1 : Reg) (shamt : BitVec 6) (s : State) : Out := (s.compute rd (aluSra s.cur64 (s.rx rs1) (uimm shamt 0)) (formLen f)).run s
/-- ADD, C.ADD, ADD.UW, C.ZEXT.W (R231). -/
def execAdd (f : UwForm) (rd rs1 rs2 : Reg) (s : State) : Out := (s.compute rd (uwOperand f (s.rx rs1) + s.rx rs2) (uwLen f)).run s
/-- SUB and C.SUB (R231). -/
def execSub (f : Form) (rd rs1 rs2 : Reg) (s : State) : Out := (s.compute rd (s.rx rs1 - s.rx rs2) (formLen f)).run s
/-- SLL (R231). -/
def execSll (rd rs1 rs2 : Reg) (s : State) : Out := (s.compute rd (aluSll s.cur64 (s.rx rs1) (s.rx rs2)) 4).run s
/-- SLT (R231). -/
def execSlt (rd rs1 rs2 : Reg) (s : State) : Out := (s.compute rd (aluSlt (s.rx rs1) (s.rx rs2)) 4).run s
/-- SLTU (R231). -/
def execSltu (rd rs1 rs2 : Reg) (s : State) : Out := (s.compute rd (aluSltu (s.rx rs1) (s.rx rs2)) 4).run s
/-- XOR and C.XOR (R231). -/
def execXor (f : Form) (rd rs1 rs2 : Reg) (s : State) : Out := (s.compute rd (s.rx rs1 ^^^ s.rx rs2) (formLen f)).run s
/-- SRL (R231). -/
def execSrl (rd rs1 rs2 : Reg) (s : State) : Out := (s.compute rd (aluSrl s.cur64 (s.rx rs1) (s.rx rs2)) 4).run s
/-- SRA (R231). -/
def execSra (rd rs1 rs2 : Reg) (s : State) : Out := (s.compute rd (aluSra s.cur64 (s.rx rs1) (s.rx rs2)) 4).run s
/-- OR and C.OR (R231). -/
def execOr (f : Form) (rd rs1 rs2 : Reg) (s : State) : Out := (s.compute rd (s.rx rs1 ||| s.rx rs2) (formLen f)).run s
/-- AND and C.AND (R231). -/
def execAnd (f : Form) (rd rs1 rs2 : Reg) (s : State) : Out := (s.compute rd (s.rx rs1 &&& s.rx rs2) (formLen f)).run s
/-- ADDIW and C.ADDIW (R231). -/
def execAddiw (f : Form) (rd rs1 : Reg) (imm : BitVec 12) (s : State) : Out := (s.compute rd (aluAddw (s.rx rs1) (simm imm 0)) (formLen f)).run s
/-- SLLIW (R231). -/
def execSlliw (rd rs1 : Reg) (shamt : BitVec 5) (s : State) : Out := (s.compute rd (aluSllw (s.rx rs1) (uimm shamt 0)) 4).run s
/-- SRLIW (R231). -/
def execSrliw (rd rs1 : Reg) (shamt : BitVec 5) (s : State) : Out := (s.compute rd (aluSrlw (s.rx rs1) (uimm shamt 0)) 4).run s
/-- SRAIW (R231). -/
def execSraiw (rd rs1 : Reg) (shamt : BitVec 5) (s : State) : Out := (s.compute rd (aluSraw (s.rx rs1) (uimm shamt 0)) 4).run s
/-- ADDW and C.ADDW (R231). -/
def execAddw (f : Form) (rd rs1 rs2 : Reg) (s : State) : Out := (s.compute rd (aluAddw (s.rx rs1) (s.rx rs2)) (formLen f)).run s
/-- SUBW and C.SUBW (R231). -/
def execSubw (f : Form) (rd rs1 rs2 : Reg) (s : State) : Out := (s.compute rd (aluSubw (s.rx rs1) (s.rx rs2)) (formLen f)).run s
/-- SLLW (R231). -/
def execSllw (rd rs1 rs2 : Reg) (s : State) : Out := (s.compute rd (aluSllw (s.rx rs1) (s.rx rs2)) 4).run s
/-- SRLW (R231). -/
def execSrlw (rd rs1 rs2 : Reg) (s : State) : Out := (s.compute rd (aluSrlw (s.rx rs1) (s.rx rs2)) 4).run s
/-- SRAW (R231). -/
def execSraw (rd rs1 rs2 : Reg) (s : State) : Out := (s.compute rd (aluSraw (s.rx rs1) (s.rx rs2)) 4).run s

end Sys2Proof.Machine
end

