-- ==== Sys2Proof/Machine/BaseLoadStore.lean ====
section
/-!
DEFINITION. Machine/BaseLoadStore.lean: integer loads and stores (43_base_integer R214 to R227).
-/
namespace Sys2Proof.Machine
open Sys2Proof

/-- LB (R216). -/
def execLb (rd rs1 : Reg) (imm : BitVec 12) (s : State) : Out := (s.intLoad rd rs1 (simm imm 0) 1 true 4).run s
/-- LBU (R217). -/
def execLbu (rd rs1 : Reg) (imm : BitVec 12) (s : State) : Out := (s.intLoad rd rs1 (simm imm 0) 1 false 4).run s
/-- LH (R218). -/
def execLh (rd rs1 : Reg) (imm : BitVec 12) (s : State) : Out := (s.intLoad rd rs1 (simm imm 0) 2 true 4).run s
/-- LHU (R219). -/
def execLhu (rd rs1 : Reg) (imm : BitVec 12) (s : State) : Out := (s.intLoad rd rs1 (simm imm 0) 2 false 4).run s
/-- LW (R220). -/
def execLw (rd rs1 : Reg) (imm : BitVec 12) (s : State) : Out := (s.intLoad rd rs1 (simm imm 0) 4 true 4).run s
/-- LWU (R221). -/
def execLwu (rd rs1 : Reg) (imm : BitVec 12) (s : State) : Out := (s.intLoad rd rs1 (simm imm 0) 4 false 4).run s
/-- LD (R222). -/
def execLd (rd rs1 : Reg) (imm : BitVec 12) (s : State) : Out := (s.intLoad rd rs1 (simm imm 0) 8 true 4).run s
/-- SB (R224). -/
def execSb (rs2 rs1 : Reg) (imm : BitVec 12) (s : State) : Out := (s.intStore rs2 rs1 (simm imm 0) 1 4).run s
/-- SH (R225). -/
def execSh (rs2 rs1 : Reg) (imm : BitVec 12) (s : State) : Out := (s.intStore rs2 rs1 (simm imm 0) 2 4).run s
/-- SW (R226). -/
def execSw (rs2 rs1 : Reg) (imm : BitVec 12) (s : State) : Out := (s.intStore rs2 rs1 (simm imm 0) 4 4).run s
/-- SD (R227). -/
def execSd (rs2 rs1 : Reg) (imm : BitVec 12) (s : State) : Out := (s.intStore rs2 rs1 (simm imm 0) 8 4).run s

end Sys2Proof.Machine
end

