-- ==== Sys2Proof/Machine/CapLoadStore.lean ====
section
/-!
DEFINITION. Machine/CapLoadStore.lean: LC and SC (42_cap_loadstore R190 to R193).
-/
namespace Sys2Proof.Machine
open Sys2Proof

/-- LC (R191). -/
def execLc (rd rs1 : Reg) (imm : BitVec 12) (s : State) : Out := (s.cheriOk.bind fun _ => s.capLoad rd rs1 (simm imm 0) 4).run s
/-- SC (R192). -/
def execSc (rs2 rs1 : Reg) (imm : BitVec 12) (s : State) : Out := (s.cheriOk.bind fun _ => s.capStore rs2 rs1 (simm imm 0) 4).run s

end Sys2Proof.Machine
end

