-- ==== Sys2Proof/Machine/CapManip.lean ====
section
/-!
DEFINITION. Machine/CapManip.lean: the capability manipulation instructions (41_cap_manipulate R170 to R184).
-/
namespace Sys2Proof.Machine
open Sys2Proof

/-- A manipulation: the capability goes to c[rd]; no exception of its own (R170). -/
def State.capResult (s : State) (rd : Reg) (k : Cap) : Res State := s.cheriOk.bind fun _ => .ok ((s.wc rd k).advance 4)

/-- The operand x[rs2] as an XLENMAX-bit value; these instructions run only where XLEN is XLENMAX. -/
def State.rxm (s : State) (i : Reg) : Word := truncX s.cfg (s.rx i)

/-- ACPERM (R175): both permission fields masked, the tag lost if sealed. -/
def acpermCap (p : Params) (k : Cap) (mask : Word) : Cap :=
  let q := k.perms p
  let q' : Perms := ⟨q.c && mask.getLsbD 0, q.w && mask.getLsbD 1, q.r && mask.getLsbD 2, q.x && mask.getLsbD 3, q.asr && mask.getLsbD 4⟩
  (k.withPerms p (encodeAP p q') (k.sdp p &&& bitsOf mask 16 4)).keepTag (!k.s p)

/-- CBLD (R178; 92 D24). -/
def cbldCap (p : Params) (a k : Cap) : Cap := { k with tag := a.tag && !a.s p && k.derivable p && isCapSubset p k a }

/-- The length operand of SCBNDSI (R180). -/
def scbndsiLen (s : Bool) (u : BitVec 5) : Nat := if s then u.toNat * 16 else u.toNat

/-- MODESW and C.MODESW (R184): toggle pcc.M, or dinfc.M in debug mode where supported. -/
def State.switchMode (s : State) (len : Nat) : Res State :=
  s.cheriOk.bind fun _ =>
  if s.debug then (Res.check s.cfg.debugModesw illegal).bind fun _ => .ok ({ s with dinfcM := !s.dinfcM }.advance len)
  else .ok ((s.setPcc { s.pcc with md := putBit s.pcc.md (mBit s.cfg) (!s.pcc.m s.cfg) }).advance len)

/-- CMV (R171): all CLEN+1 bits. -/
def execCmv (rd rs1 : Reg) (s : State) : Out := (s.capResult rd (s.rc rs1)).run s
/-- CADD (R172). -/
def execCadd (rd rs1 rs2 : Reg) (s : State) : Out := (s.capResult rd ((s.rc rs1).incAddr s.cfg (s.rx rs2))).run s
/-- CADDI (R173). -/
def execCaddi (rd rs1 : Reg) (imm : BitVec 12) (s : State) : Out := (s.capResult rd ((s.rc rs1).incAddr s.cfg (simm imm 0))).run s
/-- SCADDR (R174). -/
def execScaddr (rd rs1 rs2 : Reg) (s : State) : Out := (s.capResult rd ((s.rc rs1).setAddr s.cfg (s.rxm rs2))).run s
/-- ACPERM (R175). -/
def execAcperm (rd rs1 rs2 : Reg) (s : State) : Out := (s.capResult rd (acpermCap s.cfg (s.rc rs1) (s.rx rs2))).run s
/-- SCHI (R176): the metadata replaced, the tag 0. -/
def execSchi (rd rs1 rs2 : Reg) (s : State) : Out := (s.capResult rd ⟨false, s.rxm rs2, (s.rc rs1).addr⟩).run s
/-- SENTRY (R177): sealed; the tag is lost if it was sealed already. -/
def execSentry (rd rs1 : Reg) (s : State) : Out :=
  (s.capResult rd (((s.rc rs1).seal s.cfg).keepTag (!(s.rc rs1).s s.cfg))).run s
/-- CBLD (R178). -/
def execCbld (rd rs1 rs2 : Reg) (s : State) : Out := (s.capResult rd (cbldCap s.cfg (s.rc rs1) (s.rc rs2))).run s
/-- SCBNDS (R179). -/
def execScbnds (rd rs1 rs2 : Reg) (s : State) : Out := (s.capResult rd ((s.rc rs1).setBounds s.cfg (s.rxm rs2).toNat true)).run s
/-- SCBNDSI (R180). -/
def execScbndsi (rd rs1 : Reg) (sc : Bool) (u : BitVec 5) (s : State) : Out :=
  (s.capResult rd ((s.rc rs1).setBounds s.cfg (scbndsiLen sc u) true)).run s
/-- SCBNDSR (R182). -/
def execScbndsr (rd rs1 rs2 : Reg) (s : State) : Out := (s.capResult rd ((s.rc rs1).setBounds s.cfg (s.rxm rs2).toNat false)).run s
/-- SCMODE (R183). -/
def execScmode (rd rs1 rs2 : Reg) (s : State) : Out :=
  let k := s.rc rs1
  (s.capResult rd ({ k with md := putBit k.md (mBit s.cfg) ((s.rx rs2).getLsbD 0) }.keepTag (!k.s s.cfg))).run s
/-- MODESW (R184). -/
def execModesw (s : State) : Out := (s.switchMode 4).run s

end Sys2Proof.Machine
end

