-- ==== Sys2Proof/Machine/Cbo.lean ====
section
/-!
DEFINITION. Machine/Cbo.lean: cache-block operations and prefetches (49_cbo_prefetch_zba R335 to R344). There is no cache (20_memory R125; log 28).
-/
namespace Sys2Proof.Machine
open Sys2Proof

/-- The block an address lies in (R335). -/
def blockBase (p : Params) (ea : Word) : Word := (ea >>> p.blockLog) <<< p.blockLog

/-- `cboEnabled(field)` (R336): in M-mode always, below it by menvcfg, in U-mode by senvcfg too. -/
def State.cboEnabled (s : State) (field : Word → Bool) : Bool :=
  s.debug ||
    match s.priv with
    | .machine => true
    | .supervisor => field s.csr.menvcfg
    | .user => field s.csr.menvcfg && (!s.cfg.hasS || field s.csr.senvcfg)

/-- CBIE is not 00; CBCFE; CBZE (R336). -/
def envCbie (v : Word) : Bool := bitsOf v 4 2 != 0
def envCbcfe (v : Word) : Bool := v.getLsbD 6
def envCbze (v : Word) : Bool := v.getLsbD 7

/-- Some byte of the block is in bounds (R338). -/
def blockTouches (p : Params) (auth : Cap) (base : Word) : Bool :=
  !auth.malformed p && decide (auth.base p < base.toNat + p.blockSize) && decide (base.toNat < auth.top p) && decide (auth.base p < auth.top p)

/-- The bytes of the 4 KiB pages of a block from the i-th on, each translated as a store. -/
def State.blockPages (s : State) (base : Word) (i : Nat) : Nat → Res (List Nat)
  | 0 => .ok []
  | n + 1 => (s.translate .store (s.eaOf (base + BitVec.ofNat 64 (4096 * i)))).bind fun x =>
    (s.blockPages base (i + 1) n).bind fun r => .ok (span x.pa 4096 ++ r)

/-- Where the bytes of the block are: within one page from the translation of the effective address, a larger block page by page (R335, R340). -/
def State.blockBytes (s : State) (ea : Word) : Res (List Nat) :=
  if s.cfg.blockLog ≤ 12 then
    (s.translate .store ea).bind fun x => .ok (span (x.pa / s.cfg.blockSize * s.cfg.blockSize) s.cfg.blockSize)
  else s.blockPages (blockBase s.cfg ea) 0 (2 ^ (s.cfg.blockLog - 12))

/-- Translation and the physical check of a block, as a store (R335; log 34); xtval is the effective address. -/
def State.blockAccess (s : State) (ea : Word) : Res (List Nat) :=
  ((s.blockBytes ea).reportAt ea).bind fun as => (pmaCheck s.cfg .store ea as).bind fun _ => .ok as

/-- CBO.CLEAN and CBO.FLUSH (R338, R339): either permission and one byte in bounds suffice. -/
def State.cboManage (s : State) (rs1 : Reg) : Res State :=
  let auth := (s.authEa rs1 0).1
  let ea := (s.authEa rs1 0).2
  (Res.check (s.cboEnabled envCbcfe) illegal).bind fun _ =>
  (s.bpCheck .store ea).bind fun _ =>
  if !auth.tag then .exc (cheri 1 0)
  else if auth.s s.cfg then .exc (cheri 1 1)
  else if !(auth.perms s.cfg).r && !(auth.perms s.cfg).w then .exc (cheri 1 2)
  else if !blockTouches s.cfg auth (blockBase s.cfg ea) then .exc (cheri 1 3)
  else (s.blockAccess ea).bind fun _ => .ok (s.advance 4)

/-- CBO.INVAL (R337): ASR-permission in every mode, both permissions, the whole block. -/
def State.cboInval (s : State) (rs1 : Reg) : Res State :=
  let auth := (s.authEa rs1 0).1
  let ea := (s.authEa rs1 0).2
  (Res.check (s.cboEnabled envCbie) illegal).bind fun _ =>
  (Res.check s.asrOk (cheri 0 2)).bind fun _ =>
  (s.bpCheck .store ea).bind fun _ =>
  (s.checkData auth (blockBase s.cfg ea) s.cfg.blockSize .atomic).bind fun _ =>
  (s.blockAccess ea).bind fun _ => .ok (s.advance 4)

/-- CBO.ZERO (R340): a cache-block-wide store of zeros. -/
def State.cboZero (s : State) (rs1 : Reg) : Res State :=
  let auth := (s.authEa rs1 0).1
  let ea := (s.authEa rs1 0).2
  (Res.check (s.cboEnabled envCbze) illegal).bind fun _ =>
  (s.bpCheck .store ea).bind fun _ =>
  (s.checkData auth (blockBase s.cfg ea) s.cfg.blockSize .store).bind fun _ =>
  (s.blockAccess ea).bind fun as => .ok ((s.storeBytes as (List.replicate as.length 0)).advance 4)

/-- Every prefetch is a no-op that raises nothing (R341). -/
def State.prefetch (s : State) : Res State := .ok (s.advance 4)

/-- CBO.INVAL (R337). -/
def execCboInval (rs1 : Reg) (s : State) : Out := (s.cboInval rs1).run s
/-- CBO.CLEAN (R338). -/
def execCboClean (rs1 : Reg) (s : State) : Out := (s.cboManage rs1).run s
/-- CBO.FLUSH (R339). -/
def execCboFlush (rs1 : Reg) (s : State) : Out := (s.cboManage rs1).run s
/-- CBO.ZERO (R340). -/
def execCboZero (rs1 : Reg) (s : State) : Out := (s.cboZero rs1).run s
/-- PREFETCH.I (R342). -/
def execPrefetchI (_rs1 : Reg) (_off : BitVec 7) (s : State) : Out := s.prefetch.run s
/-- PREFETCH.R (R343). -/
def execPrefetchR (_rs1 : Reg) (_off : BitVec 7) (s : State) : Out := s.prefetch.run s
/-- PREFETCH.W (R344). -/
def execPrefetchW (_rs1 : Reg) (_off : BitVec 7) (s : State) : Out := s.prefetch.run s

end Sys2Proof.Machine
end

