-- ==== Sys2Proof/Machine/Compressed.lean ====
section
/-!
DEFINITION. Machine/Compressed.lean: the compressed instructions of the table (47_compressed R285 to R320), each the effect of its expansion with length 2.
-/
namespace Sys2Proof.Machine
open Sys2Proof

/-- csp and sp. -/
def spReg : Reg := 2

/-- CADDI on csp, or the integer addition to sp, as C.ADDI16SP and C.ADDI4SPN expand (R289, R290). -/
def State.spAdd (s : State) (rd : Reg) (off : Word) : State :=
  if s.capMode then s.wc rd ((s.rc spReg).incAddr s.cfg off) else s.wx rd (s.rx spReg + off)

/-- The byte offset of a capability-scaled field (R304, R305, R314, R315). -/
def capOff {n : Nat} (p : Params) (off : BitVec n) : Word := uimm off (if p.xlenmax64 then 4 else 3)

/-- C.BEQZ (R286). -/
def execCBeqz (rs1 : CReg) (off : BitVec 8) (s : State) : Out := (s.branch .eq (s.rx rs1.reg) 0 (simm off 1) 2).run s
/-- C.BNEZ (R287). -/
def execCBnez (rs1 : CReg) (off : BitVec 8) (s : State) : Out := (s.branch .ne (s.rx rs1.reg) 0 (simm off 1) 2).run s
/-- C.MV (R288): CMV in Capability mode, an integer move in Legacy mode. -/
def execCMv (rd rs2 : Reg) (s : State) : Out :=
  Res.run s (.ok ((if s.capMode then s.wc rd (s.rc rs2) else s.wx rd (s.rx rs2)).advance 2))
/-- C.ADDI16SP (R289). -/
def execCAddi16sp (imm : BitVec 6) (s : State) : Out := Res.run s (.ok ((s.spAdd spReg (simm imm 4)).advance 2))
/-- C.ADDI4SPN (R290). -/
def execCAddi4spn (rd : CReg) (imm : BitVec 8) (s : State) : Out := Res.run s (.ok ((s.spAdd rd.reg (uimm imm 2)).advance 2))
/-- C.MODESW (R291). -/
def execCModesw (s : State) : Out := (s.switchMode 2).run s
/-- C.JALR (R292). -/
def execCJalr (rs1 : Reg) (s : State) : Out := (s.jumpIndirect 1 rs1 0 2 s.capMode).run s
/-- C.JR (R293). -/
def execCJr (rs1 : Reg) (s : State) : Out := (s.jumpIndirect 0 rs1 0 2 s.capMode).run s
/-- C.JAL (R294). -/
def execCJal (off : BitVec 11) (s : State) : Out := (s.jumpDirect 1 (simm off 1) 2).run s
/-- C.J (R295). -/
def execCJ (off : BitVec 11) (s : State) : Out := (s.jumpDirect 0 (simm off 1) 2).run s
/-- C.LW (R296). -/
def execCLw (rd rs1 : CReg) (off : BitVec 5) (s : State) : Out := (s.intLoad rd.reg rs1.reg (uimm off 2) 4 true 2).run s
/-- C.LD (R297). -/
def execCLd (rd rs1 : CReg) (off : BitVec 5) (s : State) : Out := (s.intLoad rd.reg rs1.reg (uimm off 3) 8 true 2).run s
/-- C.LWSP (R298). -/
def execCLwsp (rd : Reg) (off : BitVec 6) (s : State) : Out := (s.intLoad rd spReg (uimm off 2) 4 true 2).run s
/-- C.LDSP (R299). -/
def execCLdsp (rd : Reg) (off : BitVec 6) (s : State) : Out := (s.intLoad rd spReg (uimm off 3) 8 true 2).run s
/-- C.FLW (R300). -/
def execCFlw (frd rs1 : CReg) (off : BitVec 5) (s : State) : Out := (s.fpLoad frd.reg rs1.reg (uimm off 2) 4 2).run s
/-- C.FLD (R302). -/
def execCFld (frd rs1 : CReg) (off : BitVec 5) (s : State) : Out := (s.fpLoad frd.reg rs1.reg (uimm off 3) 8 2).run s
/-- C.FLWSP (R301). -/
def execCFlwsp (frd : Reg) (off : BitVec 6) (s : State) : Out := (s.fpLoad frd spReg (uimm off 2) 4 2).run s
/-- C.FLDSP (R303). -/
def execCFldsp (frd : Reg) (off : BitVec 6) (s : State) : Out := (s.fpLoad frd spReg (uimm off 3) 8 2).run s
/-- C.LC (R304). -/
def execCLc (rd rs1 : CReg) (off : BitVec 5) (s : State) : Out := (s.capLoad rd.reg rs1.reg (capOff s.cfg off) 2).run s
/-- C.LCSP (R305). -/
def execCLcsp (rd : Reg) (off : BitVec 6) (s : State) : Out := (s.capLoad rd spReg (capOff s.cfg off) 2).run s
/-- C.SW (R306). -/
def execCSw (rs2 rs1 : CReg) (off : BitVec 5) (s : State) : Out := (s.intStore rs2.reg rs1.reg (uimm off 2) 4 2).run s
/-- C.SD (R307). -/
def execCSd (rs2 rs1 : CReg) (off : BitVec 5) (s : State) : Out := (s.intStore rs2.reg rs1.reg (uimm off 3) 8 2).run s
/-- C.SWSP (R308). -/
def execCSwsp (rs2 : Reg) (off : BitVec 6) (s : State) : Out := (s.intStore rs2 spReg (uimm off 2) 4 2).run s
/-- C.SDSP (R309). -/
def execCSdsp (rs2 : Reg) (off : BitVec 6) (s : State) : Out := (s.intStore rs2 spReg (uimm off 3) 8 2).run s
/-- C.FSW (R310). -/
def execCFsw (fs2 rs1 : CReg) (off : BitVec 5) (s : State) : Out := (s.fpStore fs2.reg rs1.reg (uimm off 2) 4 2).run s
/-- C.FSD (R312). -/
def execCFsd (fs2 rs1 : CReg) (off : BitVec 5) (s : State) : Out := (s.fpStore fs2.reg rs1.reg (uimm off 3) 8 2).run s
/-- C.FSWSP (R311). -/
def execCFswsp (fs2 : Reg) (off : BitVec 6) (s : State) : Out := (s.fpStore fs2 spReg (uimm off 2) 4 2).run s
/-- C.FSDSP (R313). -/
def execCFsdsp (fs2 : Reg) (off : BitVec 6) (s : State) : Out := (s.fpStore fs2 spReg (uimm off 3) 8 2).run s
/-- C.SC (R314). -/
def execCSc (rs2 rs1 : CReg) (off : BitVec 5) (s : State) : Out := (s.capStore rs2.reg rs1.reg (capOff s.cfg off) 2).run s
/-- C.SCSP (R315). -/
def execCScsp (rs2 : Reg) (off : BitVec 6) (s : State) : Out := (s.capStore rs2 spReg (capOff s.cfg off) 2).run s
/-- C.LBU (R316). -/
def execCLbu (rd rs1 : CReg) (off : BitVec 2) (s : State) : Out := (s.intLoad rd.reg rs1.reg (uimm off 0) 1 false 2).run s
/-- C.LHU (R317). -/
def execCLhu (rd rs1 : CReg) (off : BitVec 1) (s : State) : Out := (s.intLoad rd.reg rs1.reg (uimm off 1) 2 false 2).run s
/-- C.LH (R318). -/
def execCLh (rd rs1 : CReg) (off : BitVec 1) (s : State) : Out := (s.intLoad rd.reg rs1.reg (uimm off 1) 2 true 2).run s
/-- C.SB (R319). -/
def execCSb (rs2 rs1 : CReg) (off : BitVec 2) (s : State) : Out := (s.intStore rs2.reg rs1.reg (uimm off 0) 1 2).run s
/-- C.SH (R320). -/
def execCSh (rs2 rs1 : CReg) (off : BitVec 1) (s : State) : Out := (s.intStore rs2.reg rs1.reg (uimm off 1) 2 2).run s

end Sys2Proof.Machine
end

