-- ==== Sys2Proof/Machine/Csr.lean ====
section
/-!
DEFINITION. Machine/Csr.lean: the control and status registers by number, their reads and writes (11_csrs; base registers log 7, log 18), and the CSR instructions
(45_csr R260 to R271).
-/
namespace Sys2Proof.Machine
open Sys2Proof

/-- The CLEN-wide CSRs (11_csrs R61). -/
inductive CapCsr where
  | mtvecc | mscratchc | mepcc | stvecc | sscratchc | sepcc | jvtc | dpcc | dscratch0c | dscratch1c | dddc | mtdc | stdc | ddc | dinfc
  deriving DecidableEq, Repr

/-- The XLEN-wide CSRs (11_csrs R63 to R89, R95; 60_exceptions R370, R400). -/
inductive XCsr where
  | misa | mstatus | mstatush | medeleg | mideleg | mie | mip | mcause | mtval | mcounteren | menvcfg | menvcfgh | mseccfg | mseccfgh
  | machineInfo | sstatus | sie | sip | scounteren | senvcfg | scause | stval | satp | fflags | frm | fcsr
  | counter | dcsr | tselect | tdata1 | tdata2 | tdata3 | tinfo
  deriving DecidableEq, Repr

/-- What a CSR number names: a CLEN address, an XLEN alias, or an XLEN-wide CSR (45_csr R260). -/
inductive CsrRef where
  | wide (c : CapCsr)
  | alias_ (c : CapCsr)
  | plain (x : XCsr)
  deriving DecidableEq, Repr

/-- The CLEN addresses and the prerequisite of each (R61). -/
def wideTable (p : Params) : List (Nat × Bool × CapCsr) :=
  [(0x765, true, .mtvecc), (0x760, true, .mscratchc), (0x761, true, .mepcc), (0x505, p.hasS, .stvecc), (0x540, p.hasS, .sscratchc),
   (0x541, p.hasS, .sepcc), (0x417, p.hasZcmt, .jvtc), (0x7b9, p.hasSdext, .dpcc), (0x7ba, p.hasSdext, .dscratch0c),
   (0x7bb, p.hasSdext, .dscratch1c), (0x7bc, p.hasSdext && p.hasLegacy, .dddc), (0x74c, p.hasLegacy, .mtdc),
   (0x163, p.hasLegacy && p.hasS, .stdc), (0x416, p.hasLegacy, .ddc), (0x7bd, p.hasSdext, .dinfc)]

/-- The XLEN aliases, which exist with Zcheri_legacy (R60, R61). -/
def aliasTable (p : Params) : List (Nat × Bool × CapCsr) :=
  [(0x305, true, .mtvecc), (0x340, true, .mscratchc), (0x341, true, .mepcc), (0x105, p.hasS, .stvecc), (0x140, p.hasS, .sscratchc),
   (0x141, p.hasS, .sepcc), (0x017, p.hasZcmt, .jvtc), (0x7b1, p.hasSdext, .dpcc), (0x7b2, p.hasSdext, .dscratch0c),
   (0x7b3, p.hasSdext, .dscratch1c)]

/-- The XLEN-wide CSRs; the high halves exist where XLEN is 32 (log 7), mcounteren and menvcfg where a mode below M does (log 18). -/
def plainTable (s : State) : List (Nat × Bool × XCsr) :=
  let p := s.cfg
  let m32 := !s.x64Of .machine
  [(0x301, true, .misa), (0x300, true, .mstatus), (0x310, m32, .mstatush), (0x302, p.hasS, .medeleg), (0x303, p.hasS, .mideleg),
   (0x304, true, .mie), (0x344, true, .mip), (0x342, true, .mcause), (0x343, true, .mtval), (0x306, p.belowM, .mcounteren),
   (0x30a, p.belowM, .menvcfg), (0x31a, p.belowM && m32, .menvcfgh), (0x747, p.hasLegacy, .mseccfg), (0x757, p.hasLegacy && m32, .mseccfgh),
   (0xf11, true, .machineInfo), (0xf12, true, .machineInfo), (0xf13, true, .machineInfo), (0xf14, true, .machineInfo),
   (0xf15, true, .machineInfo),
   (0x100, p.hasS, .sstatus), (0x104, p.hasS, .sie), (0x144, p.hasS, .sip), (0x106, p.hasS, .scounteren), (0x10a, p.hasS, .senvcfg),
   (0x142, p.hasS, .scause), (0x143, p.hasS, .stval), (0x180, p.hasS, .satp),
   (0x001, p.hasF, .fflags), (0x002, p.hasF, .frm), (0x003, p.hasF, .fcsr),
   (0xc00, p.hasZicntr, .counter), (0xc01, p.hasZicntr, .counter), (0xc02, p.hasZicntr, .counter),
   (0xc80, p.hasZicntr && !s.cur64, .counter), (0xc81, p.hasZicntr && !s.cur64, .counter), (0xc82, p.hasZicntr && !s.cur64, .counter),
   (0xb00, p.hasZicntr, .counter), (0xb02, p.hasZicntr, .counter), (0xb80, p.hasZicntr && m32, .counter),
   (0xb82, p.hasZicntr && m32, .counter), (0x7b0, p.hasSdext, .dcsr),
   (0x7a0, p.hasTriggers, .tselect), (0x7a1, p.hasTriggers, .tdata1), (0x7a2, p.hasTriggers, .tdata2), (0x7a3, p.hasTriggers, .tdata3),
   (0x7a4, p.hasTriggers, .tinfo)]

/-- The entry of a number, if its prerequisite holds. -/
def findCsr {α : Type} (n : Nat) : List (Nat × Bool × α) → Option α
  | [] => none
  | (k, b, x) :: r => if k = n then (if b then some x else none) else findCsr n r

/-- The CSR a number names in this configuration (R60, R61, 45_csr R262 step 1). -/
def State.csrRef (s : State) (n : BitVec 12) : Option CsrRef :=
  match findCsr n.toNat (wideTable s.cfg) with
  | some c => some (.wide c)
  | none =>
    match (if s.cfg.hasLegacy then findCsr n.toNat (aliasTable s.cfg) else none) with
    | some c => some (.alias_ c)
    | none => (findCsr n.toNat (plainTable s)).map .plain

/-! ## Capability CSRs: reads (11_csrs R94) -/

/-- readCap(csr). -/
def State.readCapCsr (s : State) (c : CapCsr) : Cap :=
  match c with
  | .mtvecc => s.csr.mtvecc
  | .mscratchc => s.csr.mscratchc
  | .mepcc => s.readEpcc s.csr.mepcc
  | .stvecc => s.csr.stvecc
  | .sscratchc => s.csr.sscratchc
  | .sepcc => s.readEpcc s.csr.sepcc
  | .jvtc => s.csr.jvtc
  | .dpcc => s.readDpcc
  | .dscratch0c => s.csr.dscratch0c
  | .dscratch1c => s.csr.dscratch1c
  | .dddc => s.csr.dddc
  | .mtdc => s.csr.mtdc
  | .stdc => s.csr.stdc
  | .ddc => s.ddc
  | .dinfc => s.dinfc

/-! ## Capability CSRs: writes (11_csrs R67, R69, R92) -/

/-- The stored value of a capability CSR, before a write. -/
def State.rawCapCsr (s : State) (c : CapCsr) : Cap :=
  match c with
  | .mepcc => s.csr.mepcc
  | .sepcc => s.csr.sepcc
  | .dpcc => s.csr.dpcc
  | _ => s.readCapCsr c

/-- Store a capability; dinfc ignores writes (R81). -/
def State.putCapCsr (s : State) (c : CapCsr) (k : Cap) : State :=
  match c with
  | .mtvecc => { s with csr := { s.csr with mtvecc := k } }
  | .mscratchc => { s with csr := { s.csr with mscratchc := k } }
  | .mepcc => { s with csr := { s.csr with mepcc := k } }
  | .stvecc => { s with csr := { s.csr with stvecc := k } }
  | .sscratchc => { s with csr := { s.csr with sscratchc := k } }
  | .sepcc => { s with csr := { s.csr with sepcc := k } }
  | .jvtc => { s with csr := { s.csr with jvtc := k } }
  | .dpcc => { s with csr := { s.csr with dpcc := k } }
  | .dscratch0c => { s with csr := { s.csr with dscratch0c := k } }
  | .dscratch1c => { s with csr := { s.csr with dscratch1c := k } }
  | .dddc => { s with csr := { s.csr with dddc := k } }
  | .mtdc => { s with csr := { s.csr with mtdc := k } }
  | .stdc => { s with csr := { s.csr with stdc := k } }
  | .ddc => { s with ddc := k }
  | .dinfc => s

/-- The scratch registers store reserved bits too (R91). -/
def CapCsr.keepsReserved : CapCsr → Bool
  | .mscratchc | .sscratchc | .dscratch0c | .dscratch1c => true
  | _ => false
def CapCsr.isTvec : CapCsr → Bool
  | .mtvecc | .stvecc => true
  | _ => false
def CapCsr.isEpc : CapCsr → Bool
  | .mepcc | .sepcc => true
  | _ => false

/-- WARL legalisation of MODE: 2 and 3 are reserved, such a write keeps the old MODE (R66; log 18). -/
def legalTvec (old new : Word) : Word := if new.getLsbD 1 then putMask new 3 old else new

/-- The vector range check (R67; 92 D8). -/
def vecRangeOk (p : Params) (k : Cap) : Bool :=
  if k.addr.extractLsb' 0 2 = 1#2 then
    k.representable p (k.addr &&& ~~~3#64) &&
      k.representable p (truncX p ((k.addr &&& ~~~3#64) + BitVec.ofNat 64 (4 * p.hicause)))
  else true

/-- What a write of capability `a` whose address is to become `v` stores in a trap vector (R67). -/
def tvecValue (p : Params) (a : Cap) (v : Word) : Cap := (a.setAddr p v).keepTag (vecRangeOk p (a.setAddr p v))

/-- The register among those that need not store every address bit, if it is one (R91). -/
def CapCsr.addrReg : CapCsr → Option AddrReg
  | .mtvecc => some .mtvecc
  | .mepcc => some .mepcc
  | .stvecc => some .stvecc
  | .sepcc => some .sepcc
  | .jvtc => some .jvtc
  | .dpcc => some .dpcc
  | .ddc => some .ddc
  | .dddc => some .dddc
  | .mscratchc | .sscratchc | .dscratch0c | .dscratch1c | .mtdc | .stdc | .dinfc => none

/-- The address the register holds when `a` is written: MODE legalised in a trap vector (R66), bit 0 clear in mepcc and sepcc (R69), jvtc's mode bits 5:0 as the
one mode that is defined, 0 (R78; log 20), then converted where the
register cannot hold it (R93). -/
def State.legalAddr (s : State) (c : CapCsr) (a : Word) : Word :=
  let b := if c.isTvec then legalTvec (s.rawCapCsr c).addr a else if c.isEpc then putBit a 0 false
    else if c = .jvtc then a &&& ~~~63#64 else a
  match c.addrReg with
  | some r => Params.heldAddr s.cfg r b
  | none => b

/-- The value a CLEN write stores (R92, column "CLEN write"): the capability itself, or, in a trap vector always and elsewhere where its address changes, the
capability with the address set. -/
def State.clenValue (s : State) (c : CapCsr) (a : Cap) : Cap :=
  let k := if c.keepsReserved then a else a.dropReserved s.cfg
  let b := s.legalAddr c k.addr
  if c.isTvec then tvecValue s.cfg k b else if b = k.addr then k else k.setAddr s.cfg b

/-- The value an XLEN write stores (R92, column "XLEN write"): SCADDR on the old value. Where XLEN is less than XLENMAX the address is the value sign-extended,
also after a set or a clear (R261 does not say: log 40). -/
def State.xlenValue (s : State) (c : CapCsr) (v : Word) : Cap :=
  let b := s.legalAddr c (s.toX v)
  if c.isTvec then tvecValue s.cfg (s.rawCapCsr c) b else (s.rawCapCsr c).setAddr s.cfg b

/-! ## XLEN-wide CSRs (log 7, log 18) -/

def supMask (p : Params) : Word := if p.hasS then 0x222 else 0

/-- The bits of mstatus that exist, SD aside. -/
def mstatusMask : Word := 0x3F007E79EA

/-- mstatus as read, in the width of a privilege mode's XLEN, whatever the XLEN of the reader: so mstatus in debug mode while MXL is 1, and sstatus in M-mode while SXL
is 1, show 32 bits, as a write reaches them (R64 does not say: log 43). SD summarises FS (log 7). -/
def State.mstatusVal (s : State) (q : Priv) : Word :=
  let v := s.cutOf q (s.csr.mstatus &&& mstatusMask)
  if bitsOf s.csr.mstatus 13 2 = 3 then putBit v (if s.x64Of q then 63 else 31) true else v

/-- The bits of mstatus software may write, apart from MPP, UXL and SXL: SIE, SPIE, SPP, SUM, MXR, TVM and TSR where there is S-mode, SUM also
without paging; MPRV and TW where there is a mode below M; FS where there is F. R64 does not say whether FS is writable without F: it is read-only zero then, with
S-mode present too (DESIGN CHOICE, log 18). -/
def mstatusWritable (p : Params) : Word :=
  0x88 ||| (if p.hasS then 0x5C0122 else 0) ||| (if p.hasF then 0x6000 else 0) ||| (if p.belowM then 0x220000 else 0) |||
    (if p.hasLegacy && p.beWritable then
      0x2000000000 ||| (if p.hasS then 0x1000000000 else 0) ||| (if p.hasU then 0x40 else 0) else 0)

/-- XLEN settings: 1 and 2 are legal, none above the next-higher mode's; an illegal one keeps the old value, cut to the bound
(11_csrs R63 to R65). -/
def legalXl (bound old new : Nat) : Nat := if new = 1 ∨ new = 2 then (if new ≤ bound then new else min old bound) else min old bound

/-- SXL and UXL after a write of mstatus that leaves `new`, or after a change of MXL. R65 does not say what they become when MXL is raised from 1 to 2: both
become 2, the widest setting, also where they are read-only (log 43). -/
def State.xlFields (s : State) (mxl : Nat) (new : Word) : Word :=
  let old := s.csr.mstatus
  if s.cfg.xlenmax64 && s.cfg.hasLegacy && s.csr.mxl == 1 && mxl == 2 then 0xA00000000
  else if s.cfg.xlenmax64 && s.cfg.hasLegacy then
    let sx := legalXl mxl (bitsOf old 34 2) (if s.cfg.xlWritable then bitsOf new 34 2 else bitsOf old 34 2)
    let ux := legalXl sx (bitsOf old 32 2) (if s.cfg.xlWritable then bitsOf new 32 2 else bitsOf old 32 2)
    BitVec.ofNat 64 (sx * 2 ^ 34 + ux * 2 ^ 32)
  else old

/-- A privilege number that can stand in MPP or dcsr.prv. -/
def privExists (p : Params) (n : Nat) : Bool := n == 3 || (n == 1 && p.hasS) || (n == 0 && p.hasU)

/-- mstatus after software writes `new` (as the 64-bit layout), for the bits of `mask` (log 18). -/
def State.mstatusWrite (s : State) (mask new : Word) : Word :=
  let old := s.csr.mstatus
  let a := putMask old (mstatusWritable s.cfg &&& mask) new
  let b := if privExists s.cfg (bitsOf new 11 2) then putMask a (0x1800 &&& mask) new else a
  putMask b 0xF00000000 (s.xlFields s.csr.mxl.toNat (putMask old mask new))

/-- The bits of mstatus that sstatus shows. -/
def sstatusMask : Word := 0x3000C6162

/-- misa as read: MXL, in the two most significant of MXLEN bits, and the implemented extensions (11_csrs R63). In debug mode too it has MXLEN bits, not the XLENMAX
bits that debug mode computes with (R63 does not say: log 43). Bit 1, B, reads 0 also where Zba, Zbb and Zbs are all there, since neither R63 nor
70_reset_and_hazards R414 names such a bit (log 41). -/
def State.misaVal (s : State) : Word :=
  let p := s.cfg
  let ext := p.hasA.toNat + p.hasM.toNat * 4096 + s.csr.misaC.toNat * 4 + p.hasD.toNat * 8 + p.hasE.toNat * 16 + p.hasF.toNat * 32 + (!p.hasE).toNat * 256
    + p.hasS.toNat * 2 ^ 18 + p.hasU.toNat * 2 ^ 20
  BitVec.ofNat 64 (s.csr.mxl.toNat * 2 ^ (if s.x64Of .machine then 62 else 30) + ext)

/-- A write of misa: MXL and C where writable; clearing C is suppressed if the next instruction would be misaligned, but not in debug mode, whose pcc says nothing about
the next instruction (60_exceptions R396; log 21). -/
def State.misaWrite (s : State) (v : Word) : State :=
  let c := if s.cfg.hasC && s.cfg.misaCWritable then (v.getLsbD 2 || (s.csr.misaC && !s.debug && s.pc.getLsbD 1)) else s.csr.misaC
  let mx := if s.cfg.mxlWritable && s.cfg.hasLegacy && s.cfg.xlenmax64 then
      legalXl 2 s.csr.mxl.toNat (bitsOf v (if s.x64Of .machine then 62 else 30) 2) else s.csr.mxl.toNat
  { s with csr := { s.csr with
      misaC := c
      mxl := BitVec.ofNat 2 mx
      mstatus := putMask s.csr.mstatus 0xF00000000 (s.xlFields mx s.csr.mstatus) } }

/-- The writable bits of menvcfg and senvcfg, CBIE aside (11_csrs R87, R89). PBMTE and STCE, which R87 names without their meaning, are read-only zero (log 43). -/
def envcfgMask (p : Params) : Word :=
  1 ||| (if p.hasZicbom then 0x40 else 0) ||| (if p.hasZicboz then 0x80 else 0) ||| (if p.hasLegacy then 0x30000000 else 0)
/-- CBIE = 10 is reserved: such a write keeps the old value (49 R336; log 18). -/
def envcfgWrite (p : Params) (mask old new : Word) : Word :=
  let a := putMask old mask new
  if p.hasZicbom ∧ bitsOf new 4 2 ≠ 2 then putMask a 0x30 new else a

def State.menvcfgVal (s : State) : Word := putBit s.csr.menvcfg 61 s.cde
def State.menvcfgWrite (s : State) (v : Word) : Word :=
  envcfgWrite s.cfg (envcfgMask s.cfg ||| (if s.cfg.hasPte && s.cfg.hasPteCd && s.cfg.cdeConfigurable then 0x2000000000000000 else 0))
    s.csr.menvcfg v

/-- senvcfg.CRE is read-only zero while menvcfg.CRE is 0; when menvcfg.CRE is set again the bit that stood there before shows again (R89 does not say: log 43). -/
def State.senvcfgVal (s : State) : Word :=
  if s.csr.menvcfg.getLsbD 29 then s.csr.senvcfg else putBit s.csr.senvcfg 29 false
def State.senvcfgWrite (s : State) (v : Word) : Word :=
  envcfgWrite s.cfg (if s.csr.menvcfg.getLsbD 29 then envcfgMask s.cfg else envcfgMask s.cfg &&& ~~~0x20000000#64) s.csr.senvcfg v

/-- A write of satp with a MODE the implementation lacks changes nothing (log 18). -/
def State.satpWrite (s : State) (v : Word) : Word :=
  if s.x64Of .supervisor then
    let m := bitsOf v 60 4
    if m = 0 ∨ (m = 8 ∧ s.cfg.hasSv39) ∨ (m = 9 ∧ s.cfg.hasSv48) ∨ (m = 10 ∧ s.cfg.hasSv57) then v else s.csr.satp
  else if v.getLsbD 31 && !s.cfg.hasSv32 then s.csr.satp else zext32 v

/-- The bits of dcsr software may write, prv aside (log 7). -/
def dcsrMask (p : Params) : BitVec 32 := 0x8804#32 ||| (if p.hasS then 0x2000#32 else 0) ||| (if p.hasU then 0x1000#32 else 0)
def State.dcsrWrite (s : State) (v : Word) : BitVec 32 :=
  let n := v.setWidth 32
  let a := (s.csr.dcsr &&& ~~~dcsrMask s.cfg) ||| (n &&& dcsrMask s.cfg)
  if privExists s.cfg (v.toNat % 4) then (a &&& ~~~3#32) ||| (n &&& 3#32) else a

/-! ### Triggers (11_csrs R95, 60_exceptions R398; the layouts are the debug specification's: log 37) -/

/-- The trigger tselect names, if there is one. -/
def State.trigger (s : State) : Option Trigger := s.triggers[s.csr.tselect.toNat]?
/-- Change it; outside debug mode, one that dmode reserves to debug mode stays. -/
def State.setTrigger (s : State) (f : Trigger → Trigger) : State :=
  match s.trigger with
  | some t => if t.dmode && !s.debug then s else { s with triggers := s.triggers.set s.csr.tselect.toNat (f t) }
  | none => s

/-- tdata1 of a trigger, in 64 or 32 bits: type and dmode above, action at 15:12, then m, s, u, execute, store, load; match, size, select, chain, timing and hit are 0. -/
def Trigger.tdata1 (t : Trigger) (x64 : Bool) : Word :=
  BitVec.ofNat 64 ((if t.enabled then 6 else 15) * 2 ^ (if x64 then 60 else 28) + t.dmode.toNat * 2 ^ (if x64 then 59 else 27) + t.toDebug.toNat * 2 ^ 12 +
    t.m.toNat * 64 + t.s.toNat * 16 + t.u.toNat * 8 + t.execute.toNat * 4 + t.store.toNat * 2 + t.load.toNat)
/-- A trigger after a write of tdata1. Every type but 6 disables it; dmode changes in debug mode alone; action 1 needs dmode; s and u stay 0 for a mode that does not
exist. -/
def State.tdata1Write (s : State) (v : Word) (t : Trigger) : Trigger :=
  let d := if s.debug then v.getLsbD (if s.cur64 then 59 else 27) else t.dmode
  if bitsOf v (if s.cur64 then 60 else 28) 4 = 6 then
    { addr := t.addr, enabled := true, dmode := d, toDebug := d && bitsOf v 12 4 == 1, m := v.getLsbD 6, s := s.cfg.hasS && v.getLsbD 4,
      u := s.cfg.hasU && v.getLsbD 3, execute := v.getLsbD 2, store := v.getLsbD 1, load := v.getLsbD 0 }
  else { addr := t.addr, dmode := d }

/-- An XLEN-wide CSR as read; a counter is the next free value (60_exceptions R400; log 8). R70, R72, R76 and R77 do not say what the bits above 31 of mcause, mtval,
scause and stval become when MXL or SXL falls to 1 and rises again: all 64 stay stored, a read is cut to the width of now, and the upper ones show again (DESIGN CHOICE,
log 43); so it is with mideleg, mie and satp. -/
def State.readX (s : State) (x : XCsr) : Word :=
  match x with
  | .misa => s.misaVal
  | .mstatus => s.mstatusVal .machine
  | .mstatush => (s.csr.mstatus >>> 32) &&& 0x30
  | .medeleg => s.csr.medeleg
  | .mideleg => s.csr.mideleg
  | .mie => s.csr.mie
  | .mip => s.mipVal
  | .mcause => s.cutOf .machine s.csr.mcause
  | .mtval => s.cutOf .machine s.csr.mtval
  | .mcounteren => s.csr.mcounteren.setWidth 64
  | .menvcfg => s.menvcfgVal
  | .menvcfgh => s.menvcfgVal >>> 32
  | .mseccfg => s.csr.mseccfg
  | .mseccfgh => s.csr.mseccfg >>> 32
  | .machineInfo => 0
  | .sstatus => s.mstatusVal .supervisor &&& (sstatusMask ||| putBit 0 (if s.x64Of .supervisor then 63 else 31) true)
  | .sie => s.csr.mie &&& s.csr.mideleg
  | .sip => s.mipVal &&& s.csr.mideleg
  | .scounteren => s.csr.scounteren.setWidth 64
  | .senvcfg => s.senvcfgVal
  | .scause => s.cutOf .supervisor s.csr.scause
  | .stval => s.cutOf .supervisor s.csr.stval
  | .satp => s.cutOf .supervisor s.csr.satp
  | .fflags => BitVec.ofNat 64 (s.csr.fcsr.toNat % 32)
  | .frm => BitVec.ofNat 64 (s.csr.fcsr.toNat / 32)
  | .fcsr => s.csr.fcsr.setWidth 64
  | .counter => Config.freeCounter s.freeCtr
  | .dcsr => s.csr.dcsr.setWidth 64
  | .tselect => s.csr.tselect
  | .tdata1 => (s.trigger.map (·.tdata1 s.cur64)).getD 0
  | .tdata2 => (s.trigger.map (·.addr)).getD 0
  | .tdata3 => 0
  | .tinfo => if s.trigger.isSome then 0x8040 else 1

/-- The value a set or clear starts from: of mip only the software bit of SEIP (60_exceptions R370; log 18). -/
def State.rmwX (s : State) (x : XCsr) : Word :=
  match x with
  | .mip => putBit s.mipVal 9 (s.csr.mip.getLsbD 9)
  | _ => s.readX x

/-- The low half written, the high half kept, where XLEN is 32. The XLEN is that of the hart now: in debug mode while MXL is 1, where menvcfgh and mseccfgh exist, menvcfg
still has 64 bits (R87 does not say: DESIGN CHOICE, log 43). -/
def State.lowHalf (s : State) (old v : Word) : Word := if s.cur64 then v else putMask old 0xFFFFFFFF v

/-- A write of fcsr's bits, which makes mstatus.FS Dirty (log 26). -/
def State.putFcsr (s : State) (f : BitVec 8) : State :=
  { s with csr := { s.csr with fcsr := f, mstatus := s.csr.mstatus ||| (3#64 <<< 13) } }

/-- A write of an XLEN-wide CSR (log 18). What a write with XLEN 32 does above bit 31: mideleg and mie become 0 there, sie leaves mie as it was (log 43). Two more points
the rules leave open: mseccfg's MML, MMWP, RLB, USEED, SSEED and PMM are read-only zero (R86; log 43), and of
mideleg the M-level interrupts 3, 7 and 11 are read-only zero (60_exceptions R372; log 43). -/
def State.writeX (s : State) (x : XCsr) (v : Word) : State :=
  match x with
  | .misa => s.misaWrite v
  | .mstatus => { s with csr := { s.csr with mstatus := s.mstatusWrite (if s.x64Of .machine then BitVec.allOnes 64 else 0xFFFFFFFF) v } }
  | .mstatush => { s with csr := { s.csr with mstatus := s.mstatusWrite 0x3000000000 (v <<< 32) } }
  | .medeleg => { s with csr := { s.csr with medeleg := v &&& 0x1000B3FF } }
  | .mideleg => { s with csr := { s.csr with mideleg := s.cutX v &&& (supMask s.cfg ||| platformMask s.cfg) } }
  | .mie => { s with csr := { s.csr with mie := s.cutX v &&& (0x888 ||| supMask s.cfg ||| platformMask s.cfg) } }
  | .mip => { s with csr := { s.csr with mip := putMask s.csr.mip (supMask s.cfg) v } }
  | .mcause => { s with csr := { s.csr with mcause := s.cutOf .machine v } }
  | .mtval => { s with csr := { s.csr with mtval := s.tvalOf (s.cutOf .machine v) } }
  | .mcounteren => { s with csr := { s.csr with mcounteren := v.setWidth 32 &&& 7#32 } }
  | .menvcfg => { s with csr := { s.csr with menvcfg := s.menvcfgWrite (s.lowHalf s.csr.menvcfg v) } }
  | .menvcfgh => { s with csr := { s.csr with menvcfg := s.menvcfgWrite (putMask s.csr.menvcfg 0xFFFFFFFF00000000 (v <<< 32)) } }
  | .mseccfg => { s with csr := { s.csr with mseccfg := v &&& 8 } }
  | .mseccfgh => s
  | .machineInfo => s
  | .sstatus => { s with csr := { s.csr with mstatus := s.mstatusWrite (sstatusMask &&& (if s.x64Of .supervisor then BitVec.allOnes 64 else 0xFFFFFFFF)) v } }
  | .sie => { s with csr := { s.csr with mie := putMask s.csr.mie (s.cutX (s.csr.mideleg &&& (supMask s.cfg ||| platformMask s.cfg))) v } }
  | .sip => { s with csr := { s.csr with mip := putMask s.csr.mip (s.csr.mideleg &&& supMask s.cfg &&& 2) v } }
  | .scounteren => { s with csr := { s.csr with scounteren := v.setWidth 32 &&& 7#32 } }
  | .senvcfg => { s with csr := { s.csr with senvcfg := s.senvcfgWrite (s.lowHalf s.csr.senvcfg v) } }
  | .scause => { s with csr := { s.csr with scause := s.cutOf .supervisor v } }
  | .stval => { s with csr := { s.csr with stval := s.tvalOf (s.cutOf .supervisor v) } }
  | .satp => { s with csr := { s.csr with satp := s.satpWrite v } }
  | .fflags => s.putFcsr (s.csr.fcsr.extractLsb' 5 3 ++ v.extractLsb' 0 5)
  | .frm => s.putFcsr (v.extractLsb' 0 3 ++ s.csr.fcsr.extractLsb' 0 5)
  | .fcsr => s.putFcsr (v.setWidth 8)
  | .counter => s
  | .dcsr => { s with csr := { s.csr with dcsr := s.dcsrWrite v } }
  | .tselect => if v.toNat < s.triggers.length then { s with csr := { s.csr with tselect := v } } else s
  | .tdata1 => s.setTrigger (s.tdata1Write v)
  | .tdata2 => s.setTrigger fun t => { t with addr := s.cutX v }
  | .tdata3 | .tinfo => s

/-- Reading a counter uses up a free value (log 8). -/
def State.afterRead (s : State) (x : XCsr) : State := if x = .counter then { s with freeCtr := s.freeCtr + 1 } else s

/-! ## The checks (45_csr R262) -/

/-- The privilege number of the current mode; debug mode may do what M-mode may. -/
def State.privNum (s : State) : Nat := if s.debug then 3 else s.priv.num

/-- The counter-enable bits for an unprivileged counter (R262 step 5). -/
def State.counterOk (s : State) (n : BitVec 12) : Bool :=
  let i := n.toNat % 32
  s.debug ||
    match s.priv with
    | .machine => true
    | .supervisor => s.csr.mcounteren.getLsbD i
    | .user => s.csr.mcounteren.getLsbD i && (!s.cfg.hasS || s.csr.scounteren.getLsbD i)

/-- Step 5: TVM with satp, FS with the floating-point CSRs, the counter enables. -/
def State.csrBaseOk (s : State) (n : BitVec 12) (r : CsrRef) : Bool :=
  match r with
  | .plain .satp => s.debug || !(s.priv == .supervisor && s.st 20)
  | .plain .fflags | .plain .frm | .plain .fcsr => !s.fsOff
  | .plain .counter => s.counterOk n
  | _ => true

/-- csrCheck(csr, isWrite) (R262): the register, if every check passes. -/
def State.csrCheck (s : State) (n : BitVec 12) (isWrite : Bool) : Res CsrRef :=
  match s.csrRef n with
  | none => .exc illegal
  | some r =>
    if s.privNum < n.toNat / 256 % 4 then .exc illegal
    else if n.toNat / 16 = 0x7b && !s.debug then .exc illegal
    else if isWrite && n.toNat / 1024 = 3 then .exc illegal
    else if s.cheriRegsDisabled && (match r with | .wide _ => true | _ => false) then .exc illegal
    else if !s.csrBaseOk n r then .exc illegal
    else if n.toNat / 256 % 4 ≠ 0 ∧ s.asrOk = false then .exc (cheri 0 2)
    else .ok r

/-! ## The instructions -/

/-- The operations of CSRRW, CSRRS, CSRRC and their immediate forms. -/
inductive CsrOp where
  | write
  | set
  | clear
  deriving DecidableEq, Repr

/-- The new value of the register or address (R264). -/
def csrNew (op : CsrOp) (old v : Word) : Word :=
  match op with
  | .write => v
  | .set => old ||| v
  | .clear => old &&& ~~~v

/-- An XLEN-wide write of a register, whatever its kind (R261, R264). -/
def State.csrPutX (s : State) (r : CsrRef) (op : CsrOp) (v : Word) : State :=
  match r with
  | .wide c | .alias_ c => s.putCapCsr c (s.xlenValue c (csrNew op (s.readCapCsr c).addr v))
  | .plain x => s.writeX x (csrNew op (s.rmwX x) v)

/-- The read into rd (R261, R270): the whole capability at a CLEN address, else an integer. -/
def State.csrGet (s : State) (r : CsrRef) (rd : Reg) : State :=
  match r with
  | .wide c => s.wc rd (s.readCapCsr c)
  | .alias_ c => s.wx rd (s.readCapCsr c).addr
  | .plain x => (s.wx rd (s.readX x)).afterRead x

/-- The write of CSRRW (R263): all CLEN+1 bits of c[rs1] at a CLEN address, else x[rs1]. The operands are those of the state before. -/
def State.csrPutW (s : State) (r : CsrRef) (k : Cap) (v : Word) : State :=
  match r with
  | .wide c => s.putCapCsr c (s.clenValue c k)
  | _ => s.csrPutX r .write v

/-- pcc moves on past the instruction as it was fetched: also where the write changes XLEN (10_state R43; log 40). -/
def State.movedOn (t s : State) : State := t.setPcc (s.advance 4).pcc

/-- CSRRW (R263). -/
def State.csrSwap (s : State) (rd rs1 : Reg) (n : BitVec 12) : Res State :=
  (s.csrCheck n true).bind fun r =>
  .ok (((if rd = 0 then s else s.csrGet r rd).csrPutW r (s.rc rs1) (s.rx rs1)).movedOn s)

/-- `csrSetClear(op, operand, doWrite)` (R264); CSRRWI does not read when rd is 0 (R267). -/
def State.csrModify (s : State) (op : CsrOp) (rd : Reg) (v : Word) (n : BitVec 12) (doRead doWrite : Bool) : Res State :=
  (s.csrCheck n doWrite).bind fun r =>
  let t := if doRead then s.csrGet r rd else s
  .ok ((if doWrite then t.csrPutX r op v else t).movedOn s)

/-- CSRRW (R263). -/
def execCsrrw (rd rs1 : Reg) (csr : BitVec 12) (s : State) : Out := (s.csrSwap rd rs1 csr).run s
/-- CSRRS (R265). -/
def execCsrrs (rd rs1 : Reg) (csr : BitVec 12) (s : State) : Out := (s.csrModify .set rd (s.rx rs1) csr true (rs1 != 0)).run s
/-- CSRRC (R266). -/
def execCsrrc (rd rs1 : Reg) (csr : BitVec 12) (s : State) : Out := (s.csrModify .clear rd (s.rx rs1) csr true (rs1 != 0)).run s
/-- CSRRWI (R267). -/
def execCsrrwi (rd u : BitVec 5) (csr : BitVec 12) (s : State) : Out := (s.csrModify .write rd (uimm u 0) csr (rd != 0) true).run s
/-- CSRRSI (R268). -/
def execCsrrsi (rd u : BitVec 5) (csr : BitVec 12) (s : State) : Out := (s.csrModify .set rd (uimm u 0) csr true (u != 0)).run s
/-- CSRRCI (R269). -/
def execCsrrci (rd u : BitVec 5) (csr : BitVec 12) (s : State) : Out := (s.csrModify .clear rd (uimm u 0) csr true (u != 0)).run s

end Sys2Proof.Machine
end

