-- ==== Sys2Proof/Machine/FpLoadStore.lean ====
section
/-!
DEFINITION. Machine/FpLoadStore.lean: floating-point loads and stores (46_fp_loadstore R275 to R282).
-/
namespace Sys2Proof.Machine
open Sys2Proof

/-- FLH (R276). -/
def execFlh (frd rs1 : Reg) (imm : BitVec 12) (s : State) : Out := (s.fpLoad frd rs1 (simm imm 0) 2 4).run s
/-- FLW (R277). -/
def execFlw (frd rs1 : Reg) (imm : BitVec 12) (s : State) : Out := (s.fpLoad frd rs1 (simm imm 0) 4 4).run s
/-- FLD (R278). -/
def execFld (frd rs1 : Reg) (imm : BitVec 12) (s : State) : Out := (s.fpLoad frd rs1 (simm imm 0) 8 4).run s
/-- FSH (R280). -/
def execFsh (fs2 rs1 : Reg) (imm : BitVec 12) (s : State) : Out := (s.fpStore fs2 rs1 (simm imm 0) 2 4).run s
/-- FSW (R281). -/
def execFsw (fs2 rs1 : Reg) (imm : BitVec 12) (s : State) : Out := (s.fpStore fs2 rs1 (simm imm 0) 4 4).run s
/-- FSD (R282). -/
def execFsd (fs2 rs1 : Reg) (imm : BitVec 12) (s : State) : Out := (s.fpStore fs2 rs1 (simm imm 0) 8 4).run s

end Sys2Proof.Machine
end

