-- ==== Sys2Proof/Machine/System.lean ====
section
/-!
DEFINITION. Machine/System.lean: trap and debug return, environment call and break, fences, WFI and SFENCE.VMA (43_base_integer R228 to R230, R232;
60_exceptions R403).
-/
namespace Sys2Proof.Machine
open Sys2Proof

/-- At least the privilege mode `q`; debug mode is above every mode (30_encoding R138). -/
def State.atLeast (s : State) (q : Priv) : Bool := s.debug || decide (q.num ≤ s.priv.num)

/-- MRET (R228). -/
def State.mret (s : State) : Res State :=
  (Res.check (s.atLeast .machine) illegal).bind fun _ => (Res.check s.asrOk (cheri 0 2)).bind fun _ => .ok s.returnM

/-- SRET (R229): illegal in S-mode with mstatus.TSR. -/
def State.sret (s : State) : Res State :=
  (Res.check (s.atLeast .supervisor && (s.debug || !(s.priv == .supervisor && s.st 22))) illegal).bind fun _ =>
  (Res.check s.asrOk (cheri 0 2)).bind fun _ => .ok s.returnS

/-- DRET (R230): only in debug mode; it needs no ASR-permission. -/
def State.dret (s : State) : Res State := (Res.check s.debug illegal).bind fun _ => .ok s.leaveDebug

/-- The environment call of the current mode (60_exceptions R361). -/
def State.ecallCode (s : State) : Nat :=
  if s.debug then 11
  else match s.priv with
    | .user => 8
    | .supervisor => 9
    | .machine => 11

/-- dcsr.ebreakm, ebreaks, ebreaku: EBREAK enters debug mode (60_exceptions R395; log 23). -/
def State.ebreakToDebug (s : State) : Bool :=
  s.cfg.hasSdext &&
    match s.priv with
    | .machine => s.csr.dcsr.getLsbD 15
    | .supervisor => s.csr.dcsr.getLsbD 13
    | .user => s.csr.dcsr.getLsbD 12

/-- EBREAK and C.EBREAK: a breakpoint exception, debug entry, or in debug mode the end of the program buffer (R232; log 23). -/
def State.ebreak (s : State) : Res State :=
  if s.debug then .ok { s with progBuf := [] }
  else if s.ebreakToDebug then .ok (s.enterDebug 1)
  else .exc ⟨3, s.fetchAddr⟩

/-- WFI: a no-op; illegal with mstatus.TW in S-mode, and in U-mode where S-mode exists (60_exceptions R403; log 30). -/
def State.wfi (s : State) : Res State :=
  (Res.check (s.atLeast .machine || !s.st 21 || !s.cfg.hasS) illegal).bind fun _ => .ok (s.advance 4)

/-- What SFENCE.VMA leaves cached (20_memory R112; log 31): with rs1 other than register 0 the pages its address does not lie in, with rs2 other than register 0 the
global translations and those of other address spaces. -/
def State.survives (s : State) (rs1 rs2 : Reg) (c : CachedLeaf) : Bool :=
  (rs1 != 0 && !(c.mode.valid (s.cutX (s.rx rs1)) && c.covers (s.cutX (s.rx rs1)))) ||
    (rs2 != 0 && (c.leaf.global || c.asid != bitsOf (s.rx rs2) 0 s.asidBits))

/-- The cached translations it names dropped. -/
def State.flush (s : State) (rs1 rs2 : Reg) : State := { s with tlb := s.tlb.filter (s.survives rs1 rs2) }

/-- SFENCE.VMA: drops cached translations; illegal in U-mode, and in S-mode with mstatus.TVM (R232; log 31). -/
def State.sfence (s : State) (rs1 rs2 : Reg) : Res State :=
  (Res.check (s.atLeast .supervisor && (s.debug || !(s.priv == .supervisor && s.st 20))) illegal).bind fun _ =>
  .ok ((s.flush rs1 rs2).advance 4)

/-- MRET (R228). -/
def execMret (s : State) : Out := s.mret.run s
/-- SRET (R229). -/
def execSret (s : State) : Out := s.sret.run s
/-- DRET (R230). -/
def execDret (s : State) : Out := s.dret.run s
/-- FENCE (20_memory R122): no effect with one hart and sequentially consistent memory. -/
def execFence (_rd _rs1 : Reg) (_imm : BitVec 12) (s : State) : Out := Res.run s (.ok (s.advance 4))
/-- FENCE.I (20_memory R124): fetch is coherent with stores. -/
def execFenceI (_rd _rs1 : Reg) (_imm : BitVec 12) (s : State) : Out := Res.run s (.ok (s.advance 4))
/-- ECALL (R232): code 8, 9 or 11, xtval 0. -/
def execEcall (s : State) : Out := Res.run s (.exc ⟨s.ecallCode, 0⟩)
/-- EBREAK (R232). -/
def execEbreak (_f : Form) (s : State) : Out := s.ebreak.run s
/-- WFI (60_exceptions R403). -/
def execWfi (s : State) : Out := s.wfi.run s
/-- SFENCE.VMA (R232). -/
def execSfenceVma (rs1 rs2 : Reg) (s : State) : Out := (s.sfence rs1 rs2).run s

end Sys2Proof.Machine
end

