-- ==== Sys2Proof/Machine/Zba.lean ====
section
/-!
DEFINITION. Machine/Zba.lean: the shift-and-add address instructions (49_cbo_prefetch_zba R345 to R353).
-/
namespace Sys2Proof.Machine
open Sys2Proof

/-- `shadd(n, uw)` (R345): the index in rs1, the pointer in rs2. -/
def State.shadd (s : State) (n : Nat) (uw : Bool) (rd rs1 rs2 : Reg) : Res State :=
  let idx := (if uw then zext32 (s.rx rs1) else s.rx rs1) <<< n
  .ok ((if s.capMode then s.wc rd ((s.rc rs2).incAddr s.cfg idx) else s.wx rd (s.rx rs2 + idx)).advance 4)

/-- SH1ADD (R346). -/
def execSh1add (rd rs1 rs2 : Reg) (s : State) : Out := (s.shadd 1 false rd rs1 rs2).run s
/-- SH2ADD (R347). -/
def execSh2add (rd rs1 rs2 : Reg) (s : State) : Out := (s.shadd 2 false rd rs1 rs2).run s
/-- SH3ADD (R348). -/
def execSh3add (rd rs1 rs2 : Reg) (s : State) : Out := (s.shadd 3 false rd rs1 rs2).run s
/-- SH1ADD.UW (R349). -/
def execSh1addUw (rd rs1 rs2 : Reg) (s : State) : Out := (s.shadd 1 true rd rs1 rs2).run s
/-- SH2ADD.UW (R350). -/
def execSh2addUw (rd rs1 rs2 : Reg) (s : State) : Out := (s.shadd 2 true rd rs1 rs2).run s
/-- SH3ADD.UW (R351). -/
def execSh3addUw (rd rs1 rs2 : Reg) (s : State) : Out := (s.shadd 3 true rd rs1 rs2).run s
/-- SH4ADD (R352). -/
def execSh4add (rd rs1 rs2 : Reg) (s : State) : Out := (s.shadd 4 false rd rs1 rs2).run s
/-- SH4ADD.UW (R353). -/
def execSh4addUw (rd rs1 rs2 : Reg) (s : State) : Out := (s.shadd 4 true rd rs1 rs2).run s

end Sys2Proof.Machine
end

