-- ==== Sys2Proof/Machine/Zcmp.lean ====
section
/-!
DEFINITION. Machine/Zcmp.lean: the push, pop and double-move instructions of Zcmp and the table jumps of Zcmt (48_zcmp_zcmt R322 to R333).
-/
namespace Sys2Proof.Machine
open Sys2Proof

/-- The outcome of a sequence of accesses: an exception, and debug-mode entry by a trigger, keep what the earlier accesses did (R323, 60_exceptions R375). -/
inductive Seq where
  | done (s : State)
  | trap (s : State) (e : Exc)
  | halt (s : State)

/-- The outcome of the instruction. -/
def Seq.run (r : Seq) : Out :=
  match r with
  | .done s => .next s
  | .trap s e => .next (takeException s e)
  | .halt s => .next (s.enterDebug 2)

/-- Go on after a finished sequence with a part that may raise. -/
def Seq.andThen (r : Seq) (f : State → Res State) : Seq :=
  match r with
  | .done s =>
    match f s with
    | .ok t => .done t
    | .exc e => .trap s e
    | .halt => .halt s
  | .trap s e => .trap s e
  | .halt s => .halt s

/-- Table 30: the register a saved-register specifier names (R322). -/
def sreg (r : CReg) : Reg := if r.toNat < 2 then 1#2 ++ r else 2#2 ++ r

/-- The number of registers of a list, and the list by descending number (R323). -/
def rlistCount (l : BitVec 4) : Nat := if l = 15 then 13 else l.toNat - 3
def rlistAll : List Reg := [1, 8, 9, 18, 19, 20, 21, 22, 23, 24, 25, 26, 27]
def rlistDown (l : BitVec 4) : List Reg := (rlistAll.take (rlistCount l)).reverse

/-- The slot of a register: CLEN/8 in Capability mode, XLEN/8 in Legacy mode (R323; 92 D30). -/
def State.slot (s : State) : Nat := if s.capMode then s.cfg.capBytes else if s.cur64 then 8 else 4
/-- stack_adj (R323). -/
def State.stackAdj (s : State) (l : BitVec 4) (spimm : BitVec 2) : Nat :=
  (rlistCount l * s.slot + 15) / 16 * 16 + 16 * spimm.toNat

/-- One access of a push, at an address below the stack pointer by `down` (R324). -/
def State.pushOne (s : State) (r : Reg) (off : Word) : Res State :=
  if s.capMode then
    (s.capWritePath (s.authEa spReg off).1 (s.authEa spReg off).2 (s.rc r) .store).bind fun w => .ok (s.putCap w)
  else s.storeInt spReg off s.slot (s.rx r)
/-- One access of a pop (R325). -/
def State.popOne (s : State) (r : Reg) (off : Word) : Res State :=
  if s.capMode then (s.capRead (s.authEa spReg off).1 (s.authEa spReg off).2).bind fun (_, k) => .ok (s.wc r k)
  else (s.loadInt spReg off s.slot).bind fun v => .ok (s.wx r (sextBytes s.slot v))

/-- The accesses of a frame, from `off` downward in slots (R323). -/
def pushAll : List Reg → Word → State → Seq
  | [], _, s => .done s
  | r :: rs, off, s =>
    match s.pushOne r (off - BitVec.ofNat 64 s.slot) with
    | .ok t => pushAll rs (off - BitVec.ofNat 64 s.slot) t
    | .exc e => .trap s e
    | .halt => .halt s
def popAll : List Reg → Word → State → Seq
  | [], _, s => .done s
  | r :: rs, off, s =>
    match s.popOne r (off - BitVec.ofNat 64 s.slot) with
    | .ok t => popAll rs (off - BitVec.ofNat 64 s.slot) t
    | .exc e => .trap s e
    | .halt => .halt s

/-- The loads of a pop, from the top of the frame (R325). -/
def State.popFrame (s : State) (l : BitVec 4) (spimm : BitVec 2) : Seq :=
  popAll (rlistDown l) (BitVec.ofNat 64 (s.stackAdj l spimm)) s

/-- The jump of CM.POPRET, checked before the stack pointer is written, and the argument register CM.POPRETZ zeroes (R326, R327). -/
def State.popReturn (s : State) (l : BitVec 4) (spimm : BitVec 2) (zero : Bool) : Res State :=
  let adj := BitVec.ofNat 64 (s.stackAdj l spimm)
  let z := fun (t : State) => if zero then t.wx 10 0 else t
  if s.capMode then
    (s.checkJumpCap (s.rc 1) 0).bind fun _ => .ok (((z s).spAdd spReg adj).setPcc (s.jumpedPcc (s.rc 1) 0))
  else
    (s.checkTarget (s.indirectTarget (s.rx 1) 0)).bind fun _ => .ok (((z s).spAdd spReg adj).jumpTo (s.indirectTarget (s.rx 1) 0))

/-- CM.PUSH (R324). -/
def execCmPush (rlist : BitVec 4) (spimm : BitVec 2) (s : State) : Out :=
  ((pushAll (rlistDown rlist) 0 s).andThen fun t =>
    .ok ((t.spAdd spReg (0 - BitVec.ofNat 64 (s.stackAdj rlist spimm))).advance 2)).run
/-- CM.POP (R325). -/
def execCmPop (rlist : BitVec 4) (spimm : BitVec 2) (s : State) : Out :=
  ((s.popFrame rlist spimm).andThen fun t => .ok ((t.spAdd spReg (BitVec.ofNat 64 (s.stackAdj rlist spimm))).advance 2)).run
/-- CM.POPRETZ (R327). -/
def execCmPopretz (rlist : BitVec 4) (spimm : BitVec 2) (s : State) : Out :=
  (match s.pcrelCheck with
    | .ok _ => (s.popFrame rlist spimm).andThen fun t => t.popReturn rlist spimm true
    | .exc e => .trap s e
    | .halt => .halt s).run
/-- CM.POPRET (R326). -/
def execCmPopret (rlist : BitVec 4) (spimm : BitVec 2) (s : State) : Out :=
  (match s.pcrelCheck with
    | .ok _ => (s.popFrame rlist spimm).andThen fun t => t.popReturn rlist spimm false
    | .exc e => .trap s e
    | .halt => .halt s).run

/-- A register-to-register move: all CLEN+1 bits in Capability mode, the integer in Legacy mode (R328, R329). -/
def State.moveTo (s : State) (rd : Reg) (from_ : State) (rs : Reg) : State :=
  if s.capMode then s.wc rd (from_.rc rs) else s.wx rd (from_.rx rs)

/-- CM.MVSA01 (R328). -/
def execCmMvsa01 (r1s r2s : CReg) (s : State) : Out :=
  Res.run s (.ok (((s.moveTo (sreg r1s) s 10).moveTo (sreg r2s) s 11).advance 2))
/-- CM.MVA01S (R329): both sources are read before either destination is written. -/
def execCmMva01s (r1s r2s : CReg) (s : State) : Out :=
  Res.run s (.ok (((s.moveTo 10 s (sreg r1s)).moveTo 11 s (sreg r2s)).advance 2))

/-- The width of a table entry, XLEN/8 (R330). -/
def State.xlenBytes (s : State) : Nat := if s.cur64 then 8 else 4

/-- The address of a jump-table entry: jvtc's address with bits 5:0 zero, plus the scaled index, modulo 2^XLEN (R330; log 20). -/
def State.tableEa (s : State) (index : BitVec 8) : Word :=
  let a := (s.csr.jvtc.addr &&& ~~~63#64) + BitVec.ofNat 64 (index.toNat * s.xlenBytes)
  if s.cur64 then a else zext32 a

/-- `tableFetch(index)` (R330): checked against jvtc with TYPE 0, an instruction-type access; entries are little-endian like every fetch. No trigger
is asked about this read (R330 does not say: log 37). -/
def State.tableFetch (s : State) (index : BitVec 8) : Res Word :=
  let k := s.csr.jvtc
  let ea := s.tableEa index
  if !k.tag then .exc (cheri 0 0)
  else if k.s s.cfg then .exc (cheri 0 1)
  else if !(k.perms s.cfg).x then .exc (cheri 0 2)
  else if !k.inBounds s.cfg ea s.xlenBytes then .exc (cheri 0 3)
  else (s.translateAs (if s.debug then .machine else s.priv) .fetch ea).bind fun x =>
    let as := span x.pa s.xlenBytes
    (pmaCheck s.cfg .fetch ea as).bind fun _ => .ok (putBit (BitVec.ofNat 64 (leNat (s.loadList as))) 0 false)

/-- The jump through the table (R331, R332). -/
def State.tableJump (s : State) (index : BitVec 8) (link : Bool) : Res State :=
  s.pcrelCheck.bind fun _ =>
  (s.tableFetch index).bind fun t =>
  (s.checkTarget (s.targetAt t)).bind fun _ =>
  .ok ((if link then s.writeLink 1 2 s.capMode else s).jumpTo (s.targetAt t))

/-- CM.JT (R331). -/
def execCmJt (index : BitVec 8) (s : State) : Out := (s.tableJump index false).run s
/-- CM.JALT (R332). -/
def execCmJalt (index : BitVec 8) (s : State) : Out := (s.tableJump index true).run s

end Sys2Proof.Machine
end

