-- ==== Sys2Proof/Machine/Dispatch.lean ====
section
/-!
DEFINITION. Machine/Dispatch.lean: the meaning of every instruction of spec/opcode_table.json, one arm per constructor.
-/
namespace Sys2Proof.Machine
open Sys2Proof

def exec (i : Instr) (s : State) : Host.Outcome State Fault Refusal :=
  match i with
  | .gctag rd rs1 => Sys2Proof.Machine.execGctag rd rs1 s
  | .gcperm rd rs1 => Sys2Proof.Machine.execGcperm rd rs1 s
  | .gchi rd rs1 => Sys2Proof.Machine.execGchi rd rs1 s
  | .gcbase rd rs1 => Sys2Proof.Machine.execGcbase rd rs1 s
  | .gclen rd rs1 => Sys2Proof.Machine.execGclen rd rs1 s
  | .cram rd rs1 => Sys2Proof.Machine.execCram rd rs1 s
  | .sceq rd rs1 rs2 => Sys2Proof.Machine.execSceq rd rs1 rs2 s
  | .scss rd rs1 rs2 => Sys2Proof.Machine.execScss rd rs1 rs2 s
  | .cmv rd rs1 => Sys2Proof.Machine.execCmv rd rs1 s
  | .cadd rd rs1 rs2 => Sys2Proof.Machine.execCadd rd rs1 rs2 s
  | .caddi rd rs1 imm => Sys2Proof.Machine.execCaddi rd rs1 imm s
  | .scaddr rd rs1 rs2 => Sys2Proof.Machine.execScaddr rd rs1 rs2 s
  | .acperm rd rs1 rs2 => Sys2Proof.Machine.execAcperm rd rs1 rs2 s
  | .schi rd rs1 rs2 => Sys2Proof.Machine.execSchi rd rs1 rs2 s
  | .sentry rd rs1 => Sys2Proof.Machine.execSentry rd rs1 s
  | .cbld rd rs1 rs2 => Sys2Proof.Machine.execCbld rd rs1 rs2 s
  | .scbnds rd rs1 rs2 => Sys2Proof.Machine.execScbnds rd rs1 rs2 s
  | .scbndsi rd rs1 sc uimm => Sys2Proof.Machine.execScbndsi rd rs1 sc uimm s
  | .scbndsr rd rs1 rs2 => Sys2Proof.Machine.execScbndsr rd rs1 rs2 s
  | .scmode rd rs1 rs2 => Sys2Proof.Machine.execScmode rd rs1 rs2 s
  | .modesw => Sys2Proof.Machine.execModesw s
  | .lc rd rs1 imm => Sys2Proof.Machine.execLc rd rs1 imm s
  | .sc rs2 rs1 imm => Sys2Proof.Machine.execSc rs2 rs1 imm s
  | .auipc rd imm => Sys2Proof.Machine.execAuipc rd imm s
  | .jal rd off => Sys2Proof.Machine.execJal rd off s
  | .jalr rd rs1 imm => Sys2Proof.Machine.execJalr rd rs1 imm s
  | .jalrMode rd rs1 => Sys2Proof.Machine.execJalrMode rd rs1 s
  | .beq rs1 rs2 off => Sys2Proof.Machine.execBeq rs1 rs2 off s
  | .bne rs1 rs2 off => Sys2Proof.Machine.execBne rs1 rs2 off s
  | .blt rs1 rs2 off => Sys2Proof.Machine.execBlt rs1 rs2 off s
  | .bge rs1 rs2 off => Sys2Proof.Machine.execBge rs1 rs2 off s
  | .bltu rs1 rs2 off => Sys2Proof.Machine.execBltu rs1 rs2 off s
  | .bgeu rs1 rs2 off => Sys2Proof.Machine.execBgeu rs1 rs2 off s
  | .lb rd rs1 imm => Sys2Proof.Machine.execLb rd rs1 imm s
  | .lh rd rs1 imm => Sys2Proof.Machine.execLh rd rs1 imm s
  | .lw rd rs1 imm => Sys2Proof.Machine.execLw rd rs1 imm s
  | .ld rd rs1 imm => Sys2Proof.Machine.execLd rd rs1 imm s
  | .lbu rd rs1 imm => Sys2Proof.Machine.execLbu rd rs1 imm s
  | .lhu rd rs1 imm => Sys2Proof.Machine.execLhu rd rs1 imm s
  | .lwu rd rs1 imm => Sys2Proof.Machine.execLwu rd rs1 imm s
  | .sb rs2 rs1 imm => Sys2Proof.Machine.execSb rs2 rs1 imm s
  | .sh rs2 rs1 imm => Sys2Proof.Machine.execSh rs2 rs1 imm s
  | .sw rs2 rs1 imm => Sys2Proof.Machine.execSw rs2 rs1 imm s
  | .sd rs2 rs1 imm => Sys2Proof.Machine.execSd rs2 rs1 imm s
  | .mret => Sys2Proof.Machine.execMret s
  | .sret => Sys2Proof.Machine.execSret s
  | .dret => Sys2Proof.Machine.execDret s
  | .lui f rd imm => Sys2Proof.Machine.execLui f rd imm s
  | .addi f rd rs1 imm => Sys2Proof.Machine.execAddi f rd rs1 imm s
  | .slti rd rs1 imm => Sys2Proof.Machine.execSlti rd rs1 imm s
  | .sltiu rd rs1 imm => Sys2Proof.Machine.execSltiu rd rs1 imm s
  | .xori f rd rs1 imm => Sys2Proof.Machine.execXori f rd rs1 imm s
  | .ori rd rs1 imm => Sys2Proof.Machine.execOri rd rs1 imm s
  | .andi f rd rs1 imm => Sys2Proof.Machine.execAndi f rd rs1 imm s
  | .slli f rd rs1 shamt => Sys2Proof.Machine.execSlli f rd rs1 shamt s
  | .srli f rd rs1 shamt => Sys2Proof.Machine.execSrli f rd rs1 shamt s
  | .srai f rd rs1 shamt => Sys2Proof.Machine.execSrai f rd rs1 shamt s
  | .add f rd rs1 rs2 => Sys2Proof.Machine.execAdd f rd rs1 rs2 s
  | .sub f rd rs1 rs2 => Sys2Proof.Machine.execSub f rd rs1 rs2 s
  | .sll rd rs1 rs2 => Sys2Proof.Machine.execSll rd rs1 rs2 s
  | .slt rd rs1 rs2 => Sys2Proof.Machine.execSlt rd rs1 rs2 s
  | .sltu rd rs1 rs2 => Sys2Proof.Machine.execSltu rd rs1 rs2 s
  | .xor f rd rs1 rs2 => Sys2Proof.Machine.execXor f rd rs1 rs2 s
  | .srl rd rs1 rs2 => Sys2Proof.Machine.execSrl rd rs1 rs2 s
  | .sra rd rs1 rs2 => Sys2Proof.Machine.execSra rd rs1 rs2 s
  | .or f rd rs1 rs2 => Sys2Proof.Machine.execOr f rd rs1 rs2 s
  | .and f rd rs1 rs2 => Sys2Proof.Machine.execAnd f rd rs1 rs2 s
  | .addiw f rd rs1 imm => Sys2Proof.Machine.execAddiw f rd rs1 imm s
  | .slliw rd rs1 shamt => Sys2Proof.Machine.execSlliw rd rs1 shamt s
  | .srliw rd rs1 shamt => Sys2Proof.Machine.execSrliw rd rs1 shamt s
  | .sraiw rd rs1 shamt => Sys2Proof.Machine.execSraiw rd rs1 shamt s
  | .addw f rd rs1 rs2 => Sys2Proof.Machine.execAddw f rd rs1 rs2 s
  | .subw f rd rs1 rs2 => Sys2Proof.Machine.execSubw f rd rs1 rs2 s
  | .sllw rd rs1 rs2 => Sys2Proof.Machine.execSllw rd rs1 rs2 s
  | .srlw rd rs1 rs2 => Sys2Proof.Machine.execSrlw rd rs1 rs2 s
  | .sraw rd rs1 rs2 => Sys2Proof.Machine.execSraw rd rs1 rs2 s
  | .fence rd rs1 imm => Sys2Proof.Machine.execFence rd rs1 imm s
  | .fenceI rd rs1 imm => Sys2Proof.Machine.execFenceI rd rs1 imm s
  | .ecall => Sys2Proof.Machine.execEcall s
  | .ebreak f => Sys2Proof.Machine.execEbreak f s
  | .wfi => Sys2Proof.Machine.execWfi s
  | .sfenceVma rs1 rs2 => Sys2Proof.Machine.execSfenceVma rs1 rs2 s
  | .amoswapW rd rs1 rs2 aq rl => Sys2Proof.Machine.execAmoswapW rd rs1 rs2 aq rl s
  | .amoaddW rd rs1 rs2 aq rl => Sys2Proof.Machine.execAmoaddW rd rs1 rs2 aq rl s
  | .amoxorW rd rs1 rs2 aq rl => Sys2Proof.Machine.execAmoxorW rd rs1 rs2 aq rl s
  | .amoandW rd rs1 rs2 aq rl => Sys2Proof.Machine.execAmoandW rd rs1 rs2 aq rl s
  | .amoorW rd rs1 rs2 aq rl => Sys2Proof.Machine.execAmoorW rd rs1 rs2 aq rl s
  | .amominW rd rs1 rs2 aq rl => Sys2Proof.Machine.execAmominW rd rs1 rs2 aq rl s
  | .amomaxW rd rs1 rs2 aq rl => Sys2Proof.Machine.execAmomaxW rd rs1 rs2 aq rl s
  | .amominuW rd rs1 rs2 aq rl => Sys2Proof.Machine.execAmominuW rd rs1 rs2 aq rl s
  | .amomaxuW rd rs1 rs2 aq rl => Sys2Proof.Machine.execAmomaxuW rd rs1 rs2 aq rl s
  | .amoswapD rd rs1 rs2 aq rl => Sys2Proof.Machine.execAmoswapD rd rs1 rs2 aq rl s
  | .amoaddD rd rs1 rs2 aq rl => Sys2Proof.Machine.execAmoaddD rd rs1 rs2 aq rl s
  | .amoxorD rd rs1 rs2 aq rl => Sys2Proof.Machine.execAmoxorD rd rs1 rs2 aq rl s
  | .amoandD rd rs1 rs2 aq rl => Sys2Proof.Machine.execAmoandD rd rs1 rs2 aq rl s
  | .amoorD rd rs1 rs2 aq rl => Sys2Proof.Machine.execAmoorD rd rs1 rs2 aq rl s
  | .amominD rd rs1 rs2 aq rl => Sys2Proof.Machine.execAmominD rd rs1 rs2 aq rl s
  | .amomaxD rd rs1 rs2 aq rl => Sys2Proof.Machine.execAmomaxD rd rs1 rs2 aq rl s
  | .amominuD rd rs1 rs2 aq rl => Sys2Proof.Machine.execAmominuD rd rs1 rs2 aq rl s
  | .amomaxuD rd rs1 rs2 aq rl => Sys2Proof.Machine.execAmomaxuD rd rs1 rs2 aq rl s
  | .amoswapC rd rs1 rs2 aq rl => Sys2Proof.Machine.execAmoswapC rd rs1 rs2 aq rl s
  | .lrB rd rs1 aq rl => Sys2Proof.Machine.execLrB rd rs1 aq rl s
  | .lrH rd rs1 aq rl => Sys2Proof.Machine.execLrH rd rs1 aq rl s
  | .lrW rd rs1 aq rl => Sys2Proof.Machine.execLrW rd rs1 aq rl s
  | .lrD rd rs1 aq rl => Sys2Proof.Machine.execLrD rd rs1 aq rl s
  | .lrC rd rs1 aq rl => Sys2Proof.Machine.execLrC rd rs1 aq rl s
  | .scB rd rs1 rs2 aq rl => Sys2Proof.Machine.execScB rd rs1 rs2 aq rl s
  | .scH rd rs1 rs2 aq rl => Sys2Proof.Machine.execScH rd rs1 rs2 aq rl s
  | .scW rd rs1 rs2 aq rl => Sys2Proof.Machine.execScW rd rs1 rs2 aq rl s
  | .scD rd rs1 rs2 aq rl => Sys2Proof.Machine.execScD rd rs1 rs2 aq rl s
  | .scC rd rs1 rs2 aq rl => Sys2Proof.Machine.execScC rd rs1 rs2 aq rl s
  | .csrrw rd rs1 csr => Sys2Proof.Machine.execCsrrw rd rs1 csr s
  | .csrrs rd rs1 csr => Sys2Proof.Machine.execCsrrs rd rs1 csr s
  | .csrrc rd rs1 csr => Sys2Proof.Machine.execCsrrc rd rs1 csr s
  | .csrrwi rd uimm csr => Sys2Proof.Machine.execCsrrwi rd uimm csr s
  | .csrrsi rd uimm csr => Sys2Proof.Machine.execCsrrsi rd uimm csr s
  | .csrrci rd uimm csr => Sys2Proof.Machine.execCsrrci rd uimm csr s
  | .flh frd rs1 imm => Sys2Proof.Machine.execFlh frd rs1 imm s
  | .flw frd rs1 imm => Sys2Proof.Machine.execFlw frd rs1 imm s
  | .fld frd rs1 imm => Sys2Proof.Machine.execFld frd rs1 imm s
  | .fsh fs2 rs1 imm => Sys2Proof.Machine.execFsh fs2 rs1 imm s
  | .fsw fs2 rs1 imm => Sys2Proof.Machine.execFsw fs2 rs1 imm s
  | .fsd fs2 rs1 imm => Sys2Proof.Machine.execFsd fs2 rs1 imm s
  | .cBeqz rs1 off => Sys2Proof.Machine.execCBeqz rs1 off s
  | .cBnez rs1 off => Sys2Proof.Machine.execCBnez rs1 off s
  | .cMv rd rs2 => Sys2Proof.Machine.execCMv rd rs2 s
  | .cAddi16sp imm => Sys2Proof.Machine.execCAddi16sp imm s
  | .cAddi4spn rd imm => Sys2Proof.Machine.execCAddi4spn rd imm s
  | .cModesw => Sys2Proof.Machine.execCModesw s
  | .cJalr rs1 => Sys2Proof.Machine.execCJalr rs1 s
  | .cJr rs1 => Sys2Proof.Machine.execCJr rs1 s
  | .cJal off => Sys2Proof.Machine.execCJal off s
  | .cJ off => Sys2Proof.Machine.execCJ off s
  | .cLw rd rs1 off => Sys2Proof.Machine.execCLw rd rs1 off s
  | .cLd rd rs1 off => Sys2Proof.Machine.execCLd rd rs1 off s
  | .cLwsp rd off => Sys2Proof.Machine.execCLwsp rd off s
  | .cLdsp rd off => Sys2Proof.Machine.execCLdsp rd off s
  | .cFlw frd rs1 off => Sys2Proof.Machine.execCFlw frd rs1 off s
  | .cFlwsp frd off => Sys2Proof.Machine.execCFlwsp frd off s
  | .cFld frd rs1 off => Sys2Proof.Machine.execCFld frd rs1 off s
  | .cFldsp frd off => Sys2Proof.Machine.execCFldsp frd off s
  | .cLc rd rs1 off => Sys2Proof.Machine.execCLc rd rs1 off s
  | .cLcsp rd off => Sys2Proof.Machine.execCLcsp rd off s
  | .cSw rs2 rs1 off => Sys2Proof.Machine.execCSw rs2 rs1 off s
  | .cSd rs2 rs1 off => Sys2Proof.Machine.execCSd rs2 rs1 off s
  | .cSwsp rs2 off => Sys2Proof.Machine.execCSwsp rs2 off s
  | .cSdsp rs2 off => Sys2Proof.Machine.execCSdsp rs2 off s
  | .cFsw fs2 rs1 off => Sys2Proof.Machine.execCFsw fs2 rs1 off s
  | .cFswsp fs2 off => Sys2Proof.Machine.execCFswsp fs2 off s
  | .cFsd fs2 rs1 off => Sys2Proof.Machine.execCFsd fs2 rs1 off s
  | .cFsdsp fs2 off => Sys2Proof.Machine.execCFsdsp fs2 off s
  | .cSc rs2 rs1 off => Sys2Proof.Machine.execCSc rs2 rs1 off s
  | .cScsp rs2 off => Sys2Proof.Machine.execCScsp rs2 off s
  | .cLbu rd rs1 off => Sys2Proof.Machine.execCLbu rd rs1 off s
  | .cLhu rd rs1 off => Sys2Proof.Machine.execCLhu rd rs1 off s
  | .cLh rd rs1 off => Sys2Proof.Machine.execCLh rd rs1 off s
  | .cSb rs2 rs1 off => Sys2Proof.Machine.execCSb rs2 rs1 off s
  | .cSh rs2 rs1 off => Sys2Proof.Machine.execCSh rs2 rs1 off s
  | .cmPush rlist spimm => Sys2Proof.Machine.execCmPush rlist spimm s
  | .cmPop rlist spimm => Sys2Proof.Machine.execCmPop rlist spimm s
  | .cmPopretz rlist spimm => Sys2Proof.Machine.execCmPopretz rlist spimm s
  | .cmPopret rlist spimm => Sys2Proof.Machine.execCmPopret rlist spimm s
  | .cmMvsa01 r1s r2s => Sys2Proof.Machine.execCmMvsa01 r1s r2s s
  | .cmMva01s r1s r2s => Sys2Proof.Machine.execCmMva01s r1s r2s s
  | .cmJt index => Sys2Proof.Machine.execCmJt index s
  | .cmJalt index => Sys2Proof.Machine.execCmJalt index s
  | .cboInval rs1 => Sys2Proof.Machine.execCboInval rs1 s
  | .cboClean rs1 => Sys2Proof.Machine.execCboClean rs1 s
  | .cboFlush rs1 => Sys2Proof.Machine.execCboFlush rs1 s
  | .cboZero rs1 => Sys2Proof.Machine.execCboZero rs1 s
  | .prefetchI rs1 off => Sys2Proof.Machine.execPrefetchI rs1 off s
  | .prefetchR rs1 off => Sys2Proof.Machine.execPrefetchR rs1 off s
  | .prefetchW rs1 off => Sys2Proof.Machine.execPrefetchW rs1 off s
  | .sh1add rd rs1 rs2 => Sys2Proof.Machine.execSh1add rd rs1 rs2 s
  | .sh2add rd rs1 rs2 => Sys2Proof.Machine.execSh2add rd rs1 rs2 s
  | .sh3add rd rs1 rs2 => Sys2Proof.Machine.execSh3add rd rs1 rs2 s
  | .sh1addUw rd rs1 rs2 => Sys2Proof.Machine.execSh1addUw rd rs1 rs2 s
  | .sh2addUw rd rs1 rs2 => Sys2Proof.Machine.execSh2addUw rd rs1 rs2 s
  | .sh3addUw rd rs1 rs2 => Sys2Proof.Machine.execSh3addUw rd rs1 rs2 s
  | .sh4add rd rs1 rs2 => Sys2Proof.Machine.execSh4add rd rs1 rs2 s
  | .sh4addUw rd rs1 rs2 => Sys2Proof.Machine.execSh4addUw rd rs1 rs2 s

end Sys2Proof.Machine
end

