-- ==== Sys2Proof/Machine/Extensions.lean ====
section
/-!
DEFINITION. Machine/Extensions.lean: the unchanged computational instructions that 43_base_integer R231 and 47_compressed R321 name but give no row of the opcode
table: M, Zbb, Zbc, Zbs, Zbkb, Zbkx and Zicond, with the 16-bit forms C.MUL, C.SEXT.B, C.ZEXT.H and C.SEXT.H. Encodings and arithmetic are the ratified ISA's
(92 D1; log 41).
-/
namespace Sys2Proof.Machine
open Sys2Proof

/-! ## Syntax -/

/-- The operations; a name ending in W works on 32 bits with XLEN = 64. -/
inductive ExtOp where
  | mul | mulh | mulhsu | mulhu | div | divu | rem | remu | mulw | divw | divuw | remw | remuw
  | czeroEqz | czeroNez
  | andn | orn | xnor | min | minu | max | maxu | rol | ror | rolw | rorw
  | clz | ctz | cpop | clzw | ctzw | cpopw | sextB | sextH | zextH | orcB | rev8
  | bclr | bext | binv | bset
  | clmul | clmulh | clmulr
  | pack | packh | packw | brev8 | zip | unzip | xperm4 | xperm8
  deriving DecidableEq, Repr

/-- The second operand: a register, or a shift amount; an operation of one operand has shift amount 0. -/
inductive ExtSrc where
  | reg (r : Reg)
  | shamt (i : BitVec 6)
  deriving DecidableEq, Repr

/-- An instruction: operation, destination, sources, length of the encoding. -/
structure ExtInstr where
  op : ExtOp
  rd : Reg
  rs1 : Reg
  src : ExtSrc
  form : Form
  deriving DecidableEq, Repr

/-! ## Which extension provides an operation -/

/-- Present, at this XLEN. -/
def ExtOp.available (c : Ctx) (o : ExtOp) : Bool :=
  let p := c.cfg
  match o with
  | .mul | .mulh | .mulhsu | .mulhu | .div | .divu | .rem | .remu => p.hasM
  | .mulw | .divw | .divuw | .remw | .remuw => p.hasM && c.x64
  | .czeroEqz | .czeroNez => p.hasZicond
  | .andn | .orn | .xnor | .rol | .ror | .rev8 => p.hasZbb || p.hasZbkb
  | .rolw | .rorw => (p.hasZbb || p.hasZbkb) && c.x64
  | .min | .minu | .max | .maxu | .clz | .ctz | .cpop | .sextB | .sextH | .zextH | .orcB => p.hasZbb
  | .clzw | .ctzw | .cpopw => p.hasZbb && c.x64
  | .bclr | .bext | .binv | .bset => p.hasZbs
  | .clmul | .clmulh | .clmulr => p.hasZbc
  | .pack | .packh | .brev8 => p.hasZbkb
  | .packw => p.hasZbkb && c.x64
  | .zip | .unzip => p.hasZbkb && !c.x64
  | .xperm4 | .xperm8 => p.hasZbkx

/-! ## Decoding -/

/-- OP, by funct7 and funct3. -/
def extOp33 (c : Ctx) (f7 : BitVec 7) (f3 : BitVec 3) (b : Reg) : Option ExtOp :=
  if f7 = 0x01 then
    [.mul, .mulh, .mulhsu, .mulhu, .div, .divu, .rem, .remu][f3.toNat]?
  else if f7 = 0x05 then [ExtOp.clmul, .clmulr, .clmulh, .min, .minu, .max, .maxu][f3.toNat - 1]?.filter fun _ => f3 != 0
  else if f7 = 0x07 then (if f3 = 5 then some .czeroEqz else if f3 = 7 then some .czeroNez else none)
  else if f7 = 0x04 then
    if f3 = 4 then some (if c.cfg.hasZbb && !c.x64 && b == 0 then .zextH else .pack) else if f3 = 7 then some .packh else none
  else if f7 = 0x20 then (if f3 = 7 then some .andn else if f3 = 6 then some .orn else if f3 = 4 then some .xnor else none)
  else if f7 = 0x30 then (if f3 = 1 then some .rol else if f3 = 5 then some .ror else none)
  else if f7 = 0x24 then (if f3 = 1 then some .bclr else if f3 = 5 then some .bext else none)
  else if f7 = 0x34 then (if f3 = 1 then some .binv else none)
  else if f7 = 0x14 then (if f3 = 1 then some .bset else if f3 = 2 then some .xperm4 else if f3 = 4 then some .xperm8 else none)
  else none

/-- OP-32. -/
def extOp3B (c : Ctx) (f7 : BitVec 7) (f3 : BitVec 3) (b : Reg) : Option ExtOp :=
  if f7 = 0x01 then
    if f3 = 0 then some .mulw else if f3 = 4 then some .divw else if f3 = 5 then some .divuw
    else if f3 = 6 then some .remw else if f3 = 7 then some .remuw else none
  else if f7 = 0x04 then (if f3 = 4 then some (if c.cfg.hasZbb && c.x64 && b == 0 then .zextH else .packw) else none)
  else if f7 = 0x30 then (if f3 = 1 then some .rolw else if f3 = 5 then some .rorw else none)
  else none

/-- OP-IMM with one operand, by the whole immediate. -/
def extUnary (c : Ctx) (f3 : BitVec 3) (i : BitVec 12) : Option ExtOp :=
  if f3 = 1 then
    if i = 0x600 then some .clz else if i = 0x601 then some .ctz else if i = 0x602 then some .cpop
    else if i = 0x604 then some .sextB else if i = 0x605 then some .sextH else if i = 0x08F then some .zip else none
  else if f3 = 5 then
    if i = 0x287 then some .orcB else if i = 0x687 then some .brev8 else if i = 0x08F then some .unzip
    else if i = (if c.x64 then 0x6B8 else 0x698) then some .rev8 else none
  else none

/-- OP-IMM with a shift amount, by funct6. -/
def extShift (f6 : BitVec 6) (f3 : BitVec 3) : Option ExtOp :=
  if f3 = 1 then (if f6 = 0x12 then some .bclr else if f6 = 0x1A then some .binv else if f6 = 0x0A then some .bset else none)
  else if f3 = 5 then (if f6 = 0x12 then some .bext else if f6 = 0x18 then some .ror else none) else none

/-- A 32-bit word. -/
def extWord (c : Ctx) (w : BitVec 32) : Option ExtInstr :=
  let d := fRd w; let a := fRs1 w; let b := fRs2 w
  if opc w = 0x33 then (extOp33 c (fF7 w) (fF3 w) b).map fun o => ⟨o, d, a, .reg b, .std⟩
  else if opc w = 0x3B then (extOp3B c (fF7 w) (fF3 w) b).map fun o => ⟨o, d, a, .reg b, .std⟩
  else if opc w = 0x13 then
    match extUnary c (fF3 w) (immI w) with
    | some o => some ⟨o, d, a, .shamt 0, .std⟩
    | none => if c.x64 || !w.getLsbD 25 then (extShift (fF6 w) (fF3 w)).map fun o => ⟨o, d, a, .shamt (fShamt w), .std⟩ else none
  else if opc w = 0x1B then
    if fF3 w = 1 then
      if immI w = 0x600 then some ⟨.clzw, d, a, .shamt 0, .std⟩ else if immI w = 0x601 then some ⟨.ctzw, d, a, .shamt 0, .std⟩
      else if immI w = 0x602 then some ⟨.cpopw, d, a, .shamt 0, .std⟩ else none
    else if fF3 w = 5 ∧ fF7 w = 0x30 then some ⟨.rorw, d, a, .shamt (fShamt w), .std⟩ else none
  else none

/-- A 16-bit parcel: bits[15:10] = 100111, q = 01 (47_compressed R321). -/
def extHalf (c : Ctx) (p : BitVec 16) : Option ExtInstr :=
  let d := (pHi p).reg
  if p.extractLsb' 10 6 ≠ 0x27 ∨ p.extractLsb' 0 2 ≠ 1 ∨ !(c.cfg.hasC && c.c16 && c.cfg.hasZcb) then none
  else if p.extractLsb' 5 2 = 2 then some ⟨.mul, d, d, .reg (pLo p).reg, .comp⟩
  else if p.extractLsb' 5 2 = 3 then
    if pLo p = 1 then some ⟨.sextB, d, d, .shamt 0, .comp⟩ else if pLo p = 2 then some ⟨.zextH, d, d, .shamt 0, .comp⟩
    else if pLo p = 3 then some ⟨.sextH, d, d, .shamt 0, .comp⟩ else none
  else none

/-- The registers exist (30_encoding R139). -/
def ExtInstr.wellFormed (c : Ctx) (e : ExtInstr) : Bool :=
  c.reg e.rd && c.reg e.rs1 &&
    match e.src with
    | .reg r => c.reg r
    | .shamt _ => true

/-- The instruction an encoding is, where it is none of the opcode table's. -/
def decodeExt (c : Ctx) (e : Enc) : Option ExtInstr :=
  (match e with
    | .half p => extHalf c p
    | .word w => extWord c w).filter fun i => i.op.available c && i.wellFormed c

/-! ## Results -/

/-- A value as a number of XLEN bits. -/
def unsignedOf (x64 : Bool) (v : Word) : Nat := if x64 then v.toNat else v.toNat % 2 ^ 32
/-- An integer as a word. -/
def ofInt (i : Int) : Word := BitVec.ofInt 64 i

/-- The quotient and the remainder, rounded towards zero; of a division by zero, all ones and the dividend. -/
def divSigned (a b : Int) : Int := if b = 0 then -1 else a.tdiv b
def remSigned (a b : Int) : Int := if b = 0 then a else a.tmod b
def divUnsigned (a b : Nat) : Word := if b = 0 then BitVec.allOnes 64 else BitVec.ofNat 64 (a / b)
def remUnsigned (a b : Nat) : Word := if b = 0 then BitVec.ofNat 64 a else BitVec.ofNat 64 (a % b)

/-- `n`-bit rotation to the left of a number below `2^n`. -/
def rotl (n v k : Nat) : Word := BitVec.ofNat 64 ((v * 2 ^ (k % n) + v / 2 ^ (n - k % n)) % 2 ^ n)
/-- Zeros above the highest one, below the lowest one, and ones, among the low `n` bits. -/
def countLeading : Nat → Nat → Nat
  | 0, _ => 0
  | n + 1, v => if v.testBit n then 0 else 1 + countLeading n v
def countTrailing : Nat → Nat → Nat
  | 0, _ => 0
  | n + 1, v => if v % 2 = 1 then 0 else 1 + countTrailing n (v / 2)
def countOnes (n v : Nat) : Nat := ((List.range n).filter v.testBit).length

/-- The product of two `n`-bit polynomials over one bit. -/
def carryless (n a b : Nat) : Nat := (List.range n).foldl (fun r i => if b.testBit i then r ^^^ (a <<< i) else r) 0
/-- Each byte of the low `n`, the least significant first, and a number from such a list. -/
def bytesOf (n v : Nat) : List Nat := (List.range n).map fun i => v / 256 ^ i % 256
def ofDigits (base : Nat) : List Nat → Nat
  | [] => 0
  | b :: r => b + base * ofDigits base r
/-- A byte with its bits in reverse order. -/
def revBits (b : Nat) : Nat := ofDigits 2 ((List.range 8).map fun i => b / 2 ^ (7 - i) % 2)
/-- Each digit of `w` bits of `b` looked up among those of `a`; 0 where there is none. -/
def permute (n w a b : Nat) : Nat :=
  ofDigits (2 ^ w) ((List.range (n / w)).map fun i =>
    let k := b / 2 ^ (w * i) % 2 ^ w
    if k < n / w then a / 2 ^ (w * k) % 2 ^ w else 0)
/-- Bit `i` of the result is bit `f i` of `v`, for 32 bits. -/
def shuffle (f : Nat → Nat) (v : Nat) : Nat := ofDigits 2 ((List.range 32).map fun i => v / 2 ^ f i % 2)

/-- The result, of operands sign-extended from XLEN, before it is narrowed to XLEN. -/
def extResult (x64 : Bool) (o : ExtOp) (a b : Word) : Word :=
  let n := if x64 then 64 else 32
  let ua := unsignedOf x64 a
  let ub := unsignedOf x64 b
  let bit : Word := 1#64 <<< (ub % n)
  match o with
  | .mul => a * b
  | .mulh => ofInt (a.toInt * b.toInt / 2 ^ n)
  | .mulhsu => ofInt (a.toInt * ub / 2 ^ n)
  | .mulhu => BitVec.ofNat 64 (ua * ub / 2 ^ n)
  | .div => ofInt (divSigned a.toInt b.toInt)
  | .divu => divUnsigned ua ub
  | .rem => ofInt (remSigned a.toInt b.toInt)
  | .remu => remUnsigned ua ub
  | .mulw => sext32 (a * b)
  | .divw => sext32 (ofInt (divSigned (sext32 a).toInt (sext32 b).toInt))
  | .divuw => sext32 (divUnsigned (zext32 a).toNat (zext32 b).toNat)
  | .remw => sext32 (ofInt (remSigned (sext32 a).toInt (sext32 b).toInt))
  | .remuw => sext32 (remUnsigned (zext32 a).toNat (zext32 b).toNat)
  | .czeroEqz => if b = 0 then 0 else a
  | .czeroNez => if b = 0 then a else 0
  | .andn => a &&& ~~~b
  | .orn => a ||| ~~~b
  | .xnor => ~~~(a ^^^ b)
  | .min => if a.slt b then a else b
  | .minu => if a.ult b then a else b
  | .max => if a.slt b then b else a
  | .maxu => if a.ult b then b else a
  | .rol => rotl n ua (ub % n)
  | .ror => rotl n ua (n - ub % n)
  | .rolw => sext32 (rotl 32 (zext32 a).toNat (ub % 32))
  | .rorw => sext32 (rotl 32 (zext32 a).toNat (32 - ub % 32))
  | .clz => BitVec.ofNat 64 (countLeading n ua)
  | .ctz => BitVec.ofNat 64 (countTrailing n ua)
  | .cpop => BitVec.ofNat 64 (countOnes n ua)
  | .clzw => BitVec.ofNat 64 (countLeading 32 (zext32 a).toNat)
  | .ctzw => BitVec.ofNat 64 (countTrailing 32 (zext32 a).toNat)
  | .cpopw => BitVec.ofNat 64 (countOnes 32 (zext32 a).toNat)
  | .sextB => sextBytes 1 a
  | .sextH => sextBytes 2 a
  | .zextH => a &&& 0xFFFF
  | .orcB => BitVec.ofNat 64 (ofDigits 256 ((bytesOf (n / 8) ua).map fun k => if k = 0 then 0 else 255))
  | .rev8 => BitVec.ofNat 64 (ofDigits 256 (bytesOf (n / 8) ua).reverse)
  | .bclr => a &&& ~~~bit
  | .bext => ofBit (a.getLsbD (ub % n))
  | .binv => a ^^^ bit
  | .bset => a ||| bit
  | .clmul => BitVec.ofNat 64 (carryless n ua ub)
  | .clmulh => BitVec.ofNat 64 (carryless n ua ub / 2 ^ n)
  | .clmulr => BitVec.ofNat 64 (carryless n ua ub / 2 ^ (n - 1))
  | .pack => BitVec.ofNat 64 (ua % 2 ^ (n / 2) + ub % 2 ^ (n / 2) * 2 ^ (n / 2))
  | .packh => BitVec.ofNat 64 (ua % 256 + ub % 256 * 256)
  | .packw => sext32 (BitVec.ofNat 64 (ua % 65536 + ub % 65536 * 65536))
  | .brev8 => BitVec.ofNat 64 (ofDigits 256 ((bytesOf (n / 8) ua).map revBits))
  | .zip => BitVec.ofNat 64 (shuffle (fun i => if i % 2 = 0 then i / 2 else i / 2 + 16) ua)
  | .unzip => BitVec.ofNat 64 (shuffle (fun i => if i < 16 then 2 * i else 2 * (i - 16) + 1) ua)
  | .xperm4 => BitVec.ofNat 64 (permute n 4 ua ub)
  | .xperm8 => BitVec.ofNat 64 (permute n 8 ua ub)

/-- The value of the second operand. -/
def State.extOperand (s : State) : ExtSrc → Word
  | .reg r => s.rx r
  | .shamt i => uimm i 0

/-- The meaning, of every such instruction: XLEN bits to x[rd], tag and metadata zeroed; it never traps (R231). -/
def execExt (e : ExtInstr) (s : State) : Out :=
  (s.compute e.rd (extResult s.cur64 e.op (s.rx e.rs1) (s.extOperand e.src)) (formLen e.form)).run s

end Sys2Proof.Machine
end

