-- ==== Sys2Proof/Machine/Float.lean ====
section
/-!
DEFINITION. Machine/Float.lean: binary floating-point numbers and their operations, exact and then rounded once. 46_fp_loadstore R283 leaves them to the ratified
ISA (92 D1), which takes them from IEEE 754 (log 45).
-/
namespace Sys2Proof.Machine
open Sys2Proof

/-! ## Formats and values -/

/-- Half, single and double precision. -/
inductive FpFormat where
  | half
  | single
  | double
  deriving DecidableEq, Repr

/-- Bits of the exponent field, and of the fraction. -/
def FpFormat.expBits : FpFormat → Nat
  | .half => 5
  | .single => 8
  | .double => 11
def FpFormat.fracBits : FpFormat → Nat
  | .half => 10
  | .single => 23
  | .double => 52
/-- Bytes of a value. -/
def FpFormat.bytes : FpFormat → Nat
  | .half => 2
  | .single => 4
  | .double => 8
def FpFormat.signBit (f : FpFormat) : Nat := f.expBits + f.fracBits
/-- The largest exponent field, of infinities and NaNs, in place. -/
def FpFormat.infBits (f : FpFormat) : Nat := (2 ^ f.expBits - 1) * 2 ^ f.fracBits
/-- The canonical NaN. -/
def FpFormat.nanBits (f : FpFormat) : Nat := f.infBits + 2 ^ (f.fracBits - 1)
/-- The exponent of the least normal number. -/
def FpFormat.minExp (f : FpFormat) : Int := 2 - 2 ^ (f.expBits - 1)

/-- A value: a NaN, quiet or signalling; an infinity; or a sign and `m * 2^e`, with `m = 0` for a zero. -/
inductive FpVal where
  | nan (quiet : Bool)
  | inf (neg : Bool)
  | fin (neg : Bool) (m : Nat) (e : Int)
  deriving DecidableEq, Repr

/-- The value of the bits of a format. -/
def FpFormat.value (f : FpFormat) (v : Nat) : FpVal :=
  let frac := v % 2 ^ f.fracBits
  let ex := v / 2 ^ f.fracBits % 2 ^ f.expBits
  let neg := v.testBit f.signBit
  if ex = 2 ^ f.expBits - 1 then (if frac = 0 then .inf neg else .nan (frac.testBit (f.fracBits - 1)))
  else if ex = 0 then .fin neg frac (f.minExp - f.fracBits)
  else .fin neg (frac + 2 ^ f.fracBits) (f.minExp - f.fracBits + (ex - 1 : Nat))

def FpVal.isNan : FpVal → Bool
  | .nan _ => true
  | _ => false
/-- A signalling NaN: an operand that raises NV. -/
def FpVal.signals : FpVal → Bool
  | .nan q => !q
  | _ => false
def FpVal.neg : FpVal → FpVal
  | .nan q => .nan q
  | .inf n => .inf !n
  | .fin n m e => .fin (!n) m e

/-! ## Rounding -/

inductive Rounding where
  | nearestEven
  | towardZero
  | down
  | up
  | nearestAway
  deriving DecidableEq, Repr

/-- The rounding mode a field names; 5, 6 and 7 name none. -/
def roundingOf (n : Nat) : Option Rounding := [Rounding.nearestEven, .towardZero, .down, .up, .nearestAway][n]?

/-- A result: its bits, and the accrued flags NX, UF, OF, DZ, NV in bits 0 to 4. -/
structure FpRes where
  bits : Nat
  flags : BitVec 5
  deriving DecidableEq, Repr

def flagNX : BitVec 5 := 1
def flagUF : BitVec 5 := 2
def flagOF : BitVec 5 := 4
def flagDZ : BitVec 5 := 8
def flagNV : BitVec 5 := 16
def flagIf (b : Bool) (f : BitVec 5) : BitVec 5 := if b then f else 0

/-- `m * 2^e` as a multiple of `2^q`, rounded, and whether that is inexact. -/
def quantize (rm : Rounding) (neg : Bool) (m : Nat) (e q : Int) : Nat × Bool :=
  if q ≤ e then (m * 2 ^ (e - q).toNat, false)
  else
    let d := 2 ^ (q - e).toNat
    let n := m / d
    let r := m % d
    let up := match rm with
      | .nearestEven => decide (d < 2 * r) || (decide (2 * r = d) && n % 2 == 1)
      | .towardZero => false
      | .down => neg && r != 0
      | .up => !neg && r != 0
      | .nearestAway => decide (d ≤ 2 * r)
    (if up then n + 1 else n, r != 0)

def FpFormat.signed (f : FpFormat) (neg : Bool) (mag : Nat) : Nat := (if neg then 2 ^ f.signBit else 0) + mag

/-- `m * 2^e` with a sign, rounded to a format; tininess is detected after rounding. -/
def FpFormat.round (f : FpFormat) (rm : Rounding) (neg : Bool) (m : Nat) (e : Int) : FpRes :=
  if m = 0 then ⟨f.signed neg 0, 0⟩
  else
    let top : Int := m.log2 + e
    let r := quantize rm neg m e (max top f.minExp - f.fracBits)
    let mag := (max top f.minExp - f.minExp).toNat * 2 ^ f.fracBits + r.1
    if f.infBits ≤ mag then
      let toInf := match rm with
        | .nearestEven | .nearestAway => true
        | .towardZero => false
        | .down => neg
        | .up => !neg
      ⟨f.signed neg (if toInf then f.infBits else f.infBits - 1), flagOF ||| flagNX⟩
    else
      let tiny := decide (top < f.minExp) &&
        (decide (top + 1 < f.minExp) || decide ((quantize rm neg m e (top - f.fracBits)).1 < 2 ^ (f.fracBits + 1)))
      ⟨f.signed neg mag, flagIf r.2 flagNX ||| flagIf (r.2 && tiny) flagUF⟩

def FpFormat.nan (f : FpFormat) (fl : BitVec 5) : FpRes := ⟨f.nanBits, fl⟩
/-- An infinity, a zero or a finite value as a format's bits. -/
def FpFormat.ofVal (f : FpFormat) (rm : Rounding) : FpVal → FpRes
  | .nan _ => f.nan 0
  | .inf n => ⟨f.signed n f.infBits, 0⟩
  | .fin n m e => f.round rm n m e

/-! ## Arithmetic -/

/-- A sign and a magnitude as an integer. -/
def signedInt (neg : Bool) (m : Nat) : Int := if neg then -(m : Int) else m

/-- The exact sum of finite values; a zero sum keeps a common sign, and else is negative only when rounding down. -/
def addFin (rm : Rounding) (n₁ : Bool) (m₁ : Nat) (e₁ : Int) (n₂ : Bool) (m₂ : Nat) (e₂ : Int) : FpVal :=
  let e := min e₁ e₂
  let i := signedInt n₁ (m₁ * 2 ^ (e₁ - e).toNat) + signedInt n₂ (m₂ * 2 ^ (e₂ - e).toNat)
  .fin (if i = 0 then (if n₁ = n₂ then n₁ else decide (rm = .down)) else decide (i < 0)) i.natAbs e

/-- The sum of two values, neither a NaN; infinities of opposite signs have none. -/
def addVal (rm : Rounding) : FpVal → FpVal → Option FpVal
  | .inf n, .inf n' => if n = n' then some (.inf n) else none
  | .inf n, _ => some (.inf n)
  | _, .inf n => some (.inf n)
  | .fin n m e, .fin n' m' e' => some (addFin rm n m e n' m' e')
  | _, _ => none

/-- The exact product of two values, neither a NaN; an infinity and a zero have none. -/
def mulVal : FpVal → FpVal → Option FpVal
  | .inf n, .inf n' => some (.inf (n != n'))
  | .inf n, .fin n' m _ => if m = 0 then none else some (.inf (n != n'))
  | .fin n m _, .inf n' => if m = 0 then none else some (.inf (n != n'))
  | .fin n m e, .fin n' m' e' => some (.fin (n != n') (m * m') (e + e'))
  | _, _ => none

/-- A result that is a value, rounded, or NV. -/
def FpFormat.finish (f : FpFormat) (rm : Rounding) : Option FpVal → FpRes
  | some v => f.ofVal rm v
  | none => f.nan flagNV

def FpFormat.add (f : FpFormat) (rm : Rounding) (a b : FpVal) : FpRes :=
  if a.isNan || b.isNan then f.nan (flagIf (a.signals || b.signals) flagNV) else f.finish rm (addVal rm a b)
def FpFormat.mul (f : FpFormat) (rm : Rounding) (a b : FpVal) : FpRes :=
  if a.isNan || b.isNan then f.nan (flagIf (a.signals || b.signals) flagNV) else f.finish rm (mulVal a b)

/-- `a * b + c`, rounded once; an infinity times a zero raises NV also where `c` is a quiet NaN. -/
def FpFormat.fma (f : FpFormat) (rm : Rounding) (a b c : FpVal) : FpRes :=
  let sig := a.signals || b.signals || c.signals
  if a.isNan || b.isNan then f.nan (flagIf sig flagNV)
  else match mulVal a b with
    | none => f.nan flagNV
    | some p => if c.isNan then f.nan (flagIf sig flagNV) else f.finish rm (addVal rm p c)

/-- The quotient of finite values, the second not zero: enough bits of it, and below them one that says whether it is inexact. -/
def FpFormat.divFin (f : FpFormat) (rm : Rounding) (neg : Bool) (m₁ : Nat) (e₁ : Int) (m₂ : Nat) (e₂ : Int) : FpRes :=
  let k := f.fracBits + 5 + m₂.log2
  let n := m₁ * 2 ^ k
  f.round rm neg (2 * (n / m₂) + (if n % m₂ = 0 then 0 else 1)) (e₁ - e₂ - k - 1)

def FpFormat.div (f : FpFormat) (rm : Rounding) (a b : FpVal) : FpRes :=
  match a, b with
  | .inf _, .inf _ => f.nan flagNV
  | .inf n, .fin n' _ _ => ⟨f.signed (n != n') f.infBits, 0⟩
  | .fin n _ _, .inf n' => ⟨f.signed (n != n') 0, 0⟩
  | .fin n m e, .fin n' m' e' =>
    if m' = 0 then (if m = 0 then f.nan flagNV else ⟨f.signed (n != n') f.infBits, flagDZ⟩)
    else f.divFin rm (n != n') m e m' e'
  | _, _ => f.nan (flagIf (a.signals || b.signals) flagNV)

/-- The integer square root, by its bits from the `k`-th down: `r` is what the higher ones make. -/
def isqrtFrom (n : Nat) : Nat → Nat → Nat
  | 0, r => r
  | k + 1, r => isqrtFrom n k (if (r + 2 ^ k) * (r + 2 ^ k) ≤ n then r + 2 ^ k else r)
def isqrt (n : Nat) : Nat := isqrtFrom n (n.log2 / 2 + 1) 0

def FpFormat.sqrt (f : FpFormat) (rm : Rounding) (a : FpVal) : FpRes :=
  match a with
  | .nan q => f.nan (flagIf (!q) flagNV)
  | .inf n => if n then f.nan flagNV else ⟨f.infBits, 0⟩
  | .fin n m e =>
    if m = 0 then ⟨f.signed n 0, 0⟩
    else if n then f.nan flagNV
    else
      let odd := (e % 2).toNat
      let k := f.fracBits + 3
      let v := m * 2 ^ (odd + 2 * k)
      let r := isqrt v
      f.round rm false (2 * r + (if r * r = v then 0 else 1)) ((e - odd) / 2 - k - 1)

/-! ## Comparisons -/

/-- `a < b` for values that are no NaNs; zeros are equal. -/
def FpVal.lt : FpVal → FpVal → Bool
  | .inf n, .inf n' => n && !n'
  | .inf n, _ => n
  | _, .inf n => !n
  | .fin n m e, .fin n' m' e' =>
    let k := min e e'
    decide (signedInt n (m * 2 ^ (e - k).toNat) < signedInt n' (m' * 2 ^ (e' - k).toNat))
  | _, _ => false

def FpVal.isNeg : FpVal → Bool
  | .nan _ => false
  | .inf n => n
  | .fin n _ _ => n

/-- The first operand is the minimum: less, or equal and negative. -/
def FpVal.first (a b : FpVal) : Bool := a.lt b || (!b.lt a && a.isNeg)

/-- The class, as the number of its bit in the result of FCLASS. -/
def FpFormat.classOf (f : FpFormat) : FpVal → Nat
  | .nan q => if q then 9 else 8
  | .inf n => if n then 0 else 7
  | .fin n m _ =>
    if m = 0 then (if n then 3 else 4)
    else if m < 2 ^ f.fracBits then (if n then 2 else 5)
    else (if n then 1 else 6)

/-! ## Integers -/

/-- The integer nearest to a value in the rounding mode, within `lo` to `hi`; out of range, the bound on its side and NV; a NaN gives `hi`. -/
def toInteger (rm : Rounding) (lo hi : Int) : FpVal → Int × BitVec 5
  | .nan _ => (hi, flagNV)
  | .inf n => (if n then lo else hi, flagNV)
  | .fin n m e =>
    let r := quantize rm n m e 0
    let i := signedInt n r.1
    if i < lo then (lo, flagNV) else if hi < i then (hi, flagNV) else (i, flagIf r.2 flagNX)

end Sys2Proof.Machine
end

