-- ==== Sys2Proof/Machine/FpCompute.lean ====
section
/-!
DEFINITION. Machine/FpCompute.lean: the computational, conversion, move and compare instructions of F, D, Zfh and Zfhmin. 46_fp_loadstore R283 gives them no row of the
opcode table and leaves encodings and meanings to the ratified ISA (92 D1; log 45); those that write an x register zero its tag and metadata (43_base_integer R231).
-/
namespace Sys2Proof.Machine
open Sys2Proof

/-! ## Syntax -/

/-- An integer type: 32 or 64 bits, signed or not. -/
inductive FpInt where
  | w
  | wu
  | l
  | lu
  deriving DecidableEq, Repr

inductive FpOp where
  | add | sub | mul | div | sqrt
  | madd | msub | nmsub | nmadd
  | sgnj | sgnjn | sgnjx | min | max
  | le | lt | eq | class
  | cvtFrom (src : FpFormat) | cvtToInt (k : FpInt) | cvtFromInt (k : FpInt)
  | mvToX | mvFromX
  deriving DecidableEq, Repr

/-- An instruction: operation, format, destination, sources (f or x registers), rounding mode field. -/
structure FpInstr where
  op : FpOp
  fmt : FpFormat
  rd : Reg
  rs1 : Reg
  rs2 : Reg
  rs3 : Reg
  rm : BitVec 3
  deriving DecidableEq, Repr

/-! ## Decoding -/

/-- The format a field names, if the implementation has it; quad precision it has not. -/
def fpFormatOf (p : Params) (f : BitVec 2) : Option FpFormat :=
  if !p.hasF then none
  else if f = 0 then some .single
  else if f = 1 ∧ p.hasD then some .double
  else if f = 2 ∧ p.halfMoves then some .half
  else none

def fpIntOf (c : Ctx) (n : Nat) : Option FpInt := if c.x64 then [FpInt.w, .wu, .l, .lu][n]? else [FpInt.w, .wu][n]?

/-- OP-FP, by funct5, rs2 and funct3. -/
def fpOpOf (c : Ctx) (fmt : FpFormat) (f5 : BitVec 5) (b : Reg) (f3 : BitVec 3) : Option FpOp :=
  let zero := fun (o : FpOp) => if b = 0 then some o else none
  let moves := c.x64 || fmt != .double
  if f5 = 0 then some .add else if f5 = 1 then some .sub else if f5 = 2 then some .mul else if f5 = 3 then some .div
  else if f5 = 11 then zero .sqrt
  else if f5 = 4 then [FpOp.sgnj, .sgnjn, .sgnjx][f3.toNat]?
  else if f5 = 5 then [FpOp.min, .max][f3.toNat]?
  else if f5 = 20 then [FpOp.le, .lt, .eq][f3.toNat]?
  else if f5 = 8 then
    (if b.toNat < 4 then (fpFormatOf c.cfg (b.extractLsb' 0 2)).filter (· != fmt) else none).map .cvtFrom
  else if f5 = 24 then (fpIntOf c b.toNat).map .cvtToInt
  else if f5 = 26 then (fpIntOf c b.toNat).map .cvtFromInt
  else if f5 = 28 then (if f3 = 0 ∧ moves then zero .mvToX else if f3 = 1 then zero .class else none)
  else if f5 = 30 then (if f3 = 0 ∧ moves then zero .mvFromX else none)
  else none

/-- The operation rounds: its funct3 is a rounding mode. -/
def FpOp.rounds : FpOp → Bool
  | .add | .sub | .mul | .div | .sqrt | .madd | .msub | .nmsub | .nmadd | .cvtFrom _ | .cvtToInt _ | .cvtFromInt _ => true
  | .sgnj | .sgnjn | .sgnjx | .min | .max | .le | .lt | .eq | .class | .mvToX | .mvFromX => false
/-- Its destination, and its first source, is an x register. -/
def FpOp.toX : FpOp → Bool
  | .le | .lt | .eq | .class | .cvtToInt _ | .mvToX => true
  | _ => false
def FpOp.fromX : FpOp → Bool
  | .cvtFromInt _ | .mvFromX => true
  | _ => false

/-- The rounding mode field is assigned; 7 asks for frm. -/
def rmAssigned (rm : BitVec 3) : Bool := rm.toNat ≤ 4 || rm == 7

/-- Of the instructions on half precision, those that Zfhmin has without Zfh: the moves, and the conversions from another format (those to one are of that
format; log 45). -/
def FpOp.inZfhmin : FpOp → Bool
  | .mvToX | .mvFromX | .cvtFrom _ => true
  | _ => false

/-- The registers exist (30_encoding R139), the rounding mode is assigned, and a half-precision operation is one the implementation has. -/
def FpInstr.wellFormed (c : Ctx) (i : FpInstr) : Bool :=
  (!i.op.rounds || rmAssigned i.rm) && (!i.op.toX || c.reg i.rd) && (!i.op.fromX || c.reg i.rs1) &&
    (i.fmt != .half || c.cfg.hasZfh || i.op.inZfhmin)

/-- The instruction a word is, where it is none of the opcode table's. -/
def decodeFp (c : Ctx) (e : Enc) : Option FpInstr :=
  match e with
  | .half _ => none
  | .word w =>
    (fpFormatOf c.cfg (w.extractLsb' 25 2)).bind fun fmt =>
    ((if opc w = 0x43 then some .madd else if opc w = 0x47 then some .msub else if opc w = 0x4B then some .nmsub
      else if opc w = 0x4F then some .nmadd
      else if opc w = 0x53 then fpOpOf c fmt (fF5 w) (fRs2 w) (fF3 w) else none : Option FpOp).map fun o =>
        ⟨o, fmt, fRd w, fRs1 w, fRs2 w, w.extractLsb' 27 5, fF3 w⟩).filter (·.wellFormed c)

/-! ## Meaning -/

/-- FLEN in bytes. -/
def flenBytes (p : Params) : Nat := if p.hasD then 8 else 4

/-- The bits of an operand: of a narrower value that is not NaN-boxed, the canonical NaN. -/
def State.fpBits (s : State) (f : FpFormat) (i : Reg) : Nat :=
  let v := (s.rf i).toNat % 2 ^ (8 * flenBytes s.cfg)
  if v / 2 ^ (8 * f.bytes) = 2 ^ (8 * (flenBytes s.cfg - f.bytes)) - 1 then v % 2 ^ (8 * f.bytes) else f.nanBits
def State.fpVal (s : State) (f : FpFormat) (i : Reg) : FpVal := f.value (s.fpBits f i)

/-- The rounding mode of an instruction, if there is one: its field, or frm. -/
def State.rounding (s : State) (rm : BitVec 3) : Option Rounding := roundingOf (if rm = 7 then s.csr.fcsr.toNat / 32 else rm.toNat)

/-- The bounds of an integer type, and an integer as an XLEN-bit result: 32-bit results are sign-extended. -/
def FpInt.bounds : FpInt → Int × Int
  | .w => (-2 ^ 31, 2 ^ 31 - 1)
  | .wu => (0, 2 ^ 32 - 1)
  | .l => (-2 ^ 63, 2 ^ 63 - 1)
  | .lu => (0, 2 ^ 64 - 1)
def FpInt.result (k : FpInt) (i : Int) : Word :=
  match k with
  | .w | .wu => sext32 (BitVec.ofInt 64 i)
  | .l | .lu => BitVec.ofInt 64 i
/-- The integer in a register. -/
def FpInt.operand (k : FpInt) (v : Word) : Int :=
  match k with
  | .w => (sext32 v).toInt
  | .wu => (zext32 v).toNat
  | .l => v.toInt
  | .lu => v.toNat

/-- FMIN and FMAX: the number where the other operand is a NaN. -/
def fpMinMax (f : FpFormat) (a b : Nat) (first : Bool) : FpRes :=
  let x := f.value a
  let y := f.value b
  ⟨if x.isNan && y.isNan then f.nanBits else if x.isNan then b else if y.isNan then a else if first then a else b,
    flagIf (x.signals || y.signals) flagNV⟩

/-- The result in an f register. -/
def State.fpResult (s : State) (i : FpInstr) (rm : Rounding) : FpRes :=
  let f := i.fmt
  let a := s.fpVal f i.rs1
  let b := s.fpVal f i.rs2
  let c := s.fpVal f i.rs3
  let ab := s.fpBits f i.rs1
  let bb := s.fpBits f i.rs2
  let top := 2 ^ f.signBit
  match i.op with
  | .add => f.add rm a b
  | .sub => f.add rm a b.neg
  | .mul => f.mul rm a b
  | .div => f.div rm a b
  | .sqrt => f.sqrt rm a
  | .madd => f.fma rm a b c
  | .msub => f.fma rm a b c.neg
  | .nmsub => f.fma rm a.neg b c
  | .nmadd => f.fma rm a.neg b c.neg
  | .sgnj => ⟨ab % top + bb / top * top, 0⟩
  | .sgnjn => ⟨ab % top + (1 - bb / top) * top, 0⟩
  | .sgnjx => ⟨ab % top + (ab / top + bb / top) % 2 * top, 0⟩
  | .min => fpMinMax f ab bb (a.first b)
  | .max => fpMinMax f ab bb (!a.first b)
  | .cvtFrom src =>
    let v := s.fpVal src i.rs1
    if v.isNan then f.nan (flagIf v.signals flagNV) else f.ofVal rm v
  | .cvtFromInt k => let v := k.operand (s.rx i.rs1); f.round rm (decide (v < 0)) v.natAbs 0
  | .mvFromX => ⟨(s.rx i.rs1).toNat % 2 ^ (8 * f.bytes), 0⟩
  | .le | .lt | .eq | .class | .cvtToInt _ | .mvToX => ⟨0, 0⟩

/-- The result in an x register, and the flags. -/
def State.fpXResult (s : State) (i : FpInstr) (rm : Rounding) : Word × BitVec 5 :=
  let f := i.fmt
  let a := s.fpVal f i.rs1
  let b := s.fpVal f i.rs2
  let nan := a.isNan || b.isNan
  match i.op with
  | .le => (ofBit (!nan && !b.lt a), flagIf nan flagNV)
  | .lt => (ofBit (!nan && a.lt b), flagIf nan flagNV)
  | .eq => (ofBit (!nan && !a.lt b && !b.lt a), flagIf (a.signals || b.signals) flagNV)
  | .class => (1#64 <<< f.classOf a, 0)
  | .cvtToInt k => let r := toInteger rm k.bounds.1 k.bounds.2 a; (k.result r.1, r.2)
  | .mvToX => (sextBytes f.bytes (s.rf i.rs1), 0)
  | _ => (0, 0)

/-- The flags accrue in fcsr; a flag that is raised makes FS Dirty (log 26). -/
def State.accrue (s : State) (fl : BitVec 5) : State :=
  if fl = 0 then s else { s with csr := { s.csr with fcsr := s.csr.fcsr ||| fl.setWidth 8 } }.fsDirty

/-- The meaning of every such instruction: illegal with FS Off, or where it rounds by a reserved rounding mode; else the result, NaN-boxed in an f register or with
tag and metadata zeroed in an x register, and the flags (R283). -/
def State.fpCompute (s : State) (i : FpInstr) : Res State :=
  (Res.check (!s.fsOff) illegal).bind fun _ =>
  match (if i.op.rounds then s.rounding i.rm else some .nearestEven) with
  | none => .exc illegal
  | some rm =>
    if i.op.toX then .ok (((s.wx i.rd (s.fpXResult i rm).1).accrue (s.fpXResult i rm).2).advance 4)
    else
      let r := s.fpResult i rm
      .ok ((((s.wf i.rd (nanBox s.cfg i.fmt.bytes (BitVec.ofNat 64 r.bits))).fsDirty).accrue r.flags).advance 4)

def execFp (i : FpInstr) (s : State) : Out := (s.fpCompute i).run s

end Sys2Proof.Machine
end

