-- ==== Sys2Proof/Machine/Fetch.lean ====
section
/-!
DEFINITION. Machine/Fetch.lean: the fetch of an instruction under pcc (10_state R42, 20_memory R108, 30_encoding R130, R131), the choice of an interrupt
(60_exceptions R371), the commands and the program buffer of debug mode (R393, R396; log 9, log 42), and single step (R395; log 25).
-/
namespace Sys2Proof.Machine
open Sys2Proof

/-- What decoding depends on, now (30_encoding R131, R137). -/
def State.ctx (s : State) : Ctx := ⟨s.cfg, s.capMode, s.cur64, s.csr.misaC⟩

/-! ## Fetch -/

/-- The address two bytes on, modulo 2^XLEN. -/
def State.nextParcel (s : State) (a : Word) : Word := s.cutX (a + 2)

/-- The checks on pcc itself (R42): tag, seal, X-permission. -/
def State.pccCheck (s : State) : Res Unit :=
  if !s.pcc.tag then .exc (cheri 0 0)
  else if s.pcc.s s.cfg then .exc (cheri 0 1)
  else if !(s.pcc.perms s.cfg).x then .exc (cheri 0 2)
  else .ok ()

/-- The first `n` bytes of the instruction are in pcc's bounds (R42, R108); the check uses the whole address field (11_csrs R90). -/
def State.pccLength (s : State) (n : Nat) : Res Unit := Res.check (s.pcc.inBounds s.cfg s.pcc.addr n) (cheri 0 3)

/-- Where a parcel's bytes are: translation of the fetch address, then the physical check (R367). -/
def State.parcelBytes (s : State) (va : Word) : Res (List Nat) :=
  (s.translateAs s.priv .fetch va).bind fun x => (pmaCheck s.cfg .fetch va (span x.pa 2)).bind fun _ => .ok (span x.pa 2)

/-- One 16-bit parcel, little-endian (30_encoding R130). -/
def State.parcel (s : State) (va : Word) : Res (BitVec 16) :=
  (s.parcelBytes va).bind fun as => .ok (BitVec.ofNat 16 (leNat (s.loadList as)))

/-- The fetch of a whole instruction, in the order of R367: breakpoint, pcc, first parcel, length, second parcel (R131, R108). -/
def State.fetch (s : State) : Res Enc :=
  (s.bpCheck .fetch s.fetchAddr).bind fun _ =>
  s.pccCheck.bind fun _ =>
  (s.pccLength 2).bind fun _ =>
  (s.parcel s.fetchAddr).bind fun p =>
  if isHalf p then .ok (.half p)
  else if p.extractLsb' 2 3 = 7 then .exc illegal
  else
    (s.pccLength 4).bind fun _ =>
    (s.parcel (s.nextParcel s.fetchAddr)).bind fun q => .ok (.word (q ++ p))

/-! ## Running one encoding -/

/-- Decode and run; what does not decode is an illegal instruction (30_encoding R140, R141). The computational instructions that have no row of the opcode table
come after those that have (43_base_integer R231, 46_fp_loadstore R283; log 41, log 45). -/
def State.runEnc (s : State) (e : Enc) : Host.Outcome State Fault Refusal :=
  match decodeEnc s.ctx e with
  | .ok i => exec i s
  | .error _ =>
    match decodeExt s.ctx e with
    | some x => execExt x s
    | none =>
      match decodeFp s.ctx e with
      | some f => execFp f s
      | none => .next (takeException s illegal)

/-- After an instruction the next free value is another one (log 8). -/
def tickNext (o : Host.Outcome State Fault Refusal) : Host.Outcome State Fault Refusal :=
  match o with
  | .next t => .next t.tick
  | .fault f => .fault f
  | .refused r => .refused r

/-- Fetch, decode and run the instruction at pcc. -/
def State.runNext (s : State) : Host.Outcome State Fault Refusal :=
  tickNext (match s.fetch with
    | .ok e => s.runEnc e
    | .exc e => .next (takeException s e)
    | .halt => .next (s.enterDebug 2))

/-! ## Debug mode: abstract commands, the program buffer, resuming (60_exceptions R393, R396; log 9, log 42) -/

/-- What an Access Register command reads and writes: a general register's integer, a floating-point register, a CSR. The numbers are the debug specification's. -/
def State.readDebugReg (s : State) (n : BitVec 16) : Res (Word × State) :=
  if n.toNat / 32 = 0x80 ∧ (!s.cfg.hasE || !n.getLsbD 4) = true then .ok (s.rx (n.extractLsb' 0 5), s)
  else if n.toNat / 32 = 0x81 ∧ s.cfg.hasF = true then .ok (s.rf (n.extractLsb' 0 5), s)
  else if n.toNat < 0x1000 then
    (s.csrCheck (n.extractLsb' 0 12) false).bind fun r =>
    match r with
    | .wide c | .alias_ c => .ok ((s.readCapCsr c).addr, s)
    | .plain x => .ok (s.readX x, s.afterRead x)
  else .exc illegal

def State.writeDebugReg (s : State) (n : BitVec 16) (v : Word) : Res State :=
  if n.toNat / 32 = 0x80 ∧ (!s.cfg.hasE || !n.getLsbD 4) = true then .ok (s.wx (n.extractLsb' 0 5) v)
  else if n.toNat / 32 = 0x81 ∧ s.cfg.hasF = true then .ok ((s.wf (n.extractLsb' 0 5) (if s.cfg.hasD then v else zext32 v)).fsDirty)
  else if n.toNat < 0x1000 then (s.csrCheck (n.extractLsb' 0 12) true).bind fun r => .ok (s.csrPutX r .write v)
  else .exc illegal

/-- The transfer of a command, in 32 or 64 bits; 64 bits are an error where XLENMAX is 32. A 32-bit write to a register extends the value by its sign. -/
def State.transfer (s : State) (c : DebugCmd) : Res State :=
  if !c.transfer then .ok s
  else if c.size64 && !s.cfg.xlenmax64 then .exc illegal
  else if c.write then s.writeDebugReg c.regno (if c.size64 then s.debugData else sext32 s.debugData)
  else (s.readDebugReg c.regno).bind fun (v, t) => .ok { t with debugData := if c.size64 then v else putMask s.debugData 0xFFFFFFFF v }

/-- A command is used up; after an earlier error it is dropped; one that fails reports an error; else the program buffer it names runs next. -/
def State.runCommand (s : State) (c : DebugCmd) : State :=
  if s.cmdErr then { s with command := none }
  else match s.transfer c with
    | .ok t => { t with command := none, progBuf := c.postexec }
    | _ => { s with command := none, cmdErr := true }

/-- Debug mode with no instruction of a program buffer left: a command, else a resume request, else the hart waits. -/
def State.debugIdle (s : State) : Host.Outcome State Fault Refusal :=
  match s.command with
  | some c => .next (s.runCommand c)
  | none => .next (if s.resumeReq then s.leaveDebug else s)

/-- Debug mode: the next instruction of the program buffer (R396; log 9). It follows in the buffer also after a taken jump or branch, which changes pcc alone: 43_base_integer
R200 does not say (DESIGN CHOICE, log 9). A 32-bit instruction of which the buffer holds only the first parcel is an illegal instruction, so the buffer ends with an error;
a buffer that ends after a whole instruction ends without one: R396 takes the buffer from Sdext, which the source does not describe (DESIGN CHOICE, log 9). -/
def State.runBuffer (s : State) : Host.Outcome State Fault Refusal :=
  match s.progBuf with
  | [] => s.debugIdle
  | p :: rest =>
    tickNext (if isHalf p then { s with progBuf := rest }.runEnc (.half p)
      else match rest with
        | q :: rest => { s with progBuf := rest }.runEnc (.word (q ++ p))
        | [] => .next (takeException s illegal))

/-! ## Interrupts -/

/-- The order among the interrupts for one mode: MEI, MSI, MTI, SEI, SSI, STI, then the platform's by number (R371; log 11). -/
def interruptOrder : List Nat := [11, 3, 7, 9, 1, 5] ++ (List.range 48).map (16 + ·)

/-- Interrupts for M-mode, and for S-mode, can be taken now (R371). -/
def State.takesM (s : State) : Bool := s.priv != .machine || s.st mieBit
def State.takesS (s : State) : Bool :=
  s.cfg.hasS &&
    match s.priv with
    | .user => true
    | .supervisor => s.st sieBit
    | .machine => false

/-- The pending, enabled interrupts for M-mode, and those for S-mode (R371). -/
def State.pendingM (s : State) : Word := s.mipVal &&& s.csr.mie &&& ~~~s.csr.mideleg
def State.pendingS (s : State) : Word := s.mipVal &&& s.csr.mie &&& s.csr.mideleg

/-- The first in order. -/
def firstInterrupt (v : Word) : Option Nat := interruptOrder.find? fun i => v.getLsbD i

/-- The state at the handler of the interrupt to be taken now, if there is one: M-mode's first (R371, R373, R374). -/
def State.interrupt (s : State) : Option State :=
  match (if s.takesM then firstInterrupt s.pendingM else none) with
  | some i => some (s.trapM true i 0)
  | none => (if s.takesS then firstInterrupt s.pendingS else none).map fun i => s.trapS true i 0

/-! ## Single step -/

/-- dcsr.step is set, and interrupts are held off while stepping: dcsr.stepie is clear (log 25). -/
def State.stepping (s : State) : Bool := s.cfg.hasSdext && s.csr.dcsr.getLsbD 2
def State.holdsInterrupts (s : State) : Bool := s.stepping && !s.csr.dcsr.getLsbD 11

/-- After a step outside debug mode, dcsr.step enters debug mode with cause 4 (R395). -/
def afterStep (stepping : Bool) (o : Host.Outcome State Fault Refusal) : Host.Outcome State Fault Refusal :=
  match o with
  | .next t => .next (if stepping && !t.debug then t.enterDebug 4 else t)
  | .fault f => .fault f
  | .refused r => .refused r

/-- Outside debug mode: an interrupt if one is to be taken, else the next instruction (R371). -/
def State.runHart (s : State) : Host.Outcome State Fault Refusal :=
  afterStep s.stepping
    (match (if s.holdsInterrupts then none else s.interrupt) with
    | some t => .next t
    | none => s.runNext)

/-! ## Placing an instruction where the next step fetches it (log 35) -/

/-- Write bytes at the physical address a fetch address translates to: an external write, which clears the tags of the granules it touches and a reservation
it overlaps (20_memory R123; log 35). -/
def State.placeBytes (s : State) (va : Word) (bs : List Byte) : State :=
  match s.translateAs s.priv .fetch va with
  | .ok x => s.storeBytes (span x.pa bs.length) bs
  | _ => s

/-- The bytes of a word in two parcels at the next fetch address, or as the program buffer in debug mode. -/
def State.placeWord (s : State) (bs : List Byte) : State :=
  if s.debug then
    let v := leNat bs
    let p := BitVec.ofNat 16 v
    { s with progBuf := if isHalf p then [p] else [p, BitVec.ofNat 16 (v / 65536)] }
  else (s.placeBytes s.fetchAddr (bs.take 2)).placeBytes (s.nextParcel s.fetchAddr) (bs.drop 2)

end Sys2Proof.Machine
end

