-- ==== Sys2Proof/Machine/Step.lean ====
section
/-!
DEFINITION. Machine/Step.lean: one step of the hart, and the placing of an instruction where the next step fetches it.
-/
namespace Sys2Proof.Machine
open Sys2Proof

/-- One step: in debug mode the program buffer or the debugger's requests; else a halt request, with cause 3, or 5 since reset; else an interrupt, or the
instruction at pcc (60_exceptions R371, R395, R396; the causes are the debug specification's, log 7). That a halt request comes before an interrupt no rule says
(log 9). -/
def step (s : State) : Host.Outcome State Fault Refusal :=
  if s.debug then s.runBuffer
  else if s.haltReq && s.cfg.hasSdext then .next (s.enterDebug (if s.resetHalt then 5 else 3))
  else s.runHart

/-- `s` with a word, the bits from `nbits` on zero, where `step` fetches its next instruction (log 35). -/
def State.withFetchWord (s : State) (nbits w : Nat) : State := s.placeWord (tableBytes nbits w)

end Sys2Proof.Machine
end

