-- ==== Sys2Proof/Safety.lean ====
section
/-!
DEFINITION. Safety.lean: the terms in which claims about runs are made: the invariant of every step, what a step leaves alone, and when an access is allowed.
-/
namespace Sys2Proof.Machine
open Sys2Proof

/-! ## The invariant -/

/-- A privilege mode the implementation has (60_exceptions R390). -/
def Priv.present (p : Params) : Priv → Bool
  | .user => p.hasU
  | .supervisor => p.hasS
  | .machine => true

/-- Bit 0 of the address is clear: an instruction can stand there (10_state R43, 11_csrs R69). -/
def Cap.even (k : Cap) : Bool := !k.addr.getLsbD 0

/-- What every step keeps: memory in its canonical form (log 6); pcc outside debug mode, and the saved pcs, even (10_state R43, 11_csrs R69, R75); jvtc's mode the
one that is defined (R78); a privilege mode that exists (60_exceptions R390); debug mode only with Sdext (R393); a trigger for debug mode is one that only debug
mode writes (R395; log 37). -/
def State.Inv (s : State) : Prop :=
  s.mem.wf = true ∧ (s.debug = false → s.pcc.even = true) ∧ s.csr.mepcc.even = true ∧ s.csr.sepcc.even = true ∧
    s.csr.jvtc.addr &&& 63 = 0 ∧ s.priv.present s.cfg = true ∧ (s.debug = true → s.cfg.hasSdext = true) ∧
    (s.triggers.all fun b => !b.toDebug || b.dmode) = true

/-- Every capability in a register or a CSR, and every tagged granule of memory, is lawful (10_state R34 (a) to (c)). Every step keeps this too; that the base
does not lie above the top (R34 (d)) no step keeps in debug mode, where pcc's address moves without a check (60_exceptions R396). -/
def State.CapInv (s : State) : Prop :=
  (∀ i, (s.rc i).lawful s.cfg = true) ∧ s.pcc.lawful s.cfg = true ∧ (∀ c, (s.rawCapCsr c).lawful s.cfg = true) ∧
    ∀ g, s.mem.tagOf g = true →
      (bytesToCap s.cfg true (s.mem.readList (span (g * s.cfg.capBytes) s.cfg.capBytes))).lawful s.cfg = true

/-- A step is safe when it stops neither with a fault nor with a refusal. -/
def State.Goes (s : State) : Prop := ∃ t, step s = .next t

/-! ## Frames -/

/-- pcc moved on by `n` bytes, its tag and metadata unchanged (10_state R43) unless pcc cannot hold the address (11_csrs R93). -/
def State.nextPcc (s : State) (n : Nat) : Cap := Cap.hold s.cfg .pcc { s.pcc with addr := s.toX (s.pc + BitVec.ofNat 64 n) }

/-- c[rd] holds `k`, unless rd is 0, and every other register what it held (10_state R38). -/
def State.regUpdate (s t : State) (rd : Reg) (k : Cap) : Prop := ∀ j : Reg, t.rc j = if j = rd ∧ j ≠ 0 then k else s.rc j

/-- Every part of the state is as before, but for the general registers and pcc. -/
def State.sameButRegs (s t : State) : Prop := { t with regs := s.regs, pcc := s.pcc } = s

/-- Only c[rd] and pcc changed. -/
def State.wrote (s t : State) (rd : Reg) (k pcc' : Cap) : Prop := t.pcc = pcc' ∧ s.regUpdate t rd k ∧ s.sameButRegs t

/-- What an integer result leaves in a register (10_state R39; 11_csrs R90 where XLEN is less than XLENMAX). -/
def State.intCap (s : State) (v : Word) : Cap := ⟨false, 0, s.toX v⟩

/-- Bytes, tags and reservation after a store of integer data to the bytes `as`: the bytes hold `bs`, every other byte is unchanged; the tags of the granules
touched are 0, the others unchanged; an overlapping reservation is lost (20_memory R98, 44_atomics R250). -/
def State.storedAt (s t : State) (as : List Nat) (bs : List Byte) : Prop :=
  t.mem.readList as = bs ∧ (∀ a, a ∉ as → t.mem.readByte a = s.mem.readByte a) ∧
    (∀ g, t.mem.tagOf g = (s.mem.tagOf g && !as.any fun a => a / s.cfg.capBytes == g)) ∧ t.resv = resvAfter s.resv as

/-- Bytes and tags after a capability-wide store at `a`: the granule holds `k`, every other byte and tag is unchanged (20_memory R99). -/
def State.capStoredAt (s t : State) (a : Nat) (k : Cap) : Prop :=
  t.mem.readList (span a s.cfg.capBytes) = capToBytes s.cfg k ∧
    (∀ b, b ∉ span a s.cfg.capBytes → t.mem.readByte b = s.mem.readByte b) ∧
    (∀ g, t.mem.tagOf g = if g = a / s.cfg.capBytes then k.tag else s.mem.tagOf g) ∧
    t.resv = resvAfter s.resv (span a s.cfg.capBytes)

/-- Every part of the state is as before, but for memory, the reservation, the general registers and pcc. -/
def State.sameButMem (s t : State) : Prop := { t with mem := s.mem, resv := s.resv, regs := s.regs, pcc := s.pcc } = s

/-- Every part of the state is as before, but for the floating-point registers, mstatus.FS, which is Dirty, and pcc (log 26). -/
def State.sameButFp (s t : State) : Prop :=
  { t with fregs := s.fregs, pcc := s.pcc, csr := { t.csr with mstatus := s.csr.mstatus } } = s ∧
    t.csr.mstatus = s.csr.mstatus ||| 0x6000

/-- Every part of the state is as before, but for the general and the floating-point registers, the accrued exception flags `fl`, mstatus.FS, which is Dirty where a
flag is raised or `dirty`, and pcc (46_fp_loadstore R283; log 26). -/
def State.sameButFlags (s t : State) (fl : BitVec 5) (dirty : Bool) : Prop :=
  { t with regs := s.regs, fregs := s.fregs, pcc := s.pcc, csr := { t.csr with mstatus := s.csr.mstatus, fcsr := s.csr.fcsr } } = s ∧
    t.csr.fcsr = s.csr.fcsr ||| fl.setWidth 8 ∧
    t.csr.mstatus = (if dirty ∨ fl ≠ 0 then s.csr.mstatus ||| 0x6000 else s.csr.mstatus)

/-! ## When an access is allowed -/

/-- No trigger matches and the authority permits the access (20_memory R105, 60_exceptions R367). -/
def State.permits (s : State) (auth : Cap) (ea : Word) (n : Nat) (kind : Acc) : Prop :=
  s.bpHit kind ea = false ∧ auth.tag = true ∧ auth.s s.cfg = false ∧
    ((kind = .load ∨ kind = .atomic) → (auth.perms s.cfg).r = true) ∧
    ((kind = .store ∨ kind = .atomic) → (auth.perms s.cfg).w = true) ∧ s.covers auth ea n = true

/-- The physical address of each byte of an access: aligned, from one translation; misaligned, where the implementation allows that, byte by byte
(20_memory R102, R112; log 33). -/
def State.located (s : State) (ea : Word) (n : Nat) (kind : Acc) (al : Align) (as : List Nat) : Prop :=
  (ea.toNat % n = 0 ∧ ∃ x, s.translate kind ea = .ok x ∧ as = span x.pa n) ∨
    (ea.toNat % n ≠ 0 ∧ al = .plain ∧ s.cfg.misalignedIntOk = true ∧ s.translateBytes kind ea 0 n = .ok as)

/-- The access completes on the bytes `as`, none of them vacant (20_memory R106, R111). -/
def State.canAccess (s : State) (auth : Cap) (ea : Word) (n : Nat) (kind : Acc) (al : Align) (as : List Nat) : Prop :=
  s.permits auth ea n kind ∧ s.located ea n kind al as ∧ ∀ a ∈ as, Params.isMapped s.cfg a = true

/-- The Zcheri_pte page rules let a capability-wide store of `v` go on unchanged, with no entry to update: they are not in force, or CW is set and CD
need not change (20_memory R120). -/
def State.cwQuiet (s : State) (auth : Cap) (leaf : Option (Nat × Word)) (v : Cap) : Prop :=
  s.cwPages = false ∨ leaf = none ∨
    ∃ a pte, leaf = some (a, pte) ∧ pte.getLsbD 59 = true ∧
      (s.cde = false ∨ pte.getLsbD 60 = true ∨ (v.tag && (auth.perms s.cfg).w && (auth.perms s.cfg).c) = false)

/-- The value a capability-wide store leaves at `pa` under R107 and R110: the tag survives with W- and C-permission, in taggable memory. -/
def State.storedCap (s : State) (auth : Cap) (pa : Nat) (v : Cap) : Cap :=
  { v with tag := v.tag && (auth.perms s.cfg).w && (auth.perms s.cfg).c && Params.isTaggable s.cfg pa }

/-- A capability-wide store of `v` completes at `pa`: permitted, aligned, translated, not to vacant bytes, the page rules quiet, and a value that stays tagged goes to
taggable memory unless the implementation strips such tags (20_memory R101, R105, R106, R110, R120). -/
def State.canStoreCap (s : State) (auth : Cap) (ea : Word) (v : Cap) (kind : Acc) (pa : Nat) : Prop :=
  s.permits auth ea s.cfg.capBytes kind ∧ ea.toNat % s.cfg.capBytes = 0 ∧
    (∃ x, s.translate kind ea = .ok x ∧ x.pa = pa ∧ s.cwQuiet auth x.leaf v) ∧
    (∀ a ∈ span pa s.cfg.capBytes, Params.isMapped s.cfg a = true) ∧
    (s.cfg.taggedToUntaggable = .strip ∨ Params.isTaggable s.cfg pa = true ∨
      (v.tag && (auth.perms s.cfg).w && (auth.perms s.cfg).c) = false)

end Sys2Proof.Machine
end

