-- ==== Sys2Proof/Certificates/Slice0/Obligations.lean ====
section
/-!
DEFINITION. Certificates/Slice0/Obligations.lean: the statements for the provers, after the tables they speak of: which register, address, width or value
each instruction of a group works with, written from the spec's rules and not from the meanings.
-/
namespace Sys2Proof.Machine
open Sys2Proof

/-! ## Tables -/

/-- A context decoding can meet: XLEN 64 needs XLENMAX 64, and Capability mode needs XLEN = XLENMAX (11_csrs R65, R88, R90). -/
def ctxSane (c : Ctx) : Prop := (c.x64 = true → c.cfg.xlenmax64 = true) ∧ (c.cap = true → c.x64 = c.cfg.xlenmax64)

/-- Integer loads: rd, address register, offset, width, signed, length of the encoding (43_base_integer R216 to R222, 47_compressed R296 to R299, R316 to R318). -/
def intLoadTable : Instr → Option (Reg × Reg × Word × Nat × Bool × Nat)
  | .lb d a i => some (d, a, i.signExtend 64, 1, true, 4)
  | .lbu d a i => some (d, a, i.signExtend 64, 1, false, 4)
  | .lh d a i => some (d, a, i.signExtend 64, 2, true, 4)
  | .lhu d a i => some (d, a, i.signExtend 64, 2, false, 4)
  | .lw d a i => some (d, a, i.signExtend 64, 4, true, 4)
  | .lwu d a i => some (d, a, i.signExtend 64, 4, false, 4)
  | .ld d a i => some (d, a, i.signExtend 64, 8, true, 4)
  | .cLw d a o => some (d.reg, a.reg, o.setWidth 64 <<< 2, 4, true, 2)
  | .cLd d a o => some (d.reg, a.reg, o.setWidth 64 <<< 3, 8, true, 2)
  | .cLwsp d o => some (d, 2, o.setWidth 64 <<< 2, 4, true, 2)
  | .cLdsp d o => some (d, 2, o.setWidth 64 <<< 3, 8, true, 2)
  | .cLbu d a o => some (d.reg, a.reg, o.setWidth 64, 1, false, 2)
  | .cLhu d a o => some (d.reg, a.reg, o.setWidth 64 <<< 1, 2, false, 2)
  | .cLh d a o => some (d.reg, a.reg, o.setWidth 64 <<< 1, 2, true, 2)
  | _ => none

/-- Integer stores: source register, address register, offset, width, length (43_base_integer R224 to R227, 47_compressed R306 to R309, R319, R320). -/
def intStoreTable : Instr → Option (Reg × Reg × Word × Nat × Nat)
  | .sb b a i => some (b, a, i.signExtend 64, 1, 4)
  | .sh b a i => some (b, a, i.signExtend 64, 2, 4)
  | .sw b a i => some (b, a, i.signExtend 64, 4, 4)
  | .sd b a i => some (b, a, i.signExtend 64, 8, 4)
  | .cSw b a o => some (b.reg, a.reg, o.setWidth 64 <<< 2, 4, 2)
  | .cSd b a o => some (b.reg, a.reg, o.setWidth 64 <<< 3, 8, 2)
  | .cSwsp b o => some (b, 2, o.setWidth 64 <<< 2, 4, 2)
  | .cSdsp b o => some (b, 2, o.setWidth 64 <<< 3, 8, 2)
  | .cSb b a o => some (b.reg, a.reg, o.setWidth 64, 1, 2)
  | .cSh b a o => some (b.reg, a.reg, o.setWidth 64 <<< 1, 2, 2)
  | _ => none

/-- Capability loads: rd, address register, offset, length, and whether disabled CHERI register access stops them here: in Capability mode, where the 16-bit forms
decode, it never is disabled (42_cap_loadstore R191, 47_compressed R304, R305). -/
def capLoadTable (p : Params) : Instr → Option (Reg × Reg × Word × Nat × Bool)
  | .lc d a i => some (d, a, i.signExtend 64, 4, true)
  | .cLc d a o => some (d.reg, a.reg, o.setWidth 64 <<< (if p.xlenmax64 then 4 else 3), 2, false)
  | .cLcsp d o => some (d, 2, o.setWidth 64 <<< (if p.xlenmax64 then 4 else 3), 2, false)
  | _ => none

/-- Capability stores, likewise (42_cap_loadstore R192, 47_compressed R314, R315). -/
def capStoreTable (p : Params) : Instr → Option (Reg × Reg × Word × Nat × Bool)
  | .sc b a i => some (b, a, i.signExtend 64, 4, true)
  | .cSc b a o => some (b.reg, a.reg, o.setWidth 64 <<< (if p.xlenmax64 then 4 else 3), 2, false)
  | .cScsp b o => some (b, 2, o.setWidth 64 <<< (if p.xlenmax64 then 4 else 3), 2, false)
  | _ => none

/-- Floating-point loads: frd, address register, offset, width, length (46_fp_loadstore R276 to R278, 47_compressed R300 to R303). -/
def fpLoadTable : Instr → Option (Reg × Reg × Word × Nat × Nat)
  | .flh d a i => some (d, a, i.signExtend 64, 2, 4)
  | .flw d a i => some (d, a, i.signExtend 64, 4, 4)
  | .fld d a i => some (d, a, i.signExtend 64, 8, 4)
  | .cFlw d a o => some (d.reg, a.reg, o.setWidth 64 <<< 2, 4, 2)
  | .cFlwsp d o => some (d, 2, o.setWidth 64 <<< 2, 4, 2)
  | .cFld d a o => some (d.reg, a.reg, o.setWidth 64 <<< 3, 8, 2)
  | .cFldsp d o => some (d, 2, o.setWidth 64 <<< 3, 8, 2)
  | _ => none

/-- Floating-point stores (46_fp_loadstore R280 to R282, 47_compressed R310 to R313). -/
def fpStoreTable : Instr → Option (Reg × Reg × Word × Nat × Nat)
  | .fsh b a i => some (b, a, i.signExtend 64, 2, 4)
  | .fsw b a i => some (b, a, i.signExtend 64, 4, 4)
  | .fsd b a i => some (b, a, i.signExtend 64, 8, 4)
  | .cFsw b a o => some (b.reg, a.reg, o.setWidth 64 <<< 2, 4, 2)
  | .cFswsp b o => some (b, 2, o.setWidth 64 <<< 2, 4, 2)
  | .cFsd b a o => some (b.reg, a.reg, o.setWidth 64 <<< 3, 8, 2)
  | .cFsdsp b o => some (b, 2, o.setWidth 64 <<< 3, 8, 2)
  | _ => none

/-- Integer atomics: rd, rs1, rs2, width, and the new memory value from the old one and the operand (44_atomics R241, R242). -/
def amoTable : Instr → Option (Reg × Reg × Reg × Nat × (Word → Word → Word))
  | .amoswapW d a b _ _ => some (d, a, b, 4, fun _ r => r)
  | .amoaddW d a b _ _ => some (d, a, b, 4, fun m r => m + r)
  | .amoxorW d a b _ _ => some (d, a, b, 4, fun m r => m ^^^ r)
  | .amoandW d a b _ _ => some (d, a, b, 4, fun m r => m &&& r)
  | .amoorW d a b _ _ => some (d, a, b, 4, fun m r => m ||| r)
  | .amominW d a b _ _ => some (d, a, b, 4, fun m r => if m.toInt < r.toInt then m else r)
  | .amomaxW d a b _ _ => some (d, a, b, 4, fun m r => if m.toInt < r.toInt then r else m)
  | .amominuW d a b _ _ => some (d, a, b, 4, fun m r => if m.toNat < r.toNat then m else r)
  | .amomaxuW d a b _ _ => some (d, a, b, 4, fun m r => if m.toNat < r.toNat then r else m)
  | .amoswapD d a b _ _ => some (d, a, b, 8, fun _ r => r)
  | .amoaddD d a b _ _ => some (d, a, b, 8, fun m r => m + r)
  | .amoxorD d a b _ _ => some (d, a, b, 8, fun m r => m ^^^ r)
  | .amoandD d a b _ _ => some (d, a, b, 8, fun m r => m &&& r)
  | .amoorD d a b _ _ => some (d, a, b, 8, fun m r => m ||| r)
  | .amominD d a b _ _ => some (d, a, b, 8, fun m r => if m.toInt < r.toInt then m else r)
  | .amomaxD d a b _ _ => some (d, a, b, 8, fun m r => if m.toInt < r.toInt then r else m)
  | .amominuD d a b _ _ => some (d, a, b, 8, fun m r => if m.toNat < r.toNat then m else r)
  | .amomaxuD d a b _ _ => some (d, a, b, 8, fun m r => if m.toNat < r.toNat then r else m)
  | _ => none

/-- Load-reserved: rd, rs1, width (44_atomics R245 to R248). -/
def lrTable : Instr → Option (Reg × Reg × Nat)
  | .lrB d a _ _ => some (d, a, 1)
  | .lrH d a _ _ => some (d, a, 2)
  | .lrW d a _ _ => some (d, a, 4)
  | .lrD d a _ _ => some (d, a, 8)
  | _ => none

/-- Store-conditional: rd, rs1, rs2, width (44_atomics R252 to R255). -/
def scTable : Instr → Option (Reg × Reg × Reg × Nat)
  | .scB d a b _ _ => some (d, a, b, 1)
  | .scH d a b _ _ => some (d, a, b, 2)
  | .scW d a b _ _ => some (d, a, b, 4)
  | .scD d a b _ _ => some (d, a, b, 8)
  | _ => none

/-- Direct jumps: the link register, the offset, the length (43_base_integer R202, 47_compressed R294, R295). -/
def directJumpTable : Instr → Option (Reg × Word × Nat)
  | .jal d o => some (d, o.signExtend 64 <<< 1, 4)
  | .cJal o => some (1, o.signExtend 64 <<< 1, 2)
  | .cJ o => some (0, o.signExtend 64 <<< 1, 2)
  | _ => none

/-- Indirect jumps in an execution mode: the link register, the target register, the offset, the length, and whether the target is a capability
(43_base_integer R203, R205, 47_compressed R292, R293). -/
def indirectJumpTable (cap : Bool) : Instr → Option (Reg × Reg × Word × Nat × Bool)
  | .jalr d a i => some (d, a, i.signExtend 64, 4, cap)
  | .cJalr a => some (1, a, 0, 2, cap)
  | .cJr a => some (0, a, 0, 2, cap)
  | .jalrMode d a => some (d, a, 0, 4, !cap)
  | _ => none

/-- Conditional branches: whether the branch is taken, the offset, the length (43_base_integer R207 to R212, 47_compressed R286, R287). -/
def branchTable (s : State) : Instr → Option (Bool × Word × Nat)
  | .beq a b o => some (decide (s.rx a = s.rx b), o.signExtend 64 <<< 1, 4)
  | .bne a b o => some (decide (s.rx a ≠ s.rx b), o.signExtend 64 <<< 1, 4)
  | .blt a b o => some (decide ((s.rx a).toInt < (s.rx b).toInt), o.signExtend 64 <<< 1, 4)
  | .bge a b o => some (decide ((s.rx b).toInt ≤ (s.rx a).toInt), o.signExtend 64 <<< 1, 4)
  | .bltu a b o => some (decide ((s.rx a).toNat < (s.rx b).toNat), o.signExtend 64 <<< 1, 4)
  | .bgeu a b o => some (decide ((s.rx b).toNat ≤ (s.rx a).toNat), o.signExtend 64 <<< 1, 4)
  | .cBeqz a o => some (decide (s.rx a.reg = 0), o.signExtend 64 <<< 1, 2)
  | .cBnez a o => some (decide (s.rx a.reg ≠ 0), o.signExtend 64 <<< 1, 2)
  | _ => none

/-- The low 32 bits sign-extended, and zero-extended (00_scope R11). -/
def sx32 (v : Word) : Word := (v.setWidth 32).signExtend 64
def zx32 (v : Word) : Word := (v.setWidth 32).setWidth 64
/-- The places a shift takes from a register: log2(XLEN) bits of it. -/
def places (s : State) (v : Word) : Nat := if s.cur64 then v.toNat % 64 else v.toNat % 32
/-- The operand of a right shift that brings in zeros, as a number of XLEN bits. -/
def unsignedX (s : State) (v : Word) : Word := if s.cur64 then v else zx32 v
def truth (b : Bool) : Word := if b then 1 else 0

/-- Integer computation: rd, the result before it is narrowed to XLEN bits, the length (43_base_integer R231, 49_cbo_prefetch_zba R354; the arithmetic is the base
ISA's, log 14, log 15). Register values are sign-extended from XLEN. -/
def computeTable (s : State) : Instr → Option (Reg × Word × Nat)
  | .lui f d i => some (d, (i ++ 0#12).signExtend 64, if f = .std then 4 else 2)
  | .addi f d a i => some (d, s.rx a + i.signExtend 64, if f = .std then 4 else 2)
  | .slti d a i => some (d, truth (decide ((s.rx a).toInt < (i.signExtend 64).toInt)), 4)
  | .sltiu d a i => some (d, truth (decide ((s.rx a).toNat < (i.signExtend 64).toNat)), 4)
  | .xori f d a i => some (d, s.rx a ^^^ i.signExtend 64, if f = .std then 4 else 2)
  | .ori d a i => some (d, s.rx a ||| i.signExtend 64, 4)
  | .andi f d a i => some (d, s.rx a &&& i.signExtend 64, if f = .std then 4 else 2)
  | .slli .std d a h => some (d, s.rx a <<< places s (h.setWidth 64), 4)
  | .slli .comp d a h => some (d, s.rx a <<< places s (h.setWidth 64), 2)
  | .slli .uw d a h => some (d, zx32 (s.rx a) <<< places s (h.setWidth 64), 4)
  | .slli .compUw d a h => some (d, zx32 (s.rx a) <<< places s (h.setWidth 64), 2)
  | .srli f d a h => some (d, unsignedX s (s.rx a) >>> places s (h.setWidth 64), if f = .std then 4 else 2)
  | .srai f d a h => some (d, (s.rx a).sshiftRight (places s (h.setWidth 64)), if f = .std then 4 else 2)
  | .add .std d a b => some (d, s.rx a + s.rx b, 4)
  | .add .comp d a b => some (d, s.rx a + s.rx b, 2)
  | .add .uw d a b => some (d, zx32 (s.rx a) + s.rx b, 4)
  | .add .compUw d a b => some (d, zx32 (s.rx a) + s.rx b, 2)
  | .sub f d a b => some (d, s.rx a - s.rx b, if f = .std then 4 else 2)
  | .sll d a b => some (d, s.rx a <<< places s (s.rx b), 4)
  | .slt d a b => some (d, truth (decide ((s.rx a).toInt < (s.rx b).toInt)), 4)
  | .sltu d a b => some (d, truth (decide ((s.rx a).toNat < (s.rx b).toNat)), 4)
  | .xor f d a b => some (d, s.rx a ^^^ s.rx b, if f = .std then 4 else 2)
  | .srl d a b => some (d, unsignedX s (s.rx a) >>> places s (s.rx b), 4)
  | .sra d a b => some (d, (s.rx a).sshiftRight (places s (s.rx b)), 4)
  | .or f d a b => some (d, s.rx a ||| s.rx b, if f = .std then 4 else 2)
  | .and f d a b => some (d, s.rx a &&& s.rx b, if f = .std then 4 else 2)
  | .addiw f d a i => some (d, sx32 (s.rx a + i.signExtend 64), if f = .std then 4 else 2)
  | .slliw d a h => some (d, sx32 (s.rx a <<< h.toNat), 4)
  | .srliw d a h => some (d, sx32 (zx32 (s.rx a) >>> h.toNat), 4)
  | .sraiw d a h => some (d, (sx32 (s.rx a)).sshiftRight h.toNat, 4)
  | .addw f d a b => some (d, sx32 (s.rx a + s.rx b), if f = .std then 4 else 2)
  | .subw f d a b => some (d, sx32 (s.rx a - s.rx b), if f = .std then 4 else 2)
  | .sllw d a b => some (d, sx32 (s.rx a <<< ((s.rx b).toNat % 32)), 4)
  | .srlw d a b => some (d, sx32 (zx32 (s.rx a) >>> ((s.rx b).toNat % 32)), 4)
  | .sraw d a b => some (d, (sx32 (s.rx a)).sshiftRight ((s.rx b).toNat % 32), 4)
  | _ => none

/-- The results of the computational instructions beside the opcode table, of operands sign-extended from XLEN, where one line says them (43_base_integer R231; the
arithmetic is the ratified ISA's, log 41): division by zero gives all ones and leaves the dividend as remainder. -/
def extTable (s : State) (o : ExtOp) (a b : Word) : Option Word :=
  let n := if s.cur64 then 64 else 32
  let ua := (unsignedX s a).toNat
  let ub := (unsignedX s b).toNat
  match o with
  | .mul => some (BitVec.ofInt 64 (a.toInt * b.toInt))
  | .mulh => some (BitVec.ofInt 64 (a.toInt * b.toInt / 2 ^ n))
  | .mulhsu => some (BitVec.ofInt 64 (a.toInt * (ub : Int) / 2 ^ n))
  | .mulhu => some (BitVec.ofNat 64 (ua * ub / 2 ^ n))
  | .div => some (if b = 0 then BitVec.allOnes 64 else BitVec.ofInt 64 (a.toInt.tdiv b.toInt))
  | .divu => some (if b = 0 then BitVec.allOnes 64 else BitVec.ofNat 64 (ua / ub))
  | .rem => some (if b = 0 then a else BitVec.ofInt 64 (a.toInt.tmod b.toInt))
  | .remu => some (if b = 0 then a else BitVec.ofNat 64 (ua % ub))
  | .mulw => some (sx32 (a * b))
  | .divw => some (if sx32 b = 0 then BitVec.allOnes 64 else sx32 (BitVec.ofInt 64 ((sx32 a).toInt.tdiv (sx32 b).toInt)))
  | .divuw => some (if zx32 b = 0 then BitVec.allOnes 64 else sx32 (BitVec.ofNat 64 ((zx32 a).toNat / (zx32 b).toNat)))
  | .remw => some (if sx32 b = 0 then sx32 a else sx32 (BitVec.ofInt 64 ((sx32 a).toInt.tmod (sx32 b).toInt)))
  | .remuw => some (if zx32 b = 0 then sx32 a else sx32 (BitVec.ofNat 64 ((zx32 a).toNat % (zx32 b).toNat)))
  | .czeroEqz => some (if b = 0 then 0 else a)
  | .czeroNez => some (if b = 0 then a else 0)
  | .andn => some (a &&& ~~~b)
  | .orn => some (a ||| ~~~b)
  | .xnor => some (~~~(a ^^^ b))
  | .min => some (if a.toInt < b.toInt then a else b)
  | .minu => some (if a.toNat < b.toNat then a else b)
  | .max => some (if a.toInt < b.toInt then b else a)
  | .maxu => some (if a.toNat < b.toNat then b else a)
  | .sextB => some ((a.setWidth 8).signExtend 64)
  | .sextH => some ((a.setWidth 16).signExtend 64)
  | .zextH => some ((a.setWidth 16).setWidth 64)
  | .bclr => some (a &&& ~~~(1#64 <<< places s b))
  | .bext => some (truth (a.getLsbD (places s b)))
  | .binv => some (a ^^^ (1#64 <<< places s b))
  | .bset => some (a ||| (1#64 <<< places s b))
  | _ => none

/-- Pointer additions: rd, the pointer register, the increment, the length (49_cbo_prefetch_zba R346 to R353, 47_compressed R289, R290). -/
def pointerTable (s : State) : Instr → Option (Reg × Reg × Word × Nat)
  | .sh1add d a b => some (d, b, s.rx a <<< 1, 4)
  | .sh2add d a b => some (d, b, s.rx a <<< 2, 4)
  | .sh3add d a b => some (d, b, s.rx a <<< 3, 4)
  | .sh4add d a b => some (d, b, s.rx a <<< 4, 4)
  | .sh1addUw d a b => some (d, b, zx32 (s.rx a) <<< 1, 4)
  | .sh2addUw d a b => some (d, b, zx32 (s.rx a) <<< 2, 4)
  | .sh3addUw d a b => some (d, b, zx32 (s.rx a) <<< 3, 4)
  | .sh4addUw d a b => some (d, b, zx32 (s.rx a) <<< 4, 4)
  | .cAddi16sp i => some (2, 2, i.signExtend 64 <<< 4, 2)
  | .cAddi4spn d i => some (d.reg, 2, i.setWidth 64 <<< 2, 2)
  | _ => none

/-- Moves: each destination with its source, and the length (47_compressed R288, 48_zcmp_zcmt R328, R329). -/
def moveTable : Instr → Option ((Reg × Reg) × Option (Reg × Reg))
  | .cMv d b => some ((d, b), none)
  | .cmMvsa01 a b => some ((sreg a, 10), some (sreg b, 11))
  | .cmMva01s a b => some ((10, sreg a), some (11, sreg b))
  | _ => none

/-- The alignment mask of CRAM written out (40_cap_inspect R166): all ones for a length the exponent-zero format holds; else ones above the `E + h` lowest bits, E the
least exponent at which the length, rounded up to a multiple of `2^(E+h)`, is below `2^(E+MW-1)`. -/
def cramOf (p : Params) (len : Nat) : Word :=
  let h := if p.xlenmax64 then 3 else 2
  let mw := if p.xlenmax64 then 14 else 10
  let cap := if p.xlenmax64 then 52 else 24
  let e := ((List.range cap).find? fun e => decide ((len + 2 ^ (e + h) - 1) / 2 ^ (e + h) * 2 ^ (e + h) < 2 ^ (e + mw - 1))).getD cap
  if len < (if p.xlenmax64 then 4096 else 512) then BitVec.allOnes 64 else ~~~(BitVec.ofNat 64 (2 ^ (e + h) - 1))

/-- Capability inspection: rd and the value (40_cap_inspect R161 to R168). -/
def inspectTable (s : State) : Instr → Option (Reg × Word)
  | .gctag d a => some (d, truth (s.rc a).tag)
  | .gcperm d a =>
    let q := (s.rc a).perms s.cfg
    some (d, BitVec.ofNat 64 (q.c.toNat + 2 * q.w.toNat + 4 * q.r.toNat + 8 * q.x.toNat + 16 * q.asr.toNat + 65536 * (s.rc a).sdp s.cfg))
  | .gchi d a => some (d, (s.rc a).md)
  | .gcbase d a => some (d, if (s.rc a).malformed s.cfg then 0 else BitVec.ofNat 64 ((s.rc a).base s.cfg))
  | .gclen d a =>
    some (d, if (s.rc a).malformed s.cfg then 0 else BitVec.ofNat 64 (min ((s.rc a).length s.cfg) (2 ^ s.cfg.xlenmax - 1)))
  | .cram d a => some (d, cramOf s.cfg ((s.rx a).toNat % 2 ^ s.cfg.xlenmax))
  | .sceq d a b => some (d, truth (decide (s.rc a = s.rc b)))
  | .scss d a b => some (d, truth (decide ((s.rc a).tag = (s.rc b).tag) && isCapSubset s.cfg (s.rc b) (s.rc a)))
  | _ => none

/-- Set-address semantics spelled out (10_state R32). -/
def withAddress (p : Params) (k : Cap) (a : Word) : Cap := ⟨k.tag && !k.s p && k.representable p a, k.md, a⟩

/-- Capability manipulation: rd and the result (41_cap_manipulate R171 to R183). -/
def manipTable (s : State) : Instr → Option (Reg × Cap)
  | .cmv d a => some (d, s.rc a)
  | .cadd d a b => some (d, withAddress s.cfg (s.rc a) (truncX s.cfg ((s.rc a).addr + s.rx b)))
  | .caddi d a i => some (d, withAddress s.cfg (s.rc a) (truncX s.cfg ((s.rc a).addr + i.signExtend 64)))
  | .scaddr d a b => some (d, withAddress s.cfg (s.rc a) (truncX s.cfg (s.rx b)))
  | .acperm d a b =>
    let k := s.rc a
    let q := k.perms s.cfg
    let m := s.rx b
    let r : Perms := ⟨q.c && m.getLsbD 0, q.w && m.getLsbD 1, q.r && m.getLsbD 2, q.x && m.getLsbD 3, q.asr && m.getLsbD 4⟩
    let n := k.withPerms s.cfg (encodeAP s.cfg r) (k.sdp s.cfg &&& (m.extractLsb' 16 4).toNat)
    some (d, { n with tag := k.tag && !k.s s.cfg })
  | .schi d a b => some (d, ⟨false, truncX s.cfg (s.rx b), (s.rc a).addr⟩)
  | .sentry d a =>
    let k := s.rc a
    some (d, ⟨k.tag && !k.s s.cfg, k.md ||| (1#64 <<< sBit s.cfg), k.addr⟩)
  | .cbld d a b =>
    let k := s.rc b
    some (d, ⟨(s.rc a).tag && !(s.rc a).s s.cfg && k.derivable s.cfg && isCapSubset s.cfg k (s.rc a), k.md, k.addr⟩)
  | .scbnds d a b => some (d, (s.rc a).setBounds s.cfg ((s.rx b).toNat % 2 ^ s.cfg.xlenmax) true)
  | .scbndsi d a h i => some (d, (s.rc a).setBounds s.cfg (if h then 16 * i.toNat else i.toNat) true)
  | .scbndsr d a b => some (d, (s.rc a).setBounds s.cfg ((s.rx b).toNat % 2 ^ s.cfg.xlenmax) false)
  | .scmode d a b =>
    let k := s.rc a
    let w := 1#64 <<< mBit s.cfg
    some (d, ⟨k.tag && !k.s s.cfg, if (s.rx b).getLsbD 0 then k.md ||| w else k.md &&& ~~~w, k.addr⟩)
  | _ => none

/-- The CHERI instructions that disabled CHERI register access makes illegal (11_csrs R90; the capability atomics, log 17). -/
def cheriTable : Instr → Bool
  | .gctag _ _ | .gcperm _ _ | .gchi _ _ | .gcbase _ _ | .gclen _ _ | .cram _ _ | .sceq _ _ _ | .scss _ _ _ | .cmv _ _ | .cadd _ _ _
  | .caddi _ _ _ | .scaddr _ _ _ | .acperm _ _ _ | .schi _ _ _ | .sentry _ _ | .cbld _ _ _ | .scbnds _ _ _ | .scbndsi _ _ _ _
  | .scbndsr _ _ _ | .scmode _ _ _ | .modesw | .cModesw | .lc _ _ _ | .sc _ _ _ | .jalrMode _ _ | .amoswapC _ _ _ _ _
  | .lrC _ _ _ _ | .scC _ _ _ _ _ => true
  | _ => false

/-- The instructions that read or update pcc, illegal in debug mode where the implementation says so (43_base_integer R200, 30_encoding R138 (a)). -/
def pcrelTable : Instr → Bool
  | .auipc _ _ | .jal _ _ | .jalr _ _ _ | .jalrMode _ _ | .beq _ _ _ | .bne _ _ _ | .blt _ _ _ | .bge _ _ _ | .bltu _ _ _ | .bgeu _ _ _
  | .cBeqz _ _ | .cBnez _ _ | .cJalr _ | .cJr _ | .cJal _ | .cJ _ | .cmJt _ | .cmJalt _ | .cmPopret _ _ | .cmPopretz _ _ => true
  | _ => false

/-- The memory accesses: address register, offset, width, kind, and what a misaligned address means; of a push or pop, in an execution mode, the first (47_compressed
and 43 to 46 as the tables above, 48_zcmp_zcmt R323 to R327). -/
def accessTable (s : State) (i : Instr) : Option (Reg × Word × Nat × Acc × Align) :=
  let frame := fun (l : BitVec 4) (top : Nat) (kind : Acc) =>
    if 4 ≤ l.toNat then
      some ((2 : Reg), BitVec.ofNat 64 top - BitVec.ofNat 64 s.slot, s.slot, kind, if s.capMode then Align.strict else Align.plain)
    else none
  let adj := fun (l : BitVec 4) (e : BitVec 2) => (rlistCount l * s.slot + 15) / 16 * 16 + 16 * e.toNat
  ((intLoadTable i).map fun (_, a, o, n, _, _) => (a, o, n, Acc.load, Align.plain)) <|>
  ((intStoreTable i).map fun (_, a, o, n, _) => (a, o, n, Acc.store, Align.plain)) <|>
  ((fpLoadTable i).map fun (_, a, o, n, _) => (a, o, n, Acc.load, Align.plain)) <|>
  ((fpStoreTable i).map fun (_, a, o, n, _) => (a, o, n, Acc.store, Align.plain)) <|>
  ((capLoadTable s.cfg i).map fun (_, a, o, _, _) => (a, o, s.cfg.capBytes, Acc.load, Align.strict)) <|>
  ((capStoreTable s.cfg i).map fun (_, a, o, _, _) => (a, o, s.cfg.capBytes, Acc.store, Align.strict)) <|>
  ((amoTable i).map fun (_, a, _, n, _) => (a, (0 : Word), n, Acc.atomic, Align.zam)) <|>
  ((lrTable i).map fun (_, a, n) => (a, (0 : Word), n, Acc.load, Align.zam)) <|>
  ((scTable i).map fun (_, a, _, n) => (a, (0 : Word), n, Acc.store, Align.zam)) <|>
  (match i with
  | .amoswapC _ a _ _ _ => some (a, 0, s.cfg.capBytes, .atomic, .strict)
  | .lrC _ a _ _ => some (a, 0, s.cfg.capBytes, .load, .strict)
  | .scC _ a _ _ _ => some (a, 0, s.cfg.capBytes, .store, .strict)
  | .cmPush l _ => frame l 0 .store
  | .cmPop l e | .cmPopret l e | .cmPopretz l e => frame l (adj l e) .load
  | _ => none : Option (Reg × Word × Nat × Acc × Align))

/-- An instruction accesses memory at an effective address: the access of `accessTable`, each slot of a push or pop, and the address of a cache-block operation. -/
def State.touches (s : State) (i : Instr) (kind : Acc) (a : Word) : Prop :=
  (∃ rs1 off n al, accessTable s i = some (rs1, off, n, kind, al) ∧ a = (s.authEa rs1 off).2) ∨
    (∃ l e k, i = .cmPush l e ∧ kind = .store ∧ k < rlistCount l ∧ a = (s.authEa 2 (0 - BitVec.ofNat 64 ((k + 1) * s.slot))).2) ∨
    (∃ l e k, (i = .cmPop l e ∨ i = .cmPopret l e ∨ i = .cmPopretz l e) ∧ kind = .load ∧ k < rlistCount l ∧
      a = (s.authEa 2 (BitVec.ofNat 64 ((rlistCount l * s.slot + 15) / 16 * 16 + 16 * e.toNat) - BitVec.ofNat 64 ((k + 1) * s.slot))).2) ∨
    (∃ rs1, (i = .cboInval rs1 ∨ i = .cboClean rs1 ∨ i = .cboFlush rs1 ∨ i = .cboZero rs1) ∧ kind = .store ∧ a = (s.authEa rs1 0).2)

/-- The capability-wide stores that 20_memory R120 names: the register stored, the address register, the offset; of a push, the first. -/
def capWriteTable (s : State) (i : Instr) : Option (Reg × Reg × Word) :=
  ((capStoreTable s.cfg i).map fun (b, a, o, _, _) => (b, a, o)) <|>
  (match i with
  | .amoswapC _ a b _ _ | .scC _ a b _ _ => some (b, a, 0)
  | .cmPush l _ => if s.capMode then ((rlistDown l)[0]?).map fun b => (b, 2, 0 - BitVec.ofNat 64 s.slot) else none
  | _ => none : Option (Reg × Reg × Word))

/-- What comes before an access passes: CHERI register access for the instructions of `cheriTable`, FS for the floating-point ones, and a mode in which pcc may be
updated for those of `pcrelTable`. -/
def State.ready (s : State) (i : Instr) : Prop :=
  (cheriTable i = true → s.cheriRegsDisabled = false) ∧
    ((fpLoadTable i).isSome || (fpStoreTable i).isSome → s.csr.mstatus.toNat / 2 ^ 13 % 4 ≠ 0) ∧
    (pcrelTable i = true → s.debug = false ∨ s.cfg.debugPcrelIllegal = false)

/-- A store-conditional ends the reservation also when it traps (44_atomics R250). -/
def State.unreserved (s : State) (i : Instr) : State :=
  match i with
  | .scB .. | .scH .. | .scW .. | .scD .. | .scC .. => { s with resv := none }
  | _ => s

/-- A capability-wide store of `v` would complete at `pa`, but `v` stays tagged, the memory there is not taggable, and the implementation faults (20_memory R110). -/
def State.untaggable (s : State) (auth : Cap) (ea : Word) (v : Cap) (kind : Acc) (pa : Nat) : Prop :=
  s.permits auth ea s.cfg.capBytes kind ∧ ea.toNat % s.cfg.capBytes = 0 ∧
    (∃ x, s.translate kind ea = .ok x ∧ x.pa = pa ∧ s.cwQuiet auth x.leaf v) ∧
    (∀ a ∈ span pa s.cfg.capBytes, Params.isMapped s.cfg a = true) ∧ s.cfg.taggedToUntaggable = .raiseFault ∧
    Params.isTaggable s.cfg pa = false ∧ (v.tag && (auth.perms s.cfg).w && (auth.perms s.cfg).c) = true

/-- The bytes of the entry of the root table that an address selects, and their value, in the byte order of S-mode (the walk is the base architecture's, log 12). -/
def rootEntry (m : SvMode) (root : Nat) (va : Word) : List Nat :=
  span (root + va.toNat / 2 ^ (12 + (m.levels - 1) * m.vpnBits) % 2 ^ m.vpnBits * m.pteBytes) m.pteBytes
def State.entryAt (s : State) (as : List Nat) : Word :=
  BitVec.ofNat 64 (leNat (if s.beOf .supervisor then (s.loadList as).reverse else s.loadList as))

/-- The outcome of the program buffer's instruction; and of an instruction outside debug mode, with debug entry where dcsr.step is set (60_exceptions R395). -/
def ticked (o : Host.Outcome State Fault Refusal) : Host.Outcome State Fault Refusal :=
  match o with
  | .next t => .next t.tick
  | .fault f => .fault f
  | .refused r => .refused r
def State.thenStep (s : State) (o : Host.Outcome State Fault Refusal) : Host.Outcome State Fault Refusal :=
  match o with
  | .next t => .next (if s.cfg.hasSdext && s.csr.dcsr.getLsbD 2 && !t.debug then t.tick.enterDebug 4 else t.tick)
  | .fault f => .fault f
  | .refused r => .refused r

/-- The 16-bit hints that name a register they would not change, or register 0 (30_encoding R140; log 14): the bits of each as the base ISA lays them out. -/
def hintParcel (c : Ctx) (p : BitVec 16) : Prop :=
  let q := p.extractLsb' 0 2
  let f := p.extractLsb' 13 3
  let d := p.extractLsb' 7 5
  let b := p.extractLsb' 2 5
  let zero := b = 0 ∧ p.getLsbD 12 = false
  (q = 1 ∧ f = 0 ∧ d ≠ 0 ∧ zero ∧ c.reg d = true) ∨ (q = 1 ∧ f = 2 ∧ d = 0) ∨
    (q = 1 ∧ f = 4 ∧ (p.extractLsb' 10 2 = 0 ∨ p.extractLsb' 10 2 = 1) ∧ zero) ∨
    (q = 2 ∧ f = 0 ∧ (d = 0 ∨ zero) ∧ (c.x64 = true ∨ p.getLsbD 12 = false) ∧ c.reg d = true) ∨
    (q = 2 ∧ f = 4 ∧ p.getLsbD 12 = false ∧ d = 0 ∧ b ≠ 0 ∧ c.reg b = true)

/-- The handler of an interrupt: the vector with bits 1:0 of its address 0, and four times the cause further on where those bits are 1 (11_csrs R66, 60_exceptions R373). -/
def vectorOf (p : Params) (v : Cap) (i : Nat) : Cap :=
  let a := v.addr &&& ~~~3#64
  if v.addr.extractLsb' 0 2 = 1 then withAddress p { v with addr := a } (truncX p (a + BitVec.ofNat 64 (4 * i))) else { v with addr := a }

/-- CSR instructions that set, clear or write bits: the operation, rd, the operand, the CSR, whether it reads, whether it writes (45_csr R264 to R269). -/
def csrTable (s : State) : Instr → Option ((Word → Word → Word) × Reg × Word × BitVec 12 × Bool × Bool)
  | .csrrs d a n => some (fun o v => o ||| v, d, s.rx a, n, true, decide (a ≠ 0))
  | .csrrc d a n => some (fun o v => o &&& ~~~v, d, s.rx a, n, true, decide (a ≠ 0))
  | .csrrwi d u n => some (fun _ v => v, d, u.setWidth 64, n, decide (d ≠ 0), true)
  | .csrrsi d u n => some (fun o v => o ||| v, d, u.setWidth 64, n, true, decide (u ≠ 0))
  | .csrrci d u n => some (fun o v => o &&& ~~~v, d, u.setWidth 64, n, true, decide (u ≠ 0))
  | _ => none

/-- The number and the write flag of a CSR instruction's access (45_csr R263 to R269). -/
def csrAccess : Instr → Option (BitVec 12 × Bool)
  | .csrrw _ _ n => some (n, true)
  | .csrrs _ a n | .csrrc _ a n => some (n, decide (a ≠ 0))
  | .csrrwi _ _ n => some (n, true)
  | .csrrsi _ u n | .csrrci _ u n => some (n, decide (u ≠ 0))
  | _ => none

/-- A cache-block enable: on in debug mode and M-mode; below, as menvcfg says, and in U-mode with S-mode present as senvcfg says too (49_cbo_prefetch_zba R336). -/
def State.cboOn (s : State) (f : Word → Bool) : Bool :=
  s.debug || decide (s.priv = .machine) || (f s.csr.menvcfg && (decide (s.priv = .supervisor) || !s.cfg.hasS || f s.csr.senvcfg))

/-- All the conditions of a CSR access (45_csr R262), for the register the number names. -/
def State.csrAllowed (s : State) (n : BitVec 12) (w : Bool) (r : CsrRef) : Prop :=
  s.csrRef n = some r ∧ (n.toNat / 256) % 4 ≤ s.privNum ∧ (n.toNat / 16 = 0x7b → s.debug = true) ∧
    (w = true → n.toNat / 1024 ≠ 3) ∧ (s.cheriRegsDisabled = true → ∀ c, r ≠ .wide c) ∧ s.csrBaseOk n r = true ∧
    ((n.toNat / 256) % 4 ≠ 0 → s.asrOk = true)

/-- `k` with what a write of the XLEN-wide CSR `x` may change taken from `u`: its own register; of misa also SXL and UXL (11_csrs R65; log 18, log 43); of fcsr, fflags
and frm also mstatus.FS, which is Dirty (log 26). What tdata1 and tdata2 write is no field of `Csrs`: the triggers are State's. -/
def Csrs.writtenAt (x : XCsr) (k u : Csrs) : Csrs :=
  match x with
  | .misa => { k with mxl := u.mxl, misaC := u.misaC, mstatus := (k.mstatus &&& ~~~0xF00000000#64) ||| (u.mstatus &&& 0xF00000000#64) }
  | .mstatus | .mstatush | .sstatus => { k with mstatus := u.mstatus }
  | .medeleg => { k with medeleg := u.medeleg }
  | .mideleg => { k with mideleg := u.mideleg }
  | .mie | .sie => { k with mie := u.mie }
  | .mip | .sip => { k with mip := u.mip }
  | .mcause => { k with mcause := u.mcause }
  | .mtval => { k with mtval := u.mtval }
  | .mcounteren => { k with mcounteren := u.mcounteren }
  | .menvcfg | .menvcfgh => { k with menvcfg := u.menvcfg }
  | .mseccfg | .mseccfgh => { k with mseccfg := u.mseccfg }
  | .scounteren => { k with scounteren := u.scounteren }
  | .senvcfg => { k with senvcfg := u.senvcfg }
  | .scause => { k with scause := u.scause }
  | .stval => { k with stval := u.stval }
  | .satp => { k with satp := u.satp }
  | .fflags | .frm | .fcsr => { k with fcsr := u.fcsr, mstatus := k.mstatus ||| 0x6000 }
  | .dcsr => { k with dcsr := u.dcsr }
  | .tselect => { k with tselect := u.tselect }
  | .machineInfo | .counter | .tdata1 | .tdata2 | .tdata3 | .tinfo => k

/-- The XLEN-wide CSRs, each as before, the triggers too. -/
def State.sameXCsrs (s t : State) : Prop :=
  t.csr.mxl = s.csr.mxl ∧ t.csr.misaC = s.csr.misaC ∧ t.csr.mstatus = s.csr.mstatus ∧ t.csr.mcause = s.csr.mcause ∧ t.csr.mtval = s.csr.mtval ∧
    t.csr.scause = s.csr.scause ∧ t.csr.stval = s.csr.stval ∧ t.csr.medeleg = s.csr.medeleg ∧ t.csr.mideleg = s.csr.mideleg ∧
    t.csr.mie = s.csr.mie ∧ t.csr.mip = s.csr.mip ∧ t.csr.mseccfg = s.csr.mseccfg ∧ t.csr.menvcfg = s.csr.menvcfg ∧
    t.csr.senvcfg = s.csr.senvcfg ∧ t.csr.satp = s.csr.satp ∧ t.csr.mcounteren = s.csr.mcounteren ∧ t.csr.scounteren = s.csr.scounteren ∧
    t.csr.dcsr = s.csr.dcsr ∧ t.csr.fcsr = s.csr.fcsr ∧ t.csr.tselect = s.csr.tselect ∧ t.triggers = s.triggers

/-- The address of the block an effective address lies in; and where the bytes of the block are: round the physical address of a block within a page, and page by page
of a larger one (49_cbo_prefetch_zba R335, R340; log 34). -/
def State.blockOf (s : State) (ea : Word) : Word := (ea >>> s.cfg.blockLog) <<< s.cfg.blockLog
def State.blockAt (s : State) (ea : Word) (as : List Nat) : Prop :=
  (s.cfg.blockLog ≤ 12 ∧ ∃ x, s.translate .store ea = .ok x ∧ as = span (x.pa / s.cfg.blockSize * s.cfg.blockSize) s.cfg.blockSize) ∨
    (12 < s.cfg.blockLog ∧ as.length = s.cfg.blockSize ∧
      ∀ j < 2 ^ (s.cfg.blockLog - 12), ∃ x, s.translate .store (s.eaOf (s.blockOf ea + BitVec.ofNat 64 (4096 * j))) = .ok x ∧
        (as.drop (4096 * j)).take 4096 = span x.pa 4096)

/-- What a CSR instruction never touches. -/
def State.csrFrame (s t : State) : Prop :=
  t.mem = s.mem ∧ t.tlb = s.tlb ∧ t.fregs = s.fregs ∧ t.priv = s.priv ∧ t.debug = s.debug ∧ t.resv = s.resv ∧ t.cfg = s.cfg ∧ t.irqIn = s.irqIn ∧
    t.progBuf = s.progBuf ∧ t.dinfcM = s.dinfcM ∧ t.haltReq = s.haltReq ∧
    t.resetHalt = s.resetHalt ∧ t.resumeReq = s.resumeReq ∧ t.command = s.command ∧ t.debugData = s.debugData ∧ t.cmdErr = s.cmdErr

/-- The slot `i` of a push or pop frame whose end is `top` above the stack pointer: its effective address (48_zcmp_zcmt R323). -/
def State.slotAddr (s : State) (top : Word) (i : Nat) : Word := (s.authEa 2 (top - BitVec.ofNat 64 ((i + 1) * s.slot))).2
/-- The authority of the frame's accesses (48_zcmp_zcmt R324, R325). -/
def State.frameAuth (s : State) : Cap := (s.authEa 2 0).1

/-- Every slot of a frame can be accessed, aligned and untranslated. -/
def State.frameOk (s : State) (kind : Acc) (top : Word) (n : Nat) : Prop :=
  s.svMode s.effPriv = none ∧
    ∀ i < n, s.permits s.frameAuth (s.slotAddr top i) s.slot kind ∧ (s.slotAddr top i).toNat % s.slot = 0 ∧
      ∀ a ∈ span (s.slotAddr top i).toNat s.slot, Params.isMapped s.cfg a = true

/-- What a pop loads from a slot (48_zcmp_zcmt R325). -/
def State.slotValue (s : State) (ea : Word) : Cap :=
  if s.capMode then s.loadedCap s.frameAuth ea.toNat else s.intCap (sextBytes s.slot (s.readInt (span ea.toNat s.slot)))

/-- The state after the first `k` accesses of a push: registers and pcc as before, the slots written, the tags of integer slots clear, all other bytes and tags as before,
and an overlapped reservation lost (48_zcmp_zcmt R323, R324). -/
def State.pushed (s u : State) (l : BitVec 4) (k : Nat) : Prop :=
  let bytes := (List.range k).flatMap fun i => span (s.slotAddr 0 i).toNat s.slot
  (∀ b, b ∉ bytes → u.mem.readByte b = s.mem.readByte b) ∧
    (∀ g, (∀ b ∈ bytes, b / s.cfg.capBytes ≠ g) → u.mem.tagOf g = s.mem.tagOf g) ∧
    (s.capMode = false → ∀ b ∈ bytes, u.mem.tagOf (b / s.cfg.capBytes) = false) ∧ u.resv = resvAfter s.resv bytes ∧
    ∀ (i : Nat) (r : Reg), i < k → (rlistDown l)[i]? = some r →
      let a := (s.slotAddr 0 i).toNat
      (s.capMode = true → u.mem.readList (span a s.slot) = capToBytes s.cfg (s.rc r) ∧
        u.mem.tagOf (a / s.slot) = (s.storedCap s.frameAuth a (s.rc r)).tag) ∧
      (s.capMode = false → u.mem.readList (span a s.slot) =
        (if s.effBe then (leBytes s.slot (s.rx r).toNat).reverse else leBytes s.slot (s.rx r).toNat))

/-- The state after the first `k` accesses of a pop: their registers loaded, all else as before (48_zcmp_zcmt R323, R325). -/
def State.popped (s u : State) (l : BitVec 4) (top : Word) (k : Nat) : Prop :=
  s.sameButRegs u ∧ u.pcc = s.pcc ∧
    (∀ (i : Nat) (r : Reg), i < k → (rlistDown l)[i]? = some r → u.rc r = s.slotValue (s.slotAddr top i)) ∧
    ∀ j : Reg, j ∉ (rlistDown l).take k → u.rc j = s.rc j

/-- What the untranslated access of a slot raises: a breakpoint, a length violation, an access fault. -/
def State.slotFault (s : State) (kind : Acc) (ea : Word) (x : Exc) : Prop :=
  (s.haltHit kind ea = false ∧ s.bpHit kind ea = true ∧ x = ⟨3, ea⟩) ∨
    (s.bpHit kind ea = false ∧ s.frameAuth.tag = true ∧ s.frameAuth.s s.cfg = false ∧
      (if kind = .load then (s.frameAuth.perms s.cfg).r else (s.frameAuth.perms s.cfg).w) = true ∧ kind ≠ .atomic ∧
      s.covers s.frameAuth ea s.slot = false ∧ x = ⟨28, 0x10003⟩) ∨
    (s.permits s.frameAuth ea s.slot kind ∧ ea.toNat % s.slot = 0 ∧ (∃ a ∈ span ea.toNat s.slot, Params.isMapped s.cfg a = false) ∧
      x = ⟨if kind = .load then 5 else 7, ea⟩)

/-- The stack pointer after an adjustment (48_zcmp_zcmt R324, R325). -/
def State.spAfter (s : State) (d : Word) : Cap :=
  if s.capMode then withAddress s.cfg (s.rc 2) (truncX s.cfg ((s.rc 2).addr + d)) else s.intCap (s.rx 2 + d)

end Sys2Proof.Machine

open Sys2Proof Sys2Proof.Machine

/-! ## Encoding -/

/-- O1. A few words written out from the spec's encodings and examples decode to what they stand for: with XLENMAX = 64 in Legacy mode, and LC, C.LC, C.LCSP, C.SC and
MRET in Capability mode. -/
def Obligations.DecodeSanityWords : Prop :=
  decodeTableWord 32 0x10028333 = some (.gctag 6 5) ∧
  decodeTableWord 32 0x0C72B333 = some (.schi 6 5 7) ∧
  decodeTableWord 32 0x008000EF = some (.jal 1 4) ∧
  decodeTableWord 32 0x00628463 = some (.beq 5 6 4) ∧
  decodeTableWord 32 0x0042A307 = some (.flw 6 5 4) ∧
  decodeTableWord 32 0x30046073 = some (.csrrsi 0 8 0x300) ∧
  decodeTableWord 32 0x2072E33B = some (.sh3addUw 6 5 7) ∧
  decodeTableWord 32 0x0232E013 = some (.prefetchW 5 1) ∧
  decodeTableWord 16 0x650C = some (.cLd 3 2 1) ∧
  decodeTableWord 16 0x0000 = none ∧
  decodeEnc { tableCtx with cap := true } (.word 0x0102C30F) = .ok (.lc 6 5 16) ∧
  decodeEnc { tableCtx with cap := true } (.half 0x290C) = .ok (.cLc 3 2 1) ∧
  decodeEnc { tableCtx with cap := true } (.half 0x3082) = .ok (.cLcsp 1 2) ∧
  decodeEnc { tableCtx with cap := true } (.half 0xA90C) = .ok (.cSc 3 2 1) ∧
  decodeEnc { tableCtx with cap := true } (.word 0x30200073) = .ok .mret

/-- O2. DECODE UNDOES ENCODE: in every context decoding can meet, every well-formed, available instruction, whatever its operands, is what its encoding decodes to. -/
def Obligations.DecodeOfEncode : Prop :=
  ∀ (c : Ctx) (i : Instr), ctxSane c → c.legal i = true → decodeEnc c (encode c i) = .ok i

/-- O3. ENCODE UNDOES DECODE: an encoding that decodes is the encoding of the instruction it decodes to, apart from the 16-bit hints that all decode to one no-op: the
parcels of C.ADDI, C.LI, C.SRLI, C.SRAI, C.SLLI and C.MV that would change no register. -/
def Obligations.DecodedEncodingIsTheEncoding : Prop :=
  ∀ (c : Ctx) (e : Enc) (i : Instr), decodeEnc c e = .ok i →
    c.legal i = true ∧ (encode c i = e ∨ (i = hintNop ∧ ∃ p, e = .half p ∧ hintParcel c p))

/-! ## The step -/

/-- O4. A STEP RUNS THE DECODED INSTRUCTION. Outside debug mode, with no halt request and no interrupt to take, a step is the meaning of the instruction the fetched
bytes decode to, or of the computational instruction without a row of the table (log 41, log 45), the free-value counter moved on (log 8) and the cached translations
those the hart then holds (log 44), followed by debug entry with cause 4 when dcsr.step is set (log 25). In debug mode it is the meaning of the next instruction of the
program buffer, which leaves the buffer first; with the buffer empty an abstract command is run, or else a resume request obeyed, or else nothing happens (log 9,
log 42: the model's reading of what R393 and R396 leave to the debugger). -/
def Obligations.StepRunsDecodedInstruction : Prop :=
  (∀ (s : State) (e : Enc), s.debug = false → (s.haltReq && s.cfg.hasSdext) = false →
    (s.holdsInterrupts = true ∨ s.interrupt = none) → s.fetch = .ok e →
    (∀ i : Instr, decodeEnc s.ctx e = .ok i → step s = s.thenStep (exec i s)) ∧
    (∀ (d : DecodeError) (x : ExtInstr), decodeEnc s.ctx e = .error d → decodeExt s.ctx e = some x → step s = s.thenStep (execExt x s)) ∧
    (∀ (d : DecodeError) (f : FpInstr), decodeEnc s.ctx e = .error d → decodeExt s.ctx e = none → decodeFp s.ctx e = some f →
      step s = s.thenStep (execFp f s))) ∧
  (∀ (s : State) (p : BitVec 16) (rest : List (BitVec 16)) (i : Instr), s.debug = true → s.progBuf = p :: rest → isHalf p = true →
    decodeEnc s.ctx (.half p) = .ok i → step s = ticked (exec i { s with progBuf := rest })) ∧
  (∀ (s : State) (p q : BitVec 16) (rest : List (BitVec 16)) (i : Instr), s.debug = true → s.progBuf = p :: q :: rest → isHalf p = false →
    decodeEnc s.ctx (.word (q ++ p)) = .ok i → step s = ticked (exec i { s with progBuf := rest })) ∧
  ∀ s : State, s.debug = true → s.progBuf = [] →
    (∀ c, s.command = some c → s.cmdErr = true → step s = .next { s with command := none }) ∧
    (∀ c t, s.command = some c → s.cmdErr = false → s.transfer c = .ok t → step s = .next { t with command := none, progBuf := c.postexec }) ∧
    (∀ c e, s.command = some c → s.cmdErr = false → s.transfer c = .exc e → step s = .next { s with command := none, cmdErr := true }) ∧
    (s.command = none → s.resumeReq = true → step s = .next s.leaveDebug) ∧
    (s.command = none → s.resumeReq = false → step s = .next s)

/-- O5. WHAT IS FETCHED, AND WHERE A FETCH FAULTS: a breakpoint first (code 3, or debug entry: log 37); with pcc tagged, unsealed, executable and the bytes in its
bounds, the page fault (code 12) or access fault (code 1) of the translation (of the walk's first entry, with no translation cached for the page: log 12, log 44), or of
a vacant byte; and else the little-endian 16-bit parcel at pcc where its low two bits are not 11, and otherwise the two parcels, the second the more significant. -/
def Obligations.FetchReadsParcels : Prop :=
  ∀ s : State,
    (s.haltHit .fetch s.fetchAddr = true → s.fetch = .halt) ∧
    (s.haltHit .fetch s.fetchAddr = false → s.bpHit .fetch s.fetchAddr = true → s.fetch = .exc ⟨3, s.fetchAddr⟩) ∧
    (s.bpHit .fetch s.fetchAddr = false → s.pcc.tag = true → s.pcc.s s.cfg = false →
    (s.pcc.perms s.cfg).x = true → s.pcc.inBounds s.cfg s.pcc.addr 2 = true →
      (∀ e, s.translateAs s.priv .fetch s.fetchAddr = .exc e → s.fetch = .exc e) ∧
      (∀ m root, s.svMode s.priv = some (m, root) → m.valid s.fetchAddr = false → s.fetch = .exc ⟨12, s.fetchAddr⟩) ∧
      (∀ m root, s.svMode s.priv = some (m, root) → m.valid s.fetchAddr = true → s.cachedLeaf m s.fetchAddr = none →
        ((∃ a ∈ rootEntry m root s.fetchAddr, Params.isMapped s.cfg a = false) → s.fetch = .exc ⟨1, s.fetchAddr⟩) ∧
        ((∀ a ∈ rootEntry m root s.fetchAddr, Params.isMapped s.cfg a = true) →
          (s.entryAt (rootEntry m root s.fetchAddr)).getLsbD 0 = false → s.fetch = .exc ⟨12, s.fetchAddr⟩)) ∧
      ∀ x : Phys, s.translateAs s.priv .fetch s.fetchAddr = .ok x →
        ((∃ a ∈ span x.pa 2, Params.isMapped s.cfg a = false) → s.fetch = .exc ⟨1, s.fetchAddr⟩) ∧
        ((∀ a ∈ span x.pa 2, Params.isMapped s.cfg a = true) →
          let p : BitVec 16 := s.loadByte (x.pa + 1) ++ s.loadByte x.pa
          (p.extractLsb' 0 2 ≠ 3 → s.fetch = .ok (.half p)) ∧
          (p.extractLsb' 0 2 = 3 → p.extractLsb' 2 3 = 7 → s.fetch = .exc ⟨2, 0⟩) ∧
          (p.extractLsb' 0 2 = 3 → p.extractLsb' 2 3 ≠ 7 → s.pcc.inBounds s.cfg s.pcc.addr 4 = true →
            let next := s.cutX (s.fetchAddr + 2)
            (∀ e, s.translateAs s.priv .fetch next = .exc e → s.fetch = .exc e) ∧
            ∀ y : Phys, s.translateAs s.priv .fetch next = .ok y →
              ((∃ a ∈ span y.pa 2, Params.isMapped s.cfg a = false) → s.fetch = .exc ⟨1, next⟩) ∧
              ((∀ a ∈ span y.pa 2, Params.isMapped s.cfg a = true) →
                s.fetch = .ok (.word ((s.loadByte (y.pa + 1) ++ s.loadByte y.pa) ++ p))))))

/-- O6. What decodes neither to a row of the table nor to one of the computational instructions beside it (log 41, log 45) is an illegal instruction: code 2, with
xtval 0 (log 16: what R365 and R369 give it), and nothing else happens but that the free-value counter moves on (log 8, log 44). -/
def Obligations.UndecodableIsIllegal : Prop :=
  ∀ (s : State) (e : Enc) (d : DecodeError), s.debug = false → (s.haltReq && s.cfg.hasSdext) = false →
    (s.holdsInterrupts = true ∨ s.interrupt = none) → s.stepping = false → s.fetch = .ok e → decodeEnc s.ctx e = .error d →
    decodeExt s.ctx e = none → decodeFp s.ctx e = none → step s = .next (takeException s ⟨2, 0⟩).tick

/-- O7. THE CHECKS ON PCC: with no fetch breakpoint, an instruction whose pcc is untagged, sealed, not executable, or too short for it raises a CHERI exception,
code 28, TYPE 0, with the lowest failing CAUSE: 0, 1, 2, 3; a step outside debug mode takes it. In debug mode the checks are not made: whatever pcc holds, the next
instruction of the program buffer runs. -/
def Obligations.PccChecksFault : Prop :=
  (∀ s : State, s.bpHit .fetch s.fetchAddr = false →
    (s.pcc.tag = false → s.fetch = .exc ⟨28, 0⟩) ∧
    (s.pcc.tag = true → s.pcc.s s.cfg = true → s.fetch = .exc ⟨28, 1⟩) ∧
    (s.pcc.tag = true → s.pcc.s s.cfg = false → (s.pcc.perms s.cfg).x = false → s.fetch = .exc ⟨28, 2⟩) ∧
    (s.pcc.tag = true → s.pcc.s s.cfg = false → (s.pcc.perms s.cfg).x = true →
      s.pcc.inBounds s.cfg s.pcc.addr 2 = false → s.fetch = .exc ⟨28, 3⟩) ∧
    (s.pcc.tag = true → s.pcc.s s.cfg = false → (s.pcc.perms s.cfg).x = true → s.pcc.inBounds s.cfg s.pcc.addr 2 = true →
      ∀ p, s.parcel s.fetchAddr = .ok p → isHalf p = false → p.extractLsb' 2 3 ≠ 7 →
      s.pcc.inBounds s.cfg s.pcc.addr 4 = false → s.fetch = .exc ⟨28, 3⟩)) ∧
  (∀ (s : State) (e : Exc), s.debug = false → (s.haltReq && s.cfg.hasSdext) = false → (s.holdsInterrupts = true ∨ s.interrupt = none) →
    s.stepping = false → s.fetch = .exc e → step s = .next (takeException s e).tick) ∧
  (∀ (s : State) (k : Cap) (p : BitVec 16) (rest : List (BitVec 16)) (i : Instr), s.debug = true → s.progBuf = p :: rest → isHalf p = true →
    decodeEnc s.ctx (.half p) = .ok i → step { s with pcc := k } = ticked (exec i { s with progBuf := rest, pcc := k })) ∧
  ∀ (s : State) (k : Cap) (p q : BitVec 16) (rest : List (BitVec 16)) (i : Instr), s.debug = true → s.progBuf = p :: q :: rest → isHalf p = false →
    decodeEnc s.ctx (.word (q ++ p)) = .ok i → step { s with pcc := k } = ticked (exec i { s with progBuf := rest, pcc := k })

/-! ## Reset and the invariant -/

/-- O8. The reset values the source states: Infinite capabilities in pcc (at the boot address), mtvecc, mepcc, stvecc, sepcc, jvtc, ddc and dinfc; no tag in
mscratchc, sscratchc, dpcc, dscratch0c, dscratch1c, dddc, mtdc and stdc; c0 NULL; mseccfg.CME 0. Infinite is: tagged, unsealed, M clear, every permission, SDP all
ones, bounds the whole address space. -/
def Obligations.ResetValuesStated : Prop :=
  ∀ p : Params,
    let s := State.resetWith p
    s.pcc = infiniteAt p p.bootAddr ∧ s.rc 0 = nullCap ∧ s.csr.mtvecc = infiniteAt p 0 ∧ s.csr.mepcc = infiniteAt p 0 ∧
    s.csr.stvecc = infiniteAt p 0 ∧ s.csr.sepcc = infiniteAt p 0 ∧ s.csr.jvtc = infiniteAt p 0 ∧ s.ddc = infiniteAt p 0 ∧
    s.dinfc = infiniteAt p 0 ∧ s.csr.mscratchc.tag = false ∧ s.csr.sscratchc.tag = false ∧ s.csr.dpcc.tag = false ∧
    s.csr.dscratch0c.tag = false ∧ s.csr.dscratch1c.tag = false ∧ s.csr.dddc.tag = false ∧ s.csr.mtdc.tag = false ∧
    s.csr.stdc.tag = false ∧ s.csr.mseccfg.getLsbD 3 = false ∧
    ∀ a : Word, (infiniteAt p a).tag = true ∧ (infiniteAt p a).addr = a ∧ (infiniteAt p a).s p = false ∧ (infiniteAt p a).m p = false ∧
      (infiniteAt p a).perms p = ⟨true, true, true, true, true⟩ ∧ (infiniteAt p a).sdp p = (if p.xlenmax64 then 15 else 3) ∧
      (infiniteAt p a).base p = 0 ∧ (infiniteAt p a).top p = 2 ^ p.xlenmax ∧ (infiniteAt p a).malformed p = false

/-- O9. The reset values the spec decides where the source is silent: no register and no granule tagged, M-mode, not in debug mode, interrupts off, MPRV clear, bare
translation, no translation cached (log 44), XLEN = XLENMAX, little-endian, no reservation, FS Off. A halt request stands only where the debugger asks for halt-on-reset (log 9), and it has
neither a command nor a resume request under way (log 42). -/
def Obligations.ResetValuesDecided : Prop :=
  ∀ p : Params,
    let s := State.resetWith p
    (∀ i, (s.rc i).tag = false) ∧ (∀ g, s.mem.tagOf g = false) ∧ s.priv = .machine ∧ s.debug = false ∧ s.st 3 = false ∧ s.st 17 = false ∧
    s.csr.mie = 0 ∧ s.csr.satp = 0 ∧ s.csr.mcause = 0 ∧ s.resv = none ∧ s.fsOff = true ∧ s.effBe = false ∧
    s.cur64 = p.xlenmax64 ∧ s.capMode = !p.hasLegacy ∧ s.haltReq = p.haltOnReset ∧ s.resetHalt = p.haltOnReset ∧ s.command = none ∧
    s.resumeReq = false ∧ s.tlb = [] ∧ State.reset = State.resetWith {}

/-- O10. The state after reset meets the two invariants that O11 says every step keeps, for every choice of parameters whose boot address is even and has XLENMAX
bits. -/
def Obligations.ResetMeetsInvariant : Prop :=
  State.reset.Inv ∧ State.reset.CapInv ∧
    ∀ p : Params, (p.bootAddr.getLsbD 0 = false → (State.resetWith p).Inv) ∧ (truncX p p.bootAddr = p.bootAddr → (State.resetWith p).CapInv)

/-- O11. EVERY STEP KEEPS THE INVARIANTS, from any state whatever that meets them: memory in its canonical form; the pc (outside debug mode) and the saved pcs even; jvtc's
mode bits 0; a privilege mode that exists; debug mode only with Sdext; a trigger for debug mode written by debug mode alone (log 37); and, where it holds too, that every tagged capability in a register, a CSR or memory has bounds that decode,
no reserved bit and no reserved permission encoding (10_state R34 (a) to (c)). And no step changes the parameters, the interrupt inputs or the number of triggers. -/
def Obligations.StepKeepsInvariant : Prop :=
  ∀ s t : State, s.Inv → step s = .next t →
    t.Inv ∧ (s.CapInv → t.CapInv) ∧ t.cfg = s.cfg ∧ t.irqIn = s.irqIn ∧ t.triggers.length = s.triggers.length

/-- O12. ONLY DRET LEAVES DEBUG MODE, of the instructions, and only EBREAK, or an access of the instruction that meets a trigger set to enter debug mode (log 37), enters
it: `haltHit` at the address and of the kind of one of its accesses. -/
def Obligations.DebugModeBoundary : Prop :=
  ∀ (i : Instr) (s t : State), exec i s = .next t →
    (s.debug = true → t.debug = false → i = .dret) ∧
    (s.debug = false → t.debug = true → s.cfg.hasSdext = true ∧ ((∃ f, i = .ebreak f) ∨
      ∃ kind a, s.touches i kind a ∧ s.haltHit kind a = true))

/-- O13. THE PRIVILEGE MODE CHANGES ONLY by a return instruction or by taking an exception, from a state with the same privilege. -/
def Obligations.PrivilegeChanges : Prop :=
  ∀ (i : Instr) (s t : State), exec i s = .next t →
    t.priv = s.priv ∨ i = .mret ∨ i = .sret ∨ i = .dret ∨ ∃ (u : State) (e : Exc), u.priv = s.priv ∧ t = takeException u e

/-! ## Exceptions, interrupts, debug -/

/-- O14. TRAP ENTRY INTO M-MODE of a synchronous exception (R373, R372): mepcc is the whole pcc, mcause the code, mtval the value (0 with MTVAL_ZERO), MPP the old
privilege, MPIE the old MIE, MIE 0, the mode M, pcc the vector with bits 1:0 of the address 0; nothing else changes. mepcc and pcc take what they cannot hold
converted (log 1), and pcc an address sign-extended from MXLEN (log 40). In debug mode no trap is taken: the program buffer ends and an error is reported (R396;
log 24). -/
def Obligations.TrapEntryMachine : Prop :=
  (∀ (s : State) (e : Exc), s.debug = false → (s.cfg.hasS = true → s.priv ≠ .machine → s.csr.medeleg.getLsbD e.code = false) →
    e.code < 31 →
    let t := takeException s e
    t.csr.mepcc = Cap.hold s.cfg .mepcc s.pcc ∧ t.csr.mcause = BitVec.ofNat 64 e.code ∧
    t.csr.mtval = (if s.cfg.mtvalZero then 0 else truncX s.cfg e.tval) ∧
    t.csr.mstatus.toNat / 2 ^ 11 % 4 = (match s.priv with | .user => 0 | .supervisor => 1 | .machine => 3) ∧
    t.st 7 = s.st 3 ∧ t.st 3 = false ∧ (∀ i, i ≠ 3 → i ≠ 7 → i ≠ 11 → i ≠ 12 → t.st i = s.st i) ∧
    t.priv = .machine ∧ t.pcc = s.pccFor .machine { s.csr.mtvecc with addr := s.csr.mtvecc.addr &&& ~~~3#64 } ∧
    { t with
      csr := { t.csr with mepcc := s.csr.mepcc, mcause := s.csr.mcause, mtval := s.csr.mtval, mstatus := s.csr.mstatus },
      priv := s.priv, pcc := s.pcc } = s) ∧
  ∀ (s : State) (e : Exc), s.debug = true → takeException s e = { s with progBuf := [], cmdErr := true }

/-- O15. TRAP ENTRY INTO S-MODE of an exception raised below M-mode and delegated by medeleg (R374, R372); of addresses as O14 (log 1, log 40). -/
def Obligations.TrapEntrySupervisor : Prop :=
  ∀ (s : State) (e : Exc), s.debug = false → s.cfg.hasS = true → s.priv ≠ .machine → s.csr.medeleg.getLsbD e.code = true →
    e.code < 31 →
    let t := takeException s e
    t.csr.sepcc = Cap.hold s.cfg .sepcc s.pcc ∧ t.csr.scause = BitVec.ofNat 64 e.code ∧
    t.csr.stval = (if s.cfg.mtvalZero then 0 else truncX s.cfg e.tval) ∧
    t.st 8 = decide (s.priv = .supervisor) ∧ t.st 5 = s.st 1 ∧ t.st 1 = false ∧
    (∀ i, i ≠ 1 → i ≠ 5 → i ≠ 8 → t.st i = s.st i) ∧
    t.priv = .supervisor ∧ t.pcc = s.pccFor .supervisor { s.csr.stvecc with addr := s.csr.stvecc.addr &&& ~~~3#64 } ∧
    { t with
      csr := { t.csr with sepcc := s.csr.sepcc, scause := s.csr.scause, stval := s.csr.stval, mstatus := s.csr.mstatus },
      priv := s.priv, pcc := s.pcc } = s

/-- O16. INTERRUPTS (R371, R373, R374): between instructions, the first in the order MEI, MSI, MTI, SEI, SSI, STI, platform (log 11) of the pending, enabled
interrupts that are not delegated is taken into M-mode when the mode is below M or mstatus.MIE is set; where there is none, below M-mode, the first of the delegated
ones is taken into S-mode when the mode is U or mstatus.SIE is set. A vectored mtvecc or stvecc adds four times the cause to the handler's address. -/
def Obligations.InterruptsTaken : Prop :=
  (∀ (s : State) (i : Nat) (before after : List Nat), s.debug = false → (s.haltReq && s.cfg.hasSdext) = false → s.stepping = false →
    interruptOrder = before ++ i :: after → s.mipVal.getLsbD i = true → s.csr.mie.getLsbD i = true →
    ((s.priv ≠ .machine ∨ s.st 3 = true) → s.csr.mideleg.getLsbD i = false →
      (∀ j ∈ before, (s.mipVal &&& s.csr.mie &&& ~~~s.csr.mideleg).getLsbD j = false) →
      ∃ t, step s = .next t ∧ t.csr.mepcc = Cap.hold s.cfg .mepcc s.pcc ∧ t.priv = .machine ∧ t.csr.mtval = 0 ∧
        t.csr.mcause = BitVec.ofNat 64 i ||| (1#64 <<< (if s.x64Of .machine then 63 else 31)) ∧
        t.st 7 = s.st 3 ∧ t.st 3 = false ∧
        t.pcc = s.pccFor .machine (vectorOf s.cfg s.csr.mtvecc i) ∧ t.regs = s.regs ∧ t.mem = s.mem) ∧
    (s.cfg.hasS = true → (s.priv = .user ∨ (s.priv = .supervisor ∧ s.st 1 = true)) → s.csr.mideleg.getLsbD i = true →
      (∀ j ∈ interruptOrder, (s.mipVal &&& s.csr.mie &&& ~~~s.csr.mideleg).getLsbD j = false) →
      (∀ j ∈ before, (s.mipVal &&& s.csr.mie &&& s.csr.mideleg).getLsbD j = false) →
      ∃ t, step s = .next t ∧ t.csr.sepcc = Cap.hold s.cfg .sepcc s.pcc ∧ t.priv = .supervisor ∧ t.csr.stval = 0 ∧
        t.csr.scause = BitVec.ofNat 64 i ||| (1#64 <<< (if s.x64Of .supervisor then 63 else 31)) ∧
        t.st 8 = decide (s.priv = .supervisor) ∧ t.st 5 = s.st 1 ∧ t.st 1 = false ∧
        t.pcc = s.pccFor .supervisor (vectorOf s.cfg s.csr.stvecc i) ∧ t.regs = s.regs ∧ t.mem = s.mem)) ∧
  interruptOrder.take 6 = [11, 3, 7, 9, 1, 5] ∧ interruptOrder.drop 6 = (List.range 48).map (16 + ·)

/-- O17. A HALT REQUEST enters debug mode (R395): dpcc is the pcc, dddc the ddc, ddc Infinite at its own address, dcsr.prv the privilege and dcsr.cause 3, or 5 where
the request stands since reset, the execution mode Capability; registers and memory are unchanged. The request as plain data, and what it is since reset, are log 9;
the values of dcsr.cause and the places of its fields are log 7 (PRESUMED); what dpcc and dddc cannot hold is converted (log 1). -/
def Obligations.HaltRequestEntersDebug : Prop :=
  ∀ s : State, s.debug = false → s.haltReq = true → s.cfg.hasSdext = true →
    ∃ t, step s = .next t ∧ t.debug = true ∧ t.haltReq = false ∧ t.resetHalt = false ∧ t.csr.dpcc = Cap.hold s.cfg .dpcc s.pcc ∧
      (s.cfg.hasLegacy = true → t.csr.dddc = Cap.hold s.cfg .dddc s.ddc ∧ t.ddc = infiniteAt s.cfg s.ddc.addr) ∧
      t.csr.dcsr.toNat % 4 = (match s.priv with | .user => 0 | .supervisor => 1 | .machine => 3) ∧
      t.csr.dcsr.toNat / 64 % 8 = (if s.resetHalt then 5 else 3) ∧ t.capMode = true ∧ t.regs = s.regs ∧ t.mem = s.mem ∧ t.priv = s.priv

/-- O18. MRET (R228), in M-mode with ASR-permission, or in debug mode, where ASR-permission is not asked for (log 39): pcc is mepcc as read, unsealed (its address
sign-extended from the XLEN of the mode returned to, log 40); the privilege is MPP, or the least-privileged mode where that does not exist (log 18); MIE is MPIE;
MPIE is 1; MPP the least-privileged mode; MPRV is cleared unless M-mode is returned to. -/
def Obligations.MretReturns : Prop :=
  ∀ s : State, (s.debug = true ∨ s.priv = .machine) → (s.debug = true ∨ (s.pcc.perms s.cfg).asr = true) →
    ∃ t, exec .mret s = .next t ∧ t.pcc = s.pccFor t.priv ((s.readEpcc s.csr.mepcc).unseal s.cfg) ∧ t.priv = s.legalPriv s.mpp ∧
      t.st 3 = s.st 7 ∧ t.st 7 = true ∧ t.csr.mstatus.toNat / 2 ^ 11 % 4 = (if s.cfg.hasU then 0 else if s.cfg.hasS then 1 else 3) ∧
      t.st 17 = (s.st 17 && decide (t.priv = .machine)) ∧
      (∀ i, i ≠ 3 → i ≠ 7 → i ≠ 11 → i ≠ 12 → i ≠ 17 → t.st i = s.st i) ∧
      { t with csr := { t.csr with mstatus := s.csr.mstatus }, priv := s.priv, pcc := s.pcc } = s

/-- O19. SRET (R229), in S-mode with TSR clear or above, with ASR-permission, or in debug mode, where that is not asked for (log 39); a mode that does not exist is
the least-privileged one (log 18), and pcc's address as in O18 (log 40); MPRV is cleared unless M-mode is returned to. -/
def Obligations.SretReturns : Prop :=
  ∀ s : State, (s.debug = true ∨ s.priv = .machine ∨ (s.priv = .supervisor ∧ s.st 22 = false)) →
    (s.debug = true ∨ (s.pcc.perms s.cfg).asr = true) →
    ∃ t, exec .sret s = .next t ∧ t.pcc = s.pccFor t.priv ((s.readEpcc s.csr.sepcc).unseal s.cfg) ∧
      t.priv = s.legalPriv (if s.st 8 then .supervisor else .user) ∧
      t.st 1 = s.st 5 ∧ t.st 5 = true ∧ t.st 8 = false ∧ t.st 17 = (s.st 17 && decide (t.priv = .machine)) ∧
      (∀ i, i ≠ 1 → i ≠ 5 → i ≠ 8 → i ≠ 17 → t.st i = s.st i) ∧
      { t with csr := { t.csr with mstatus := s.csr.mstatus }, priv := s.priv, pcc := s.pcc } = s

/-- O20. DRET (R230, R397), in debug mode: pcc is dpcc as read (its low bits as log 19 says), unsealed, its address sign-extended as in O18 (log 40); ddc is dddc; the
privilege is dcsr.prv, or the least-privileged mode where that does not exist (log 18); debug mode ends, and mstatus, MPRV with it, is unchanged (log 9); a
resume request that stands is dropped, which R230 does not say (log 42). -/
def Obligations.DretReturns : Prop :=
  ∀ s : State, s.debug = true →
    ∃ t, exec .dret s = .next t ∧ t.debug = false ∧ t.resumeReq = false ∧ t.pcc = s.pccFor t.priv (s.readDpcc.unseal s.cfg) ∧
      t.ddc = (if s.cfg.hasLegacy then Cap.hold s.cfg .ddc s.csr.dddc else s.ddc) ∧
      t.priv = s.legalPriv (privOf (s.csr.dcsr.toNat % 4)) ∧ t.csr = s.csr ∧ t.regs = s.regs ∧ t.mem = s.mem

/-- O21. WHERE THE RETURNS TRAP (R138, R228 to R230): below the mode they need they are illegal instructions, SRET in S-mode also with TSR; then, without
ASR-permission, a CHERI exception of TYPE 0, CAUSE 2; DRET outside debug mode is illegal. -/
def Obligations.ReturnsCheckPrivilege : Prop :=
  ∀ s : State, s.debug = false →
    (s.priv ≠ .machine → exec .mret s = .next (takeException s ⟨2, 0⟩)) ∧
    (s.priv = .machine → (s.pcc.perms s.cfg).asr = false → exec .mret s = .next (takeException s ⟨28, 2⟩)) ∧
    (s.priv = .user → exec .sret s = .next (takeException s ⟨2, 0⟩)) ∧
    (s.priv = .supervisor → s.st 22 = true → exec .sret s = .next (takeException s ⟨2, 0⟩)) ∧
    (((s.priv = .supervisor ∧ s.st 22 = false) ∨ s.priv = .machine) → (s.pcc.perms s.cfg).asr = false →
      exec .sret s = .next (takeException s ⟨28, 2⟩)) ∧
    exec .dret s = .next (takeException s ⟨2, 0⟩)

/-- O22. ECALL takes the environment-call exception of the current mode: 8, 9 or 11, xtval 0 (R361, R369); EBREAK and C.EBREAK take the breakpoint exception with their
own address, unless dcsr sends them to debug mode, or end the program buffer in debug mode (R232, R395; log 23). -/
def Obligations.CallsAndBreaks : Prop :=
  (∀ s : State, exec .ecall s = .next (takeException s ⟨if s.debug then 11 else match s.priv with | .user => 8 | .supervisor => 9 | .machine => 11, 0⟩)) ∧
  ∀ (s : State) (f : Form),
    let bit := match s.priv with | .machine => 15 | .supervisor => 13 | .user => 12
    (s.debug = false → (s.cfg.hasSdext = false ∨ s.csr.dcsr.getLsbD bit = false) →
      exec (.ebreak f) s = .next (takeException s ⟨3, s.fetchAddr⟩)) ∧
    (s.debug = false → s.cfg.hasSdext = true → s.csr.dcsr.getLsbD bit = true → exec (.ebreak f) s = .next (s.enterDebug 1)) ∧
    (s.debug = true → exec (.ebreak f) s = .next { s with progBuf := [] })

/-- O23. THE INSTRUCTIONS WITHOUT EFFECT only move pcc on (R122, R124, R232, R341, R403): FENCE, FENCE.I and the prefetches always; WFI in M-mode, with TW clear, or
where there is no S-mode. SFENCE.VMA in M-mode, or in S-mode with TVM clear, also drops the cached translations it names: those of one page if rs1 is not register 0,
and of one address space and not global if rs2 is not. Otherwise WFI and SFENCE.VMA are illegal instructions: WFI under TW at once, where R403 gives it a bounded time
(log 30), and SFENCE.VMA as the base architecture says (log 31). -/
def Obligations.InstructionsWithoutEffect : Prop :=
  ∀ (s : State) (a b : Reg) (i : BitVec 12) (o : BitVec 7),
    let t : State := { s with pcc := s.nextPcc 4 }
    exec (.fence a b i) s = .next t ∧ exec (.fenceI a b i) s = .next t ∧ exec (.prefetchI a o) s = .next t ∧
    exec (.prefetchR a o) s = .next t ∧ exec (.prefetchW a o) s = .next t ∧
    ((s.debug = true ∨ s.priv = .machine ∨ s.st 21 = false ∨ s.cfg.hasS = false) → exec .wfi s = .next t) ∧
    (s.debug = false → s.priv ≠ .machine → s.st 21 = true → s.cfg.hasS = true → exec .wfi s = .next (takeException s ⟨2, 0⟩)) ∧
    ((s.debug = true ∨ s.priv = .machine ∨ (s.priv = .supervisor ∧ s.st 20 = false)) →
      ∃ u, exec (.sfenceVma a b) s = .next u ∧ { u with tlb := s.tlb } = t ∧
        ∀ c, c ∈ u.tlb ↔ c ∈ s.tlb ∧
          ((a ≠ 0 ∧ (c.mode.valid (s.cutX (s.rx a)) = false ∨ c.covers (s.cutX (s.rx a)) = false)) ∨
            (b ≠ 0 ∧ (c.leaf.global = true ∨ c.asid ≠ (s.rx b).toNat % 2 ^ s.asidBits)))) ∧
    (s.debug = false → (s.priv = .user ∨ (s.priv = .supervisor ∧ s.st 20 = true)) →
      exec (.sfenceVma a b) s = .next (takeException s ⟨2, 0⟩))

/-! ## Capability instructions -/

/-- O24. THE INSPECTION INSTRUCTIONS (R161 to R168), with CHERI register access enabled: the value of the table goes to x[rd], the tag and metadata of c[rd] become
zero, pcc moves on; nothing else changes. -/
def Obligations.InspectionResults : Prop :=
  ∀ (i : Instr) (s : State) (rd : Reg) (v : Word), s.cheriRegsDisabled = false → inspectTable s i = some (rd, v) →
    ∃ t, exec i s = .next t ∧ s.wrote t rd (s.intCap v) (s.nextPcc 4)

/-- O25. THE MANIPULATION INSTRUCTIONS (R171 to R183), with CHERI register access enabled: the capability of the table goes to c[rd], pcc moves on; nothing else
changes. -/
def Obligations.CapabilityResults : Prop :=
  ∀ (i : Instr) (s : State) (rd : Reg) (k : Cap), s.cheriRegsDisabled = false → manipTable s i = some (rd, k) →
    ∃ t, exec i s = .next t ∧ s.wrote t rd k (s.nextPcc 4)

/-- O26. MODESW and C.MODESW (R184): outside debug mode only pcc.M is toggled, and pcc moves on; in debug mode, where supported, only dinfc.M, and else they are illegal. -/
def Obligations.ModeSwitch : Prop :=
  ∀ (s : State) (n : Nat) (i : Instr), s.cheriRegsDisabled = false → ((i = .modesw ∧ n = 4) ∨ (i = .cModesw ∧ n = 2)) →
    (s.debug = false → ∃ t, exec i s = .next t ∧
      t.pcc = Cap.hold s.cfg .pcc ⟨s.pcc.tag, s.pcc.md ^^^ (1#64 <<< mBit s.cfg), s.toX (s.pc + BitVec.ofNat 64 n)⟩ ∧
      { t with pcc := s.pcc } = s) ∧
    (s.debug = true → s.cfg.debugModesw = true →
      exec i s = .next { s with dinfcM := !s.dinfcM, pcc := s.nextPcc n }) ∧
    (s.debug = true → s.cfg.debugModesw = false → exec i s = .next (takeException s ⟨2, 0⟩))

/-- O27. DISABLED CHERI REGISTER ACCESS (R90) makes every CHERI instruction an illegal instruction (the capability atomics by log 17). -/
def Obligations.CheriDisabledIsIllegal : Prop :=
  ∀ (i : Instr) (s : State), cheriTable i = true → s.cheriRegsDisabled = true → exec i s = .next (takeException s ⟨2, 0⟩)

/-- O28. NO RESULT GRANTS MORE THAN ITS SOURCE: a tagged result of a manipulation instruction has a tagged source, whose permissions include its own; and, for a
source whose address has XLENMAX bits and whose top is within the address space, whose bounds contain its own, which are in order where those of the source are. -/
def Obligations.ResultsNeverWiden : Prop :=
  ∀ (i : Instr) (s : State) (rd : Reg) (k : Cap) (src : Reg), manipTable s i = some (rd, k) →
    ((∃ d, i = .cmv d src) ∨ (∃ d b, i = .cadd d src b) ∨ (∃ d m, i = .caddi d src m) ∨ (∃ d b, i = .scaddr d src b) ∨
      (∃ d b, i = .acperm d src b) ∨ (∃ d b, i = .schi d src b) ∨ (∃ d, i = .sentry d src) ∨ (∃ d b, i = .cbld d src b) ∨
      (∃ d b, i = .scbnds d src b) ∨ (∃ d h m, i = .scbndsi d src h m) ∨ (∃ d b, i = .scbndsr d src b) ∨ (∃ d b, i = .scmode d src b)) →
    k.tag = true →
    (s.rc src).tag = true ∧ (k.perms s.cfg).le ((s.rc src).perms s.cfg) = true ∧
      (truncX s.cfg (s.rc src).addr = (s.rc src).addr → (s.rc src).top s.cfg ≤ 2 ^ s.cfg.xlenmax →
        (s.rc src).base s.cfg ≤ k.base s.cfg ∧ k.top s.cfg ≤ (s.rc src).top s.cfg ∧
          ((s.rc src).base s.cfg ≤ (s.rc src).top s.cfg → k.base s.cfg ≤ k.top s.cfg))

/-- O29. SETTING BOUNDS AND DECODING THEM AGREE: for a length that stays within the address space, the bounds of the result decode to those the encoder chose, which
contain the request, and are the request where the encoder says exact. -/
def Obligations.SetBoundsDecodesBack : Prop :=
  ∀ (p : Params) (k : Cap) (len : Nat) (ex : Bool), truncX p k.addr = k.addr → k.addr.toNat + len ≤ 2 ^ p.xlenmax →
    let f := encodeBounds p k.addr.toNat len
    let r := k.setBounds p len ex
    r.malformed p = false ∧ r.base p = f.base ∧ r.top p = f.top ∧ f.base ≤ k.addr.toNat ∧ k.addr.toNat + len ≤ f.top ∧
      (f.exact = true → f.base = k.addr.toNat ∧ f.top = k.addr.toNat + len)

/-- O30. REGISTER 0 IS NULL (R38): it reads as NULL whatever is written to it, a write to it changes nothing, and x0 reads 0; a write to another register is read
back and leaves the others alone. -/
def Obligations.RegisterZeroIsNull : Prop :=
  ∀ (s : State) (k : Cap) (i j : Reg), s.rc 0 = ⟨false, 0, 0⟩ ∧ s.rx 0 = 0 ∧ s.wc 0 k = s ∧ (s.wc i k).rc 0 = ⟨false, 0, 0⟩ ∧
    (i ≠ 0 → (s.wc i k).rc i = k) ∧ (i ≠ j → (s.wc i k).rc j = s.rc j)

/-! ## Memory -/

/-- O31. INTEGER LOADS (R214 to R222): an access that can be made gives x[rd] the bytes in the byte order of data accesses, sign- or zero-extended, and moves pcc on;
memory and all else are unchanged. A byte of a device is a free value (log 13). -/
def Obligations.IntegerLoads : Prop :=
  ∀ (i : Instr) (s : State) (rd rs1 : Reg) (off : Word) (n : Nat) (sg : Bool) (len : Nat) (as : List Nat),
    intLoadTable i = some (rd, rs1, off, n, sg, len) →
    s.canAccess (s.authEa rs1 off).1 (s.authEa rs1 off).2 n .load .plain as →
    let v : Word := BitVec.ofNat 64 (leNat (if s.effBe then (s.loadList as).reverse else s.loadList as))
    ∃ t, exec i s = .next t ∧ s.wrote t rd (s.intCap (if sg then (v <<< (64 - 8 * n)).sshiftRight (64 - 8 * n) else v)) (s.nextPcc len)

/-- O32. INTEGER STORES (R223 to R227): an access that can be made stores the low bytes of x[rs2] to exactly the bytes of the access, clears the tags of the granules
they lie in, and moves pcc on; every other byte, tag and register is unchanged. -/
def Obligations.IntegerStores : Prop :=
  ∀ (i : Instr) (s : State) (rs2 rs1 : Reg) (off : Word) (n len : Nat) (as : List Nat),
    intStoreTable i = some (rs2, rs1, off, n, len) → s.mem.wf = true →
    s.canAccess (s.authEa rs1 off).1 (s.authEa rs1 off).2 n .store .plain as →
    ∃ t, exec i s = .next t ∧
      s.storedAt t as (if s.effBe then (leBytes n (s.rx rs2).toNat).reverse else leBytes n (s.rx rs2).toNat) ∧
      t.pcc = s.nextPcc len ∧ t.regs = s.regs ∧ s.sameButMem t

/-- O33. WHERE MEMORY ACCESSES FAULT (R105, R106, R367, R368), of loads, stores, atomics, load-reserved, store-conditional and the first access of a push or pop (the
later ones: O55, O56; a tagged store to memory that is not taggable: O35, O42, O55): in this order, the first that fails decides. A breakpoint: debug entry with cause 2,
or code 3 (log 37). The authority untagged, sealed, without R- or W-permission, or not containing all bytes: code 28, TYPE 1, CAUSE 0, 1, 2, 3. A misaligned address,
unless misaligned accesses are supported: code 4 or 6 (or 5 and 7 for the integer atomics without Zam). An address that does not translate: the exception of the
translation, which reports the effective address, and nothing is written, also where a later byte of a misaligned access does not translate (log 33: the model's
choice); an invalid one, or, with no translation cached for the page (log 44), an entry of the root table that is not valid (the walk is log 12's): page fault 13 or 15.
A vacant byte: code 5 or 7. A store-conditional that traps, or is stopped by a trigger (log 29), has lost its reservation. -/
def Obligations.LoadStoreFaults : Prop :=
  ∀ (i : Instr) (s : State) (rs1 : Reg) (off : Word) (n : Nat) (kind : Acc) (al : Align),
    accessTable s i = some (rs1, off, n, kind, al) → s.ready i →
    let auth := (s.authEa rs1 off).1
    let ea := (s.authEa rs1 off).2
    let u := s.unreserved i
    let rd := decide (kind ≠ .store)
    let wr := decide (kind ≠ .load)
    let perm := (!rd || (auth.perms s.cfg).r) && (!wr || (auth.perms s.cfg).w)
    let misaligned := if kind = .load then 4 else 6
    let accessFault := if kind = .load then 5 else 7
    let pageFault := if kind = .load then 13 else 15
    (s.haltHit kind ea = true → exec i s = .next (u.enterDebug 2)) ∧
    (s.haltHit kind ea = false → s.bpHit kind ea = true → exec i s = .next (takeException u ⟨3, ea⟩)) ∧
    (s.bpHit kind ea = false → auth.tag = false → exec i s = .next (takeException u ⟨28, 0x10000⟩)) ∧
    (s.bpHit kind ea = false → auth.tag = true → auth.s s.cfg = true → exec i s = .next (takeException u ⟨28, 0x10001⟩)) ∧
    (s.bpHit kind ea = false → auth.tag = true → auth.s s.cfg = false → perm = false →
      exec i s = .next (takeException u ⟨28, 0x10002⟩)) ∧
    (s.bpHit kind ea = false → auth.tag = true → auth.s s.cfg = false → perm = true → s.covers auth ea n = false →
      exec i s = .next (takeException u ⟨28, 0x10003⟩)) ∧
    (s.permits auth ea n kind →
      (ea.toNat % n ≠ 0 → (al = .plain → s.cfg.misalignedIntOk = false) →
        exec i s = .next (takeException u ⟨if al = .zam ∧ s.cfg.hasZam = false then accessFault else misaligned, ea⟩)) ∧
      (∀ e : Exc, ((ea.toNat % n = 0 ∧ s.translate kind ea = .exc e) ∨
          (ea.toNat % n ≠ 0 ∧ al = .plain ∧ s.cfg.misalignedIntOk = true ∧ s.translateBytes kind ea 0 n = .exc e)) →
        e.tval = ea ∧ (e.code = pageFault ∨ e.code = accessFault) ∧ exec i s = .next (takeException u e)) ∧
      (ea.toNat % n = 0 →
        (∀ m root, s.svMode s.effPriv = some (m, root) →
          (m.valid ea = false → exec i s = .next (takeException u ⟨pageFault, ea⟩)) ∧
          (m.valid ea = true → s.cachedLeaf m ea = none → (∃ a ∈ rootEntry m root ea, Params.isMapped s.cfg a = false) →
            exec i s = .next (takeException u ⟨accessFault, ea⟩)) ∧
          (m.valid ea = true → s.cachedLeaf m ea = none → (∀ a ∈ rootEntry m root ea, Params.isMapped s.cfg a = true) →
            (s.entryAt (rootEntry m root ea)).getLsbD 0 = false → exec i s = .next (takeException u ⟨pageFault, ea⟩))) ∧
        ∀ (x : Phys) (a : Nat), s.translate kind ea = .ok x → a ∈ span x.pa n → Params.isMapped s.cfg a = false →
          (al = .strict → kind ≠ .load → ∀ b pte, x.leaf = some (b, pte) → s.cwPages = true →
            pte.getLsbD 59 = true ∧ (s.cde = false ∨ pte.getLsbD 60 = true)) →
          exec i s = .next (takeException u ⟨accessFault, ea⟩)))

/-- O34. CAPABILITY LOADS (R191, R99, R107): an aligned access that can be made gives c[rd] the CLEN bits, with the memory tag if the granule is taggable and the
authority grants R- and C-permission; nothing else changes. Misaligned, the permitted access takes code 4. -/
def Obligations.CapabilityLoads : Prop :=
  ∀ (i : Instr) (s : State) (rd rs1 : Reg) (off : Word) (len : Nat) (chk : Bool),
    capLoadTable s.cfg i = some (rd, rs1, off, len, chk) → (chk = true → s.cheriRegsDisabled = false) →
    let auth := (s.authEa rs1 off).1
    let ea := (s.authEa rs1 off).2
    (∀ (as : List Nat) (x : Phys), s.canAccess auth ea s.cfg.capBytes .load .strict as → s.translate .load ea = .ok x →
      let bs := s.loadList (span x.pa s.cfg.capBytes)
      let half := s.cfg.capBytes / 2
      ∃ t, exec i s = .next t ∧ s.wrote t rd
        ⟨s.mem.tagOf (x.pa / s.cfg.capBytes) && Params.isTaggable s.cfg x.pa && ((auth.perms s.cfg).r && (auth.perms s.cfg).c),
          BitVec.ofNat 64 (leNat (bs.drop half)), BitVec.ofNat 64 (leNat (bs.take half))⟩ (s.nextPcc len)) ∧
    (s.permits auth ea s.cfg.capBytes .load → ea.toNat % s.cfg.capBytes ≠ 0 → exec i s = .next (takeException s ⟨4, ea⟩))

/-- O35. CAPABILITY STORES (R192, R99, R107, R110): a store that can be made writes the CLEN bits of c[rs2] to the granule, and its tag if the authority grants W- and
C-permission and the granule is taggable; every other byte, tag and register is unchanged. Misaligned, the permitted access takes code 6; of a value that stays tagged
to memory that is not taggable, code 7 where the implementation faults. -/
def Obligations.CapabilityStores : Prop :=
  ∀ (i : Instr) (s : State) (rs2 rs1 : Reg) (off : Word) (len : Nat) (chk : Bool),
    capStoreTable s.cfg i = some (rs2, rs1, off, len, chk) → (chk = true → s.cheriRegsDisabled = false) →
    let auth := (s.authEa rs1 off).1
    let ea := (s.authEa rs1 off).2
    (∀ pa : Nat, s.mem.wf = true → s.canStoreCap auth ea (s.rc rs2) .store pa →
      ∃ t, exec i s = .next t ∧ s.capStoredAt t pa (s.storedCap auth pa (s.rc rs2)) ∧ t.pcc = s.nextPcc len ∧ t.regs = s.regs ∧
        s.sameButMem t) ∧
    (s.permits auth ea s.cfg.capBytes .store → ea.toNat % s.cfg.capBytes ≠ 0 → exec i s = .next (takeException s ⟨6, ea⟩)) ∧
    ∀ pa : Nat, s.untaggable auth ea (s.rc rs2) .store pa → exec i s = .next (takeException s ⟨7, ea⟩)

/-- O36. THE PAGE RULES OF ZCHERI_PTE for a capability store that passed the earlier checks (R120): SC, C.SC, C.SCSP, SC.C, AMOSWAP.C and the first store of CM.PUSH in
Capability mode. With CW clear, a store page fault where the implementation faults and the authority grants W- and C-permission, and else a store without the tag; with
CW set, CD clear and in use, and a tagged value under W- and C-permission, a store page fault, or, with hardware updating, CD set in the entry memory holds and then the
store. Of AMOSWAP.C the value read is what memory holds after that update; SC.C makes it also where its reservation fails, or ends by it (the whole effect of CM.PUSH is
said for a list of one register). That SC.C makes the update before it looks at its reservation, and what that does to one the update overlaps, is the model's
choice (log 29); the entry is the one the translation used, cached or not (log 44). -/
def Obligations.CapabilityPageRules : Prop :=
  ∀ (i : Instr) (s : State) (rs2 rs1 : Reg) (off : Word) (pa pteAddr : Nat) (pte : Word),
    capWriteTable s i = some (rs2, rs1, off) → s.ready i →
    let auth := (s.authEa rs1 off).1
    let ea := (s.authEa rs1 off).2
    let u := s.unreserved i
    let kind : Acc := match i with | .amoswapC .. => .atomic | _ => .store
    let v := s.rc rs2
    let wc := (auth.perms s.cfg).w && (auth.perms s.cfg).c
    let marked := s.storeBytes (span pteAddr 8)
      (let b := leBytes 8 (pte ||| (1#64 <<< 60)).toNat; if s.beOf .supervisor then b.reverse else b)
    s.permits auth ea s.cfg.capBytes kind → ea.toNat % s.cfg.capBytes = 0 → s.translate kind ea = .ok ⟨pa, some (pteAddr, pte)⟩ →
    s.cwPages = true → (∀ a ∈ span pa s.cfg.capBytes, Params.isMapped s.cfg a = true) →
    (pte.getLsbD 59 = false → s.cfg.cwClear = .raiseFault → wc = true → exec i s = .next (takeException u ⟨15, ea⟩)) ∧
    (pte.getLsbD 59 = true → pte.getLsbD 60 = false → s.cde = true → wc = true → v.tag = true → s.cfg.cdHwUpdate = false →
      exec i s = .next (takeException u ⟨15, ea⟩)) ∧
    ∀ (t : State) (k : Cap),
      ((pte.getLsbD 59 = false ∧ (s.cfg.cwClear = .strip ∨ wc = false) ∧ t = s ∧ k = { v with tag := false }) ∨
        (pte.getLsbD 59 = true ∧ pte.getLsbD 60 = false ∧ s.cde = true ∧ wc = true ∧ v.tag = true ∧ s.cfg.cdHwUpdate = true ∧
          Params.isTaggable s.cfg pa = true ∧ s.uncached.translate kind ea = s.translate kind ea ∧ t = marked ∧ k = v)) →
      (∀ len chk, capStoreTable s.cfg i = some (rs2, rs1, off, len, chk) → exec i s = .next ((t.writeCap pa k).advance len)) ∧
      (∀ rd aq rl, i = .amoswapC rd rs1 rs2 aq rl →
        exec i s = .next (((t.writeCap pa k).wc rd (t.loadedCap auth pa)).advance 4)) ∧
      (∀ rd aq rl, i = .scC rd rs1 rs2 aq rl →
        (t.resv = some (pa, s.cfg.capBytes) → exec i s = .next (({ t.writeCap pa k with resv := none }.wx rd 0).advance 4)) ∧
        (t.resv ≠ some (pa, s.cfg.capBytes) → exec i s = .next (({ t with resv := none }.wx rd 1).advance 4))) ∧
      ∀ e, i = .cmPush 4 e →
        exec i s = .next (((t.writeCap pa k).wc 2 (s.spAfter (0 - BitVec.ofNat 64 ((s.slot + 15) / 16 * 16 + 16 * e.toNat)))).advance 2)

/-- O37. A CAPABILITY COMES BACK FROM MEMORY (R99, R100): after a capability-wide store to a taggable granule, reading the granule gives the capability, tag and all;
after an integer store to any byte of the granule the tag is gone. -/
def Obligations.CapabilityRoundTrip : Prop :=
  ∀ (s : State) (a : Nat) (k : Cap), s.mem.wf = true → truncX s.cfg k.md = k.md → truncX s.cfg k.addr = k.addr →
    Params.isTaggable s.cfg a = true → (s.writeCap a k).readCap a = k ∧
    ∀ (as : List Nat) (bs : List Byte) (b : Nat), b ∈ as → b / s.cfg.capBytes = a / s.cfg.capBytes →
      (((s.writeCap a k).storeBytes as bs).readCap a).tag = false

/-- O38. FLOATING-POINT INSTRUCTIONS. LOADS AND STORES (R275 to R282): with FS Off they are illegal instructions; else an access that can be made fills f[frd] with the
bytes, NaN-boxed to FLEN (log 26), and makes FS Dirty; or stores the low bytes of f[fs2]. COMPUTATION, conversion, moves and compares (R283; the ratified ISA's, log 45):
with FS Off, or rounding by a reserved mode, they are illegal instructions; else they complete, and write x[rd], tag and metadata zero, or f[rd], the accrued flags,
and nothing else. A move to x sign-extends the low bytes, one from x boxes them; the sign-injections of doubles take the sign the other operand gives; a comparison with
a NaN is false. -/
def Obligations.FloatLoadsAndStores : Prop :=
  (∀ (i : Instr) (s : State) (f rs1 : Reg) (off : Word) (n len : Nat) (as : List Nat),
    (fpLoadTable i = some (f, rs1, off, n, len) → s.csr.mstatus.toNat / 2 ^ 13 % 4 = 0 → exec i s = .next (takeException s ⟨2, 0⟩)) ∧
    (fpStoreTable i = some (f, rs1, off, n, len) → s.csr.mstatus.toNat / 2 ^ 13 % 4 = 0 → exec i s = .next (takeException s ⟨2, 0⟩)) ∧
    (fpLoadTable i = some (f, rs1, off, n, len) → s.csr.mstatus.toNat / 2 ^ 13 % 4 ≠ 0 →
      s.canAccess (s.authEa rs1 off).1 (s.authEa rs1 off).2 n .load .plain as →
      let v : Word := BitVec.ofNat 64 (leNat (if s.effBe then (s.loadList as).reverse else s.loadList as))
      let boxed := v ||| (BitVec.allOnes 64 <<< (8 * n))
      ∃ t, exec i s = .next t ∧ t.rf f = (if s.cfg.hasD then boxed else zx32 boxed) ∧ (∀ j, j ≠ f → t.rf j = s.rf j) ∧
        t.pcc = s.nextPcc len ∧ s.sameButFp t) ∧
    (fpStoreTable i = some (f, rs1, off, n, len) → s.csr.mstatus.toNat / 2 ^ 13 % 4 ≠ 0 → s.mem.wf = true →
      s.canAccess (s.authEa rs1 off).1 (s.authEa rs1 off).2 n .store .plain as →
      ∃ t, exec i s = .next t ∧ s.storedAt t as (if s.effBe then (leBytes n (s.rf f).toNat).reverse else leBytes n (s.rf f).toNat) ∧
        t.pcc = s.nextPcc len ∧ t.regs = s.regs ∧ s.sameButMem t)) ∧
  ∀ (i : FpInstr) (s : State),
    let rm := if i.rm = 7 then s.csr.fcsr.toNat / 32 else i.rm.toNat
    (s.csr.mstatus.toNat / 2 ^ 13 % 4 = 0 → execFp i s = .next (takeException s ⟨2, 0⟩)) ∧
    (i.op.rounds = true → 4 < rm → execFp i s = .next (takeException s ⟨2, 0⟩)) ∧
    (s.csr.mstatus.toNat / 2 ^ 13 % 4 ≠ 0 → (i.op.rounds = true → rm ≤ 4) → ∃ t fl, execFp i s = .next t ∧ t.pcc = s.nextPcc 4 ∧
      s.sameButFlags t fl (!i.op.toX) ∧
      (i.op.toX = true → t.fregs = s.fregs ∧ ∃ v, s.regUpdate t i.rd (s.intCap v) ∧
        (i.op = .mvToX → v = (let w := 64 - 8 * i.fmt.bytes; (s.rf i.rs1 <<< w).sshiftRight w)) ∧
        ((s.fpVal i.fmt i.rs1).isNan = true ∨ (s.fpVal i.fmt i.rs2).isNan = true → i.op = .le ∨ i.op = .lt ∨ i.op = .eq → v = 0)) ∧
      (i.op.toX = false → t.regs = s.regs ∧ (∀ j, j ≠ i.rd → t.rf j = s.rf j) ∧
        (i.op = .mvFromX → t.rf i.rd = (let b := s.rx i.rs1 ||| (BitVec.allOnes 64 <<< (8 * i.fmt.bytes)); if s.cfg.hasD then b else zx32 b)) ∧
        (i.fmt = .double → s.cfg.hasD = true →
          let m := s.rf i.rs1 &&& 0x7FFFFFFFFFFFFFFF
          let a := s.rf i.rs1 &&& 0x8000000000000000
          let b := s.rf i.rs2 &&& 0x8000000000000000
          (i.op = .sgnj → t.rf i.rd = m ||| b) ∧ (i.op = .sgnjn → t.rf i.rd = m ||| (b ^^^ 0x8000000000000000)) ∧
          (i.op = .sgnjx → t.rf i.rd = m ||| (a ^^^ b)))))

/-! ## Atomics -/

/-- O39. INTEGER ATOMICS (R241, R242): an aligned access that can be both read and written gives x[rd] the old value, sign-extended, and the bytes the new value; every
other byte, tag and register is unchanged. A misaligned one takes code 6 with Zam and 7 without (R258). -/
def Obligations.IntegerAtomics : Prop :=
  ∀ (i : Instr) (s : State) (rd rs1 rs2 : Reg) (n : Nat) (f : Word → Word → Word), amoTable i = some (rd, rs1, rs2, n, f) →
    let auth := (s.authEa rs1 0).1
    let ea := (s.authEa rs1 0).2
    (∀ as : List Nat, s.mem.wf = true → s.canAccess auth ea n .atomic .zam as →
      let ext := fun v : Word => (v <<< (64 - 8 * n)).sshiftRight (64 - 8 * n)
      let old := ext (BitVec.ofNat 64 (leNat (if s.effBe then (s.loadList as).reverse else s.loadList as)))
      let new := leBytes n (f old (ext (s.rx rs2))).toNat
      ∃ t, exec i s = .next t ∧ s.storedAt t as (if s.effBe then new.reverse else new) ∧ s.regUpdate t rd (s.intCap old) ∧
        t.pcc = s.nextPcc 4 ∧ s.sameButMem t) ∧
    (s.permits auth ea n .atomic → ea.toNat % n ≠ 0 →
      exec i s = .next (takeException s ⟨if s.cfg.hasZam then 6 else 7, ea⟩))

/-- O40. LOAD-RESERVED (R244 to R249): the loaded value goes to rd and the reservation is the bytes read; LR.C loads a capability with its tag as LC does. -/
def Obligations.LoadReserved : Prop :=
  (∀ (i : Instr) (s : State) (rd rs1 : Reg) (n : Nat) (as : List Nat) (x : Phys), lrTable i = some (rd, rs1, n) →
    s.canAccess (s.authEa rs1 0).1 (s.authEa rs1 0).2 n .load .zam as → s.translate .load (s.authEa rs1 0).2 = .ok x →
    let v : Word := BitVec.ofNat 64 (leNat (if s.effBe then (s.loadList as).reverse else s.loadList as))
    ∃ t, exec i s = .next t ∧ t.resv = some (x.pa, n) ∧
      s.wrote { t with resv := s.resv } rd (s.intCap ((v <<< (64 - 8 * n)).sshiftRight (64 - 8 * n))) (s.nextPcc 4)) ∧
  ∀ (s : State) (rd rs1 : Reg) (aq rl : Bool) (as : List Nat) (x : Phys), s.cheriRegsDisabled = false →
    s.canAccess (s.authEa rs1 0).1 (s.authEa rs1 0).2 s.cfg.capBytes .load .strict as → s.translate .load (s.authEa rs1 0).2 = .ok x →
    ∃ t, exec (.lrC rd rs1 aq rl) s = .next t ∧ t.resv = some (x.pa, s.cfg.capBytes) ∧
      s.wrote { t with resv := s.resv } rd (s.loadedCap (s.authEa rs1 0).1 x.pa) (s.nextPcc 4)

/-- O41. STORE-CONDITIONAL (R250 to R255): with the reservation exactly the bytes of the access it stores, writes 0 to rd; with any other it stores nothing and writes
1; either way, and also when it traps, no reservation is left, nor when a trigger stops it, of which R250 does not speak (log 29: the model's choice). -/
def Obligations.StoreConditional : Prop :=
  ∀ (i : Instr) (s : State) (rd rs1 rs2 : Reg) (n : Nat), scTable i = some (rd, rs1, rs2, n) →
    (∀ t, exec i s = .next t → t.resv = none) ∧
    ∀ (as : List Nat) (x : Phys), s.canAccess (s.authEa rs1 0).1 (s.authEa rs1 0).2 n .store .zam as →
      s.translate .store (s.authEa rs1 0).2 = .ok x →
      (s.mem.wf = true → s.resv = some (x.pa, n) → ∃ t, exec i s = .next t ∧
        s.storedAt { t with resv := resvAfter s.resv as } as
          (if s.effBe then (leBytes n (s.rx rs2).toNat).reverse else leBytes n (s.rx rs2).toNat) ∧
        s.regUpdate t rd (s.intCap 0) ∧ t.pcc = s.nextPcc 4 ∧ s.sameButMem t) ∧
      (s.resv ≠ some (x.pa, n) → ∃ t, exec i s = .next t ∧ s.wrote { t with resv := s.resv } rd (s.intCap 1) (s.nextPcc 4))

/-- O42. CAPABILITY ATOMICS (R243, R256): AMOSWAP.C swaps c[rs2] with the granule, each direction stripped of its tag without the permission; SC.C stores like SC when
the reservation is exactly the granule, and writes 0, else it stores nothing and writes 1; no reservation is left. A value that stays tagged, to memory that is not
taggable, takes code 7 where the implementation faults (R110), of SC.C where the reservation is held. -/
def Obligations.CapabilityAtomics : Prop :=
  ∀ (s : State) (rd rs1 rs2 : Reg) (aq rl : Bool) (pa : Nat), s.cheriRegsDisabled = false → s.mem.wf = true →
    let auth := (s.authEa rs1 0).1
    let ea := (s.authEa rs1 0).2
    (s.canStoreCap auth ea (s.rc rs2) .atomic pa → ∃ t, exec (.amoswapC rd rs1 rs2 aq rl) s = .next t ∧
      s.capStoredAt t pa (s.storedCap auth pa (s.rc rs2)) ∧ s.regUpdate t rd (s.loadedCap auth pa) ∧ t.pcc = s.nextPcc 4 ∧
      s.sameButMem t) ∧
    (s.canStoreCap auth ea (s.rc rs2) .store pa → s.resv = some (pa, s.cfg.capBytes) →
      ∃ t, exec (.scC rd rs1 rs2 aq rl) s = .next t ∧ t.resv = none ∧
        s.capStoredAt { t with resv := resvAfter s.resv (span pa s.cfg.capBytes) } pa (s.storedCap auth pa (s.rc rs2)) ∧
        s.regUpdate t rd (s.intCap 0) ∧ t.pcc = s.nextPcc 4 ∧ s.sameButMem t) ∧
    (s.canStoreCap auth ea (s.rc rs2) .store pa → s.resv ≠ some (pa, s.cfg.capBytes) →
      ∃ t, exec (.scC rd rs1 rs2 aq rl) s = .next t ∧ t.resv = none ∧
        s.wrote { t with resv := s.resv } rd (s.intCap 1) (s.nextPcc 4)) ∧
    (s.untaggable auth ea (s.rc rs2) .atomic pa → exec (.amoswapC rd rs1 rs2 aq rl) s = .next (takeException s ⟨7, ea⟩)) ∧
    (s.untaggable auth ea (s.rc rs2) .store pa → s.resv = some (pa, s.cfg.capBytes) →
      exec (.scC rd rs1 rs2 aq rl) s = .next (takeException { s with resv := none } ⟨7, ea⟩))

/-! ## Control flow -/

/-- O43. AUIPC (R201): pcc with its address moved by the 20-bit immediate and 12 zeros, as a capability in Capability mode, as an integer in Legacy mode. -/
def Obligations.AuipcResult : Prop :=
  ∀ (s : State) (rd : Reg) (imm : BitVec 20), (s.debug = false ∨ s.cfg.debugPcrelIllegal = false) →
    let a := s.pc + (imm ++ 0#12).signExtend 64
    ∃ t, exec (.auipc rd imm) s = .next t ∧
      s.wrote t rd (if s.capMode then withAddress s.cfg s.pcc (s.toX a) else s.intCap a) (s.nextPcc 4)

/-- O44. DIRECT JUMPS (R202, R204, R294, R295), where the target is aligned and a smallest instruction there is in pcc's bounds (in debug mode no bounds
are asked, R396): pcc takes the target address, the link register the sealed pcc of the next instruction in Capability mode, its address in Legacy mode. The target is
s.targetAt: converted, before the checks, where pcc cannot hold it, which R202 does not say (log 1, the model's choice). Where XLEN is less than XLENMAX it is
sign-extended (R90), and the bounds are asked of it so extended (log 40, the model's choice). -/
def Obligations.DirectJumps : Prop :=
  ∀ (i : Instr) (s : State) (rd : Reg) (off : Word) (len : Nat), directJumpTable i = some (rd, off, len) →
    (s.debug = false ∨ s.cfg.debugPcrelIllegal = false) →
    let target := s.targetAt (s.pc + off)
    let next := s.pc + BitVec.ofNat 64 len
    target.toNat % s.minLen = 0 → (s.debug = true ∨ s.pcc.inBounds s.cfg target s.minLen = true) →
    ∃ t, exec i s = .next t ∧
      s.wrote t rd (if s.capMode then (withAddress s.cfg s.pcc (s.toX next)).seal s.cfg else s.intCap next) { s.pcc with addr := target }

/-- O45. INDIRECT JUMPS (R203, R205, R292, R293). Through a capability: tagged, unsealed or with offset zero, executable, a smallest instruction at the even target in
its bounds; pcc becomes that capability, unsealed, at the target. Through an integer: the target within pcc; only the address changes. The target is
s.targetAt: converted before the checks where pcc cannot hold it (R203; what it becomes: log 1, the model's choice). Where XLEN is less than XLENMAX it is
sign-extended (R90), and the bounds are asked of it so extended (log 40, the model's choice). -/
def Obligations.IndirectJumps : Prop :=
  ∀ (i : Instr) (s : State) (rd rs1 : Reg) (off : Word) (len : Nat) (cap : Bool),
    indirectJumpTable s.capMode i = some (rd, rs1, off, len, cap) → (s.debug = false ∨ s.cfg.debugPcrelIllegal = false) →
    ((∃ d a, i = .jalrMode d a) → s.cheriRegsDisabled = false) →
    let next := s.pc + BitVec.ofNat 64 len
    (cap = true →
      let k := s.rc rs1
      let target := s.targetAt ((k.addr + off) &&& ~~~1#64)
      target.toNat % s.minLen = 0 → k.tag = true → (k.s s.cfg = false ∨ off = 0) → (k.perms s.cfg).x = true →
      k.inBounds s.cfg target s.minLen = true →
      ∃ t, exec i s = .next t ∧
        s.wrote t rd ((withAddress s.cfg s.pcc (s.toX next)).seal s.cfg) { k.unseal s.cfg with addr := target }) ∧
    (cap = false →
      let target := s.targetAt ((s.rx rs1 + off) &&& ~~~1#64)
      target.toNat % s.minLen = 0 → (s.debug = true ∨ s.pcc.inBounds s.cfg target s.minLen = true) →
      ∃ t, exec i s = .next t ∧ s.wrote t rd (s.intCap next) { s.pcc with addr := target })

/-- O46. BRANCHES (R206 to R212, R286, R287): taken, pcc takes the target address, which must be aligned and in bounds; not taken, pcc moves on, whatever the target;
nothing else changes. In debug mode no bounds are asked (R396). The target is s.targetAt: converted, before the checks, where pcc cannot hold it, where R206 checks and
writes the target itself (log 1, the model's choice). Where XLEN is less than XLENMAX it is sign-extended (R90), and the bounds are asked of it so extended (log 40, the
model's choice). -/
def Obligations.Branches : Prop :=
  ∀ (i : Instr) (s : State) (c : Bool) (off : Word) (len : Nat), branchTable s i = some (c, off, len) →
    (s.debug = false ∨ s.cfg.debugPcrelIllegal = false) →
    let target := s.targetAt (s.pc + off)
    (c = true → target.toNat % s.minLen = 0 → (s.debug = true ∨ s.pcc.inBounds s.cfg target s.minLen = true) →
      exec i s = .next { s with pcc := { s.pcc with addr := target } }) ∧
    (c = false → exec i s = .next { s with pcc := s.nextPcc len })

/-- O47. WHERE JUMPS AND BRANCHES FAULT (R200, R202 to R206): in debug mode, where the implementation says so, every instruction that reads or updates pcc is illegal;
a taken one with a misaligned target takes code 0 with the target; then one whose target lies outside pcc, also an indirect one through an integer, takes code 28,
TYPE 2, CAUSE 3; a jump through a capability takes TYPE 2 with CAUSE 0 untagged, 1 sealed with an offset, 2 not executable, 3 out of bounds. The target checked is
s.targetAt, converted where pcc cannot hold it: R203 says so of indirect jumps, but R202 and R206 check the target itself, so for direct jumps and branches the
conversion is the model's choice (log 1), as is what a target is converted to. Where XLEN is less than XLENMAX the
target is sign-extended (R90), and the bounds are asked of it so extended (log 40, the model's choice). -/
def Obligations.JumpFaults : Prop :=
  (∀ (i : Instr) (s : State), pcrelTable i = true → s.debug = true → s.cfg.debugPcrelIllegal = true →
    exec i s = .next (takeException s ⟨2, 0⟩)) ∧
  (∀ (i : Instr) (s : State) (off : Word) (len : Nat), s.debug = false →
    ((∃ rd, directJumpTable i = some (rd, off, len)) ∨ branchTable s i = some (true, off, len)) →
    let target := s.targetAt (s.pc + off)
    (target.toNat % s.minLen ≠ 0 → exec i s = .next (takeException s ⟨0, s.cutX target⟩)) ∧
    (target.toNat % s.minLen = 0 → s.pcc.inBounds s.cfg target s.minLen = false → exec i s = .next (takeException s ⟨28, 0x20003⟩))) ∧
  (∀ (i : Instr) (s : State) (rd rs1 : Reg) (off : Word) (len : Nat), s.debug = false →
    indirectJumpTable s.capMode i = some (rd, rs1, off, len, false) → ((∃ d a, i = .jalrMode d a) → s.cheriRegsDisabled = false) →
    let target := s.targetAt ((s.rx rs1 + off) &&& ~~~1#64)
    (target.toNat % s.minLen ≠ 0 → exec i s = .next (takeException s ⟨0, s.cutX target⟩)) ∧
    (target.toNat % s.minLen = 0 → s.pcc.inBounds s.cfg target s.minLen = false → exec i s = .next (takeException s ⟨28, 0x20003⟩))) ∧
  ∀ (i : Instr) (s : State) (rd rs1 : Reg) (off : Word) (len : Nat), s.debug = false → s.cheriRegsDisabled = false →
    indirectJumpTable s.capMode i = some (rd, rs1, off, len, true) →
    let k := s.rc rs1
    let target := s.targetAt ((k.addr + off) &&& ~~~1#64)
    (target.toNat % s.minLen ≠ 0 → exec i s = .next (takeException s ⟨0, s.cutX target⟩)) ∧
    (target.toNat % s.minLen = 0 → k.tag = false → exec i s = .next (takeException s ⟨28, 0x20000⟩)) ∧
    (target.toNat % s.minLen = 0 → k.tag = true → k.s s.cfg = true → off ≠ 0 → exec i s = .next (takeException s ⟨28, 0x20001⟩)) ∧
    (target.toNat % s.minLen = 0 → k.tag = true → (k.s s.cfg = false ∨ off = 0) → (k.perms s.cfg).x = false →
      exec i s = .next (takeException s ⟨28, 0x20002⟩)) ∧
    (target.toNat % s.minLen = 0 → k.tag = true → (k.s s.cfg = false ∨ off = 0) → (k.perms s.cfg).x = true →
      k.inBounds s.cfg target s.minLen = false → exec i s = .next (takeException s ⟨28, 0x20003⟩))

/-! ## Integer computation -/

/-- O48. INTEGER COMPUTATION (R231, R39, R354): the result of the table, narrowed to XLEN bits, replaces the whole register rd, tag and metadata zero, pcc moves on, and
nothing else changes; it never traps. The same of the computational instructions without a row of the opcode table (log 41): of every one it completes so, and of
multiplication, division, the conditional zeros and the bit instructions with the result of the second table. -/
def Obligations.IntegerComputation : Prop :=
  (∀ (i : Instr) (s : State) (rd : Reg) (v : Word) (len : Nat), computeTable s i = some (rd, v, len) →
    ∃ t, exec i s = .next t ∧ s.wrote t rd (s.intCap v) (s.nextPcc len)) ∧
  ∀ (x : ExtInstr) (s : State), ∃ (v : Word) (t : State), execExt x s = .next t ∧
    s.wrote t x.rd (s.intCap v) (s.nextPcc (if x.form = .std then 4 else 2)) ∧
    ∀ w, extTable s x.op (s.rx x.rs1) (match x.src with | .reg r => s.rx r | .shamt i => i.setWidth 64) = some w → s.intCap v = s.intCap w

/-- O49. POINTER ADDITIONS (R345 to R353, R289, R290): in Capability mode the pointer register's capability with its address incremented, by set-address semantics; in
Legacy mode the integer sum. -/
def Obligations.PointerAdditions : Prop :=
  ∀ (i : Instr) (s : State) (rd b : Reg) (d : Word) (len : Nat), pointerTable s i = some (rd, b, d, len) →
    ∃ t, exec i s = .next t ∧
      s.wrote t rd (if s.capMode then withAddress s.cfg (s.rc b) (truncX s.cfg ((s.rc b).addr + d)) else s.intCap (s.rx b + d))
        (s.nextPcc len)

/-- O50. REGISTER MOVES (C.MV, CM.MVSA01, CM.MVA01S; R288, R328, R329): whole capabilities in Capability mode, integers in Legacy mode; both sources are read before
either destination is written. -/
def Obligations.RegisterMoves : Prop :=
  ∀ (i : Instr) (s : State) (m : Reg × Reg) (o : Option (Reg × Reg)), moveTable i = some (m, o) →
    let val := fun r : Reg => if s.capMode then s.rc r else s.intCap (s.rx r)
    ∃ t, exec i s = .next t ∧ t.pcc = s.nextPcc 2 ∧ s.sameButRegs t ∧
      ∀ j : Reg, t.rc j =
        if j = 0 then nullCap
        else match o with
          | some (d, b) => if j = d then val b else if j = m.1 then val m.2 else s.rc j
          | none => if j = m.1 then val m.2 else s.rc j

/-! ## CSRs -/

/-- O51. CSRRW (R263), where the access is allowed: at a CLEN address c[rd] gets the whole register, and the register takes what all CLEN+1 bits of c[rs1] legalise to;
at any other number x[rd] gets the integer, and the register takes what x[rs1] legalises to (log 1, log 18, log 40). No other capability CSR changes, and no XLEN-wide
CSR beside the one named, but that a write of fcsr, fflags or frm makes mstatus.FS Dirty (log 26) and one of misa may change SXL and UXL (log 18, log 43); the triggers change only by tdata1 and tdata2 (log 37); the cached
translations, a write of satp among the causes, stay (log 44), and of the rest of the machine only c[rd] and pcc change. A write of dinfc is ignored (R81). Reading a
counter moves the free-value counter on (log 8). So mscratchc and a general register swap whole. -/
def Obligations.CsrSwap : Prop :=
  (∀ (s : State) (rd rs1 : Reg) (n : BitVec 12) (r : CsrRef), s.csrAllowed n true r →
    ∃ t, exec (.csrrw rd rs1 n) s = .next t ∧ s.csrFrame t ∧ t.pcc = s.nextPcc 4 ∧
      s.regUpdate t rd
        (match r with | .wide c => s.readCapCsr c | .alias_ c => s.intCap (s.readCapCsr c).addr | .plain x => s.intCap (s.readX x)) ∧
      (∀ c, r = .wide c → c ≠ .dinfc → t.rawCapCsr c = s.clenValue c (s.rc rs1)) ∧
      (r = .wide .dinfc → t.csr = s.csr ∧ t.ddc = s.ddc) ∧
      (∀ c, r = .alias_ c → t.rawCapCsr c = s.xlenValue c (s.rx rs1)) ∧
      ((∃ c, r = .wide c ∨ r = .alias_ c) → s.sameXCsrs t) ∧
      (∀ x, r = .plain x → t.csr = (s.writeX x (s.rx rs1)).csr ∧ t.triggers = (s.writeX x (s.rx rs1)).triggers ∧
        t.csr = Csrs.writtenAt x s.csr t.csr ∧ t.ddc = s.ddc) ∧
      (r ≠ .plain .tdata1 → r ≠ .plain .tdata2 → t.triggers = s.triggers) ∧
      (r ≠ .plain .counter → t.freeCtr = s.freeCtr) ∧
      (∀ c, r ≠ .wide c → r ≠ .alias_ c → t.rawCapCsr c = s.rawCapCsr c)) ∧
  ∀ (s : State) (rd rs1 : Reg), s.debug = false → s.priv = .machine → (s.pcc.perms s.cfg).asr = true → s.cheriRegsDisabled = false →
    ∃ t, exec (.csrrw rd rs1 0x760) s = .next t ∧ t.csr.mscratchc = s.rc rs1 ∧ (rd ≠ 0 → t.rc rd = s.csr.mscratchc) ∧
      t.pcc = s.nextPcc 4 ∧ t.mem = s.mem

/-- O52. CSRRS, CSRRC AND THE IMMEDIATE FORMS (R264 to R269), where the access is allowed: rd gets the old value if the form reads, the register takes what the new value
of the table legalises to if the form writes (log 1, log 18, log 40), and no CSR changes if it does not. What else may change is as in O51: of the capability CSRs
nothing, of the XLEN-wide ones mstatus.FS with a write of fcsr, fflags or frm (log 26) SXL and UXL with one of misa (log 18, log 43), and the triggers with one of
tdata1 and tdata2 (log 37). A write of dinfc is ignored (R81). Reading a counter moves the free-value counter on (log 8). -/
def Obligations.CsrSetAndClear : Prop :=
  ∀ (i : Instr) (s : State) (f : Word → Word → Word) (rd : Reg) (v : Word) (n : BitVec 12) (rdOp wrOp : Bool) (r : CsrRef),
    csrTable s i = some (f, rd, v, n, rdOp, wrOp) → s.csrAllowed n wrOp r →
    ∃ t, exec i s = .next t ∧ s.csrFrame t ∧ t.pcc = s.nextPcc 4 ∧
      (rdOp = true → s.regUpdate t rd
        (match r with | .wide c => s.readCapCsr c | .alias_ c => s.intCap (s.readCapCsr c).addr | .plain x => s.intCap (s.readX x))) ∧
      (rdOp = false → t.regs = s.regs) ∧
      (∀ c, (r = .wide c ∨ r = .alias_ c) → c ≠ .dinfc → wrOp = true →
        t.rawCapCsr c = s.xlenValue c (f (s.readCapCsr c).addr v)) ∧
      (r = .wide .dinfc → t.csr = s.csr ∧ t.ddc = s.ddc) ∧
      ((∃ c, r = .wide c ∨ r = .alias_ c) → s.sameXCsrs t) ∧
      (∀ x, r = .plain x → wrOp = true →
        t.csr = (s.writeX x (f (s.rmwX x) v)).csr ∧ t.triggers = (s.writeX x (f (s.rmwX x) v)).triggers ∧
        t.csr = Csrs.writtenAt x s.csr t.csr ∧ t.ddc = s.ddc) ∧
      (r ≠ .plain .tdata1 → r ≠ .plain .tdata2 → t.triggers = s.triggers) ∧
      (r ≠ .plain .counter → t.freeCtr = s.freeCtr) ∧
      (∀ c, r ≠ .wide c → r ≠ .alias_ c → t.rawCapCsr c = s.rawCapCsr c) ∧
      (wrOp = false → t.csr = s.csr ∧ t.triggers = s.triggers ∧ t.ddc = s.ddc)

/-- O53. WHERE A CSR ACCESS FAULTS (R262): a number that names nothing here, too low a privilege, a debug register outside debug mode, a write to a read-only number, a
CLEN address while CHERI register access is disabled, or a base condition unmet: illegal instruction. With all of those passed, a privileged number without
ASR-permission: code 28, TYPE 0, CAUSE 2. -/
def Obligations.CsrFaults : Prop :=
  ∀ (i : Instr) (s : State) (n : BitVec 12) (w : Bool), csrAccess i = some (n, w) →
    (s.csrRef n = none → exec i s = .next (takeException s ⟨2, 0⟩)) ∧
    ∀ r, s.csrRef n = some r →
      ((s.privNum < n.toNat / 256 % 4 ∨ (n.toNat / 16 = 0x7b ∧ s.debug = false) ∨ (w = true ∧ n.toNat / 1024 = 3) ∨
          (s.cheriRegsDisabled = true ∧ ∃ c, r = .wide c) ∨ s.csrBaseOk n r = false) →
        exec i s = .next (takeException s ⟨2, 0⟩)) ∧
      (n.toNat / 256 % 4 ≤ s.privNum → (n.toNat / 16 = 0x7b → s.debug = true) → (w = true → n.toNat / 1024 ≠ 3) →
        (s.cheriRegsDisabled = true → ∀ c, r ≠ .wide c) → s.csrBaseOk n r = true → n.toNat / 256 % 4 ≠ 0 → s.asrOk = false →
        exec i s = .next (takeException s ⟨28, 2⟩))

/-- O54. FIELD RULES OF THE CSRS. mseccfg holds CME alone (R86 names the other fields without their meaning: read-only zero here, log 43); medeleg[28] can be set and
medeleg[11] cannot (R71, R372); senvcfg.CRE reads 0 while menvcfg.CRE is 0 (R89); menvcfg.CDE reads 0 without CD and 1 where CD is not configurable (R87); mepcc reads
with bit 1 of its address clear while IALIGN is 32, a sealed one losing its tag if that changes it (R69); a sealed capability written to mtvecc loses its tag (R67);
jvtc's mode bits 5:0 are 0 after every write (R78; log 20).
Writes of mstatus, sstatus and misa: no XLEN setting above the next-higher mode's, nor any change where they are read-only (R65); MPP takes only a mode that exists
(log 18); the byte-order fields are read-only where they are not implemented (R64); misa.MXL takes 1 and 2 where it is writable, misa.C what is written, but stays set
while the next instruction would be misaligned (R63; log 21). satp takes a MODE the implementation has (log 18). The triggers, whose registers R95 leaves to
the debug specification (log 37): one with dmode set stays as it is outside debug mode; else tdata2 takes what is written, and tdata1 its fields: type 6 or disabled,
the accesses, the modes that exist; outside debug mode none comes to enter debug mode, and dmode stays. -/
def Obligations.CsrFieldRules : Prop :=
  (∀ (s : State) (v : Word),
    (s.writeX .mseccfg v).csr.mseccfg = v &&& 8 ∧
    (s.writeX .medeleg v).csr.medeleg.getLsbD 28 = v.getLsbD 28 ∧ (s.writeX .medeleg v).csr.medeleg.getLsbD 11 = false ∧
    (s.csr.menvcfg.getLsbD 29 = false → (s.readX .senvcfg).getLsbD 29 = false) ∧
    ((s.cfg.hasPte = false ∨ s.cfg.hasPteCd = false) → (s.readX .menvcfg).getLsbD 61 = false) ∧
    (s.cfg.hasPte = true → s.cfg.hasPteCd = true → s.cfg.cdeConfigurable = false → (s.readX .menvcfg).getLsbD 61 = true) ∧
    (s.csr.misaC = false → (s.readCapCsr .mepcc).addr.getLsbD 1 = false) ∧
    (s.csr.misaC = false → s.csr.mepcc.addr.getLsbD 1 = true → s.csr.mepcc.s s.cfg = true → (s.readCapCsr .mepcc).tag = false) ∧
    (s.xlenValue .jvtc v).addr &&& 63 = 0 ∧
    ∀ k : Cap, (s.clenValue .jvtc k).addr &&& 63 = 0 ∧ ((k.dropReserved s.cfg).s s.cfg = true → (s.clenValue .mtvecc k).tag = false)) ∧
  (∀ (s : State) (v : Word) (x : XCsr), (x = .mstatus ∨ x = .mstatush ∨ x = .sstatus ∨ x = .misa) →
    let m := (s.writeX x v).csr.mstatus
    (s.cfg.xlenmax64 = true → s.cfg.hasLegacy = true → m.toNat / 2 ^ 32 % 4 ≤ m.toNat / 2 ^ 34 % 4 ∧
      m.toNat / 2 ^ 34 % 4 ≤ (s.writeX x v).csr.mxl.toNat) ∧
    (s.cfg.xlWritable = false → x ≠ .misa → s.csr.mstatus.toNat / 2 ^ 32 % 4 ≤ s.csr.mstatus.toNat / 2 ^ 34 % 4 →
      s.csr.mstatus.toNat / 2 ^ 34 % 4 ≤ s.csr.mxl.toNat → m.toNat / 2 ^ 32 % 16 = s.csr.mstatus.toNat / 2 ^ 32 % 16) ∧
    ((s.cfg.hasLegacy = false ∨ s.cfg.beWritable = false) →
      m.getLsbD 6 = s.csr.mstatus.getLsbD 6 ∧ m.getLsbD 36 = s.csr.mstatus.getLsbD 36 ∧ m.getLsbD 37 = s.csr.mstatus.getLsbD 37) ∧
    (x ≠ .mstatus → m.toNat / 2 ^ 11 % 4 = s.csr.mstatus.toNat / 2 ^ 11 % 4)) ∧
  ∀ (s : State) (v : Word),
    (let n := v.toNat / 2 ^ 11 % 4;
      (s.writeX .mstatus v).csr.mstatus.toNat / 2 ^ 11 % 4 =
        if n = 3 ∨ (n = 1 ∧ s.cfg.hasS = true) ∨ (n = 0 ∧ s.cfg.hasU = true) then n else s.csr.mstatus.toNat / 2 ^ 11 % 4) ∧
    (s.cfg.hasLegacy = true → s.cfg.beWritable = true →
      (s.writeX .mstatus v).st 37 = (if s.x64Of .machine then v.getLsbD 37 else s.st 37) ∧ (s.writeX .mstatush v).st 37 = v.getLsbD 5 ∧
      (s.cfg.hasU = true → (s.writeX .mstatus v).st 6 = v.getLsbD 6)) ∧
    (let f := v.toNat / 2 ^ (if s.x64Of .machine then 62 else 30) % 4;
      let t := s.writeX .misa v;
      (s.cfg.mxlWritable = false → t.csr.mxl = s.csr.mxl) ∧
      (s.cfg.mxlWritable = true → s.cfg.hasLegacy = true → s.cfg.xlenmax64 = true → (f = 1 ∨ f = 2) → t.csr.mxl.toNat = f) ∧
      (s.cfg.mxlWritable = true → s.csr.mxl ≠ 3 → f ≠ 1 → f ≠ 2 → t.csr.mxl = s.csr.mxl) ∧
      ((s.cfg.hasC = false ∨ s.cfg.misaCWritable = false) → t.csr.misaC = s.csr.misaC) ∧
      (s.cfg.hasC = true → s.cfg.misaCWritable = true →
        t.csr.misaC = (v.getLsbD 2 || (s.csr.misaC && !s.debug && s.pc.getLsbD 1)))) ∧
    (s.x64Of .supervisor = true →
      let n := v.toNat / 2 ^ 60 % 16;
      (s.writeX .satp v).csr.satp =
        if n = 0 ∨ (n = 8 ∧ s.cfg.hasSv39 = true) ∨ (n = 9 ∧ s.cfg.hasSv48 = true) ∨ (n = 10 ∧ s.cfg.hasSv57 = true) then v else s.csr.satp) ∧
    ∀ b : Trigger, s.triggers[s.csr.tselect.toNat]? = some b →
      (s.debug = false → b.dmode = true → s.writeX .tdata1 v = s ∧ s.writeX .tdata2 v = s) ∧
      ((s.debug = true ∨ b.dmode = false) →
        (s.writeX .tdata2 v).triggers = s.triggers.set s.csr.tselect.toNat { b with addr := s.cutX v } ∧
        ∃ c : Trigger, (s.writeX .tdata1 v).triggers = s.triggers.set s.csr.tselect.toNat c ∧ c.addr = b.addr ∧
          c.enabled = decide (v.toNat / 2 ^ (if s.cur64 then 60 else 28) % 16 = 6) ∧ (s.debug = false → c.dmode = false ∧ c.toDebug = false) ∧
          (c.enabled = true → c.execute = v.getLsbD 2 ∧ c.store = v.getLsbD 1 ∧ c.load = v.getLsbD 0 ∧ c.m = v.getLsbD 6 ∧
            c.s = (s.cfg.hasS && v.getLsbD 4) ∧ c.u = (s.cfg.hasU && v.getLsbD 3)))

/-! ## Frames, table jumps, cache blocks -/

/-- O55. CM.PUSH (R323, R324), untranslated: the registers of the list, by descending number, go to the slots below the stack pointer, whole capabilities in Capability
mode and integers in Legacy mode, which clear the tags of the granules they lie in; the stack pointer moves down by the frame's size; every byte and every tag outside
the slots and every other register is unchanged, and a reservation that a slot overlaps is lost. Where the access of a slot raises, a breakpoint, a length violation, an
access fault, code 7 for a tagged value and memory that is not taggable (R110), or debug entry by a trigger, the slots before it are written and neither the stack
pointer nor pcc has moved (log 22, the model's choice). -/
def Obligations.PushFrame : Prop :=
  ∀ (s : State) (l : BitVec 4) (e : BitVec 2), 4 ≤ l.toNat → s.mem.wf = true →
    let n := rlistCount l
    let adj := (n * s.slot + 15) / 16 * 16 + 16 * e.toNat
    let fine := fun (k : Nat) => s.frameOk .store 0 k ∧
      (s.capMode = true → s.cfg.taggedToUntaggable = .strip ∨ ∀ i < k, Params.isTaggable s.cfg (s.slotAddr 0 i).toNat = true)
    (fine n → ∃ t, exec (.cmPush l e) s = .next t ∧ t.pcc = s.nextPcc 2 ∧ s.regUpdate t 2 (s.spAfter (0 - BitVec.ofNat 64 adj)) ∧
      s.sameButMem t ∧ s.pushed t l n) ∧
    ∀ k < n, fine k → let ea := s.slotAddr 0 k
      let held := fun (u : State) => s.pushed u l k ∧ u.pcc = s.pcc ∧ u.regs = s.regs ∧ s.sameButMem u
      (s.haltHit .store ea = true → ∃ u, held u ∧ exec (.cmPush l e) s = .next (u.enterDebug 2)) ∧
      (∀ x, s.slotFault .store ea x → ∃ u, held u ∧ exec (.cmPush l e) s = .next (takeException u x)) ∧
      ∀ r, (rlistDown l)[k]? = some r → s.capMode = true → s.untaggable s.frameAuth ea (s.rc r) .store ea.toNat →
        ∃ u, held u ∧ exec (.cmPush l e) s = .next (takeException u ⟨7, ea⟩)

/-- O56. CM.POP (R323, R325), untranslated: the registers of the list take the values of their slots, counted down from the top of the frame; the stack pointer moves up
by the frame's size; memory and every other register are unchanged. Where the access of a slot raises, of CM.POPRET and CM.POPRETZ too, the registers before it are
loaded and neither the stack pointer nor pcc has moved (log 22, the model's choice). -/
def Obligations.PopFrame : Prop :=
  ∀ (s : State) (l : BitVec 4) (e : BitVec 2), 4 ≤ l.toNat →
    let n := rlistCount l
    let adj := BitVec.ofNat 64 ((n * s.slot + 15) / 16 * 16 + 16 * e.toNat)
    (s.frameOk .load adj n →
      ∃ t, exec (.cmPop l e) s = .next t ∧ t.pcc = s.nextPcc 2 ∧ s.sameButRegs t ∧ t.rc 2 = s.spAfter adj ∧
        (∀ (i : Nat) (r : Reg), (rlistDown l)[i]? = some r → t.rc r = s.slotValue (s.slotAddr adj i)) ∧
        ∀ j : Reg, j ≠ 2 → j ∉ rlistDown l → t.rc j = s.rc j) ∧
    ∀ (i : Instr), i = .cmPop l e ∨ ((i = .cmPopret l e ∨ i = .cmPopretz l e) ∧ (s.debug = false ∨ s.cfg.debugPcrelIllegal = false)) →
      ∀ k < n, s.frameOk .load adj k →
        (s.haltHit .load (s.slotAddr adj k) = true → ∃ u, s.popped u l adj k ∧ exec i s = .next (u.enterDebug 2)) ∧
        ∀ x, s.slotFault .load (s.slotAddr adj k) x → ∃ u, s.popped u l adj k ∧ exec i s = .next (takeException u x)

/-- O57. CM.POPRET AND CM.POPRETZ (R326, R327), untranslated: what CM.POP does, then the jump to the loaded return address, checked as C.JR checks it; CM.POPRETZ also
puts 0 in register 10. A misaligned return address takes code 0; then code 28, TYPE 2: in Capability mode CAUSE 0 untagged, 2 not executable, 3 out of its bounds, in
Legacy mode CAUSE 3 outside pcc; the registers are then loaded, and neither the stack pointer nor pcc has moved, nor register 10 been zeroed (log 22).
A return address pcc cannot hold is converted before the checks (R203; what it becomes: log 1, the model's choice). -/
def Obligations.PopReturns : Prop :=
  ∀ (s : State) (l : BitVec 4) (e : BitVec 2) (i : Instr) (z : Bool),
    ((i = .cmPopret l e ∧ z = false) ∨ (i = .cmPopretz l e ∧ z = true)) → 4 ≤ l.toNat → (s.debug = false ∨ s.cfg.debugPcrelIllegal = false) →
    let n := rlistCount l
    let adj := BitVec.ofNat 64 ((n * s.slot + 15) / 16 * 16 + 16 * e.toNat)
    let k := s.slotValue (s.slotAddr adj (n - 1))
    let target := s.targetAt (k.addr &&& ~~~1#64)
    let faults := fun (x : Exc) => ∃ u, s.popped u l adj n ∧ exec i s = .next (takeException u x)
    s.frameOk .load adj n →
    (target.toNat % s.minLen ≠ 0 → faults ⟨0, s.cutX target⟩) ∧
    (target.toNat % s.minLen = 0 →
      (s.capMode = true →
        (k.tag = false → faults ⟨28, 0x20000⟩) ∧
        (k.tag = true → (k.perms s.cfg).x = false → faults ⟨28, 0x20002⟩) ∧
        (k.tag = true → (k.perms s.cfg).x = true → k.inBounds s.cfg target s.minLen = false → faults ⟨28, 0x20003⟩)) ∧
      (s.capMode = false → s.debug = false → s.pcc.inBounds s.cfg target s.minLen = false → faults ⟨28, 0x20003⟩) ∧
      ((s.capMode = true → k.tag = true ∧ (k.perms s.cfg).x = true ∧ k.inBounds s.cfg target s.minLen = true) →
        (s.capMode = false → s.debug = true ∨ s.pcc.inBounds s.cfg target s.minLen = true) →
        ∃ t, exec i s = .next t ∧
          t.pcc = (if s.capMode then { k.unseal s.cfg with addr := target } else { s.pcc with addr := target }) ∧ s.sameButRegs t ∧
          t.rc 2 = s.spAfter adj ∧ (z = true → t.rc 10 = s.intCap 0) ∧
          (∀ (j : Nat) (r : Reg), (rlistDown l)[j]? = some r → t.rc r = s.slotValue (s.slotAddr adj j)) ∧
          ∀ j : Reg, j ≠ 2 → (z = true → j ≠ 10) → j ∉ rlistDown l → t.rc j = s.rc j))

/-- O58. CM.JT AND CM.JALT (R330 to R332): the entry at jvtc's 64-byte-aligned address plus the scaled index, fetched little-endian under jvtc, is the target, bit 0
cleared; it must be aligned (else code 0) and in pcc's bounds (else code 28, TYPE 2, CAUSE 3); CM.JALT links in register 1 as C.JAL does. An untagged, sealed, not
executable or too short jvtc takes code 28, TYPE 0, CAUSE 0, 1, 2, 3; an entry that does not translate the exception of the translation, a vacant one code 1. (jvtc's mode
bits are 0 in every state that meets O11's invariant; in others they are not looked at, log 20. Whatever the triggers hold, the table read meets no breakpoint, log 37: the model's choice. A target pcc cannot hold is
converted before the checks, which R331 does not say, log 1: the model's choice.) -/
def Obligations.TableJumps : Prop :=
  ∀ (s : State) (ix : BitVec 8) (i : Instr) (link : Bool), ((i = .cmJt ix ∧ link = false) ∨ (i = .cmJalt ix ∧ link = true)) →
    (s.debug = false ∨ s.cfg.debugPcrelIllegal = false) →
    let k := s.csr.jvtc
    let w := if s.cur64 then 8 else 4
    let ea := s.cutX ((k.addr &&& ~~~63#64) + BitVec.ofNat 64 (ix.toNat * w))
    let q : Priv := if s.debug then .machine else s.priv
    (k.tag = false → exec i s = .next (takeException s ⟨28, 0⟩)) ∧
    (k.tag = true → k.s s.cfg = true → exec i s = .next (takeException s ⟨28, 1⟩)) ∧
    (k.tag = true → k.s s.cfg = false → (k.perms s.cfg).x = false → exec i s = .next (takeException s ⟨28, 2⟩)) ∧
    (k.tag = true → k.s s.cfg = false → (k.perms s.cfg).x = true → k.inBounds s.cfg ea w = false →
      exec i s = .next (takeException s ⟨28, 3⟩)) ∧
    (k.tag = true → k.s s.cfg = false → (k.perms s.cfg).x = true → k.inBounds s.cfg ea w = true →
      (∀ e, s.translateAs q .fetch ea = .exc e → exec i s = .next (takeException s e)) ∧
      ∀ x : Phys, s.translateAs q .fetch ea = .ok x →
        ((∃ a ∈ span x.pa w, Params.isMapped s.cfg a = false) → exec i s = .next (takeException s ⟨1, ea⟩)) ∧
        ((∀ a ∈ span x.pa w, Params.isMapped s.cfg a = true) →
          let target := s.targetAt (BitVec.ofNat 64 (leNat (s.loadList (span x.pa w))) &&& ~~~1#64)
          let next := s.pc + 2
          (target.toNat % s.minLen ≠ 0 → exec i s = .next (takeException s ⟨0, s.cutX target⟩)) ∧
          (target.toNat % s.minLen = 0 → s.debug = false → s.pcc.inBounds s.cfg target s.minLen = false →
            exec i s = .next (takeException s ⟨28, 0x20003⟩)) ∧
          (target.toNat % s.minLen = 0 → (s.debug = true ∨ s.pcc.inBounds s.cfg target s.minLen = true) →
            ∃ t, exec i s = .next t ∧ s.wrote t (if link then 1 else 0)
              (if s.capMode then (withAddress s.cfg s.pcc (s.toX next)).seal s.cfg else s.intCap next) { s.pcc with addr := target })))

/-- O59. CBO.ZERO (R340): the whole block of bytes is zero and its tags are clear; nothing else but pcc changes. Where menvcfg or senvcfg disables it below M-mode it is
an illegal instruction (R336); then it faults as a store of the whole block does: debug entry or code 3, code 28 with TYPE 1 and CAUSE 0 to 3, the exception of the
translation, code 7 (log 34). -/
def Obligations.CacheBlockZero : Prop :=
  ∀ (s : State) (rs1 : Reg),
    let auth := (s.authEa rs1 0).1
    let ea := (s.authEa rs1 0).2
    let w := (auth.perms s.cfg).w
    let inside := s.covers auth (s.blockOf ea) s.cfg.blockSize
    (s.cboOn (·.getLsbD 7) = false → exec (.cboZero rs1) s = .next (takeException s ⟨2, 0⟩)) ∧
    (s.cboOn (·.getLsbD 7) = true →
      (s.haltHit .store ea = true → exec (.cboZero rs1) s = .next (s.enterDebug 2)) ∧
      (s.haltHit .store ea = false → s.bpHit .store ea = true → exec (.cboZero rs1) s = .next (takeException s ⟨3, ea⟩)) ∧
      (s.bpHit .store ea = false →
        (auth.tag = false → exec (.cboZero rs1) s = .next (takeException s ⟨28, 0x10000⟩)) ∧
        (auth.tag = true → auth.s s.cfg = true → exec (.cboZero rs1) s = .next (takeException s ⟨28, 0x10001⟩)) ∧
        (auth.tag = true → auth.s s.cfg = false → w = false → exec (.cboZero rs1) s = .next (takeException s ⟨28, 0x10002⟩)) ∧
        (auth.tag = true → auth.s s.cfg = false → w = true → inside = false →
          exec (.cboZero rs1) s = .next (takeException s ⟨28, 0x10003⟩)) ∧
        (auth.tag = true → auth.s s.cfg = false → w = true → inside = true →
          (∀ e, s.cfg.blockLog ≤ 12 → s.translate .store ea = .exc e → exec (.cboZero rs1) s = .next (takeException s e)) ∧
          ∀ as, s.blockAt ea as →
            ((∃ a ∈ as, Params.isMapped s.cfg a = false) → exec (.cboZero rs1) s = .next (takeException s ⟨7, ea⟩)) ∧
            ((∀ a ∈ as, Params.isMapped s.cfg a = true) → s.mem.wf = true →
              ∃ t, exec (.cboZero rs1) s = .next t ∧ s.storedAt t as (List.replicate s.cfg.blockSize 0) ∧ t.pcc = s.nextPcc 4 ∧
                t.regs = s.regs ∧ s.sameButMem t))))

/-- O60. CBO.CLEAN, CBO.FLUSH AND CBO.INVAL (R337 to R339) have no effect but to move pcc on, where enabled, permitted and mapped: clean and flush with R- or
W-permission and one byte of the block in bounds; inval with ASR-permission, R- and W-permission and the whole block. Disabled, they are illegal instructions; then
inval without ASR-permission takes code 28, TYPE 0, CAUSE 2; then they fault like a store: debug entry or code 3, code 28 with TYPE 1 and CAUSE 0 to 3, code 7. -/
def Obligations.CacheBlockManagement : Prop :=
  ∀ (s : State) (rs1 : Reg) (i : Instr) (inval : Bool),
    ((i = .cboInval rs1 ∧ inval = true) ∨ ((i = .cboClean rs1 ∨ i = .cboFlush rs1) ∧ inval = false)) →
    let auth := (s.authEa rs1 0).1
    let ea := (s.authEa rs1 0).2
    let block := (s.blockOf ea).toNat
    let on := if inval then s.cboOn (fun v => decide (v.toNat / 16 % 4 ≠ 0)) else s.cboOn (·.getLsbD 6)
    let perm := if inval then (auth.perms s.cfg).r && (auth.perms s.cfg).w else (auth.perms s.cfg).r || (auth.perms s.cfg).w
    let inside := if inval then s.covers auth (s.blockOf ea) s.cfg.blockSize
      else !auth.malformed s.cfg && decide (auth.base s.cfg < block + s.cfg.blockSize ∧ block < auth.top s.cfg ∧ auth.base s.cfg < auth.top s.cfg)
    (on = false → exec i s = .next (takeException s ⟨2, 0⟩)) ∧
    (on = true → inval = true → s.asrOk = false → exec i s = .next (takeException s ⟨28, 2⟩)) ∧
    (on = true → (inval = true → s.asrOk = true) →
      (s.haltHit .store ea = true → exec i s = .next (s.enterDebug 2)) ∧
      (s.haltHit .store ea = false → s.bpHit .store ea = true → exec i s = .next (takeException s ⟨3, ea⟩)) ∧
      (s.bpHit .store ea = false →
        (auth.tag = false → exec i s = .next (takeException s ⟨28, 0x10000⟩)) ∧
        (auth.tag = true → auth.s s.cfg = true → exec i s = .next (takeException s ⟨28, 0x10001⟩)) ∧
        (auth.tag = true → auth.s s.cfg = false → perm = false → exec i s = .next (takeException s ⟨28, 0x10002⟩)) ∧
        (auth.tag = true → auth.s s.cfg = false → perm = true → inside = false → exec i s = .next (takeException s ⟨28, 0x10003⟩)) ∧
        (auth.tag = true → auth.s s.cfg = false → perm = true → inside = true →
          (∀ e, s.cfg.blockLog ≤ 12 → s.translate .store ea = .exc e → exec i s = .next (takeException s e)) ∧
          ∀ as, s.blockAt ea as →
            ((∃ a ∈ as, Params.isMapped s.cfg a = false) → exec i s = .next (takeException s ⟨7, ea⟩)) ∧
            ((∀ a ∈ as, Params.isMapped s.cfg a = true) → exec i s = .next { s with pcc := s.nextPcc 4 }))))
end

