-- ==== Sys2Proof/Laws/State.lean ====
section
/-!
SUPPORT. Laws/State.lean: what each update of the state does to each field, so that no proof unfolds a record update.
-/
namespace Sys2Proof.Machine
open Sys2Proof

/-! ## wc -/

@[simp] theorem wc_cfg (s : State) (i : Reg) (k : Cap) : (s.wc i k).cfg = s.cfg := by unfold State.wc; split <;> rfl
@[simp] theorem wc_pcc (s : State) (i : Reg) (k : Cap) : (s.wc i k).pcc = s.pcc := by unfold State.wc; split <;> rfl
@[simp] theorem wc_ddc (s : State) (i : Reg) (k : Cap) : (s.wc i k).ddc = s.ddc := by unfold State.wc; split <;> rfl
@[simp] theorem wc_fregs (s : State) (i : Reg) (k : Cap) : (s.wc i k).fregs = s.fregs := by unfold State.wc; split <;> rfl
@[simp] theorem wc_priv (s : State) (i : Reg) (k : Cap) : (s.wc i k).priv = s.priv := by unfold State.wc; split <;> rfl
@[simp] theorem wc_debug (s : State) (i : Reg) (k : Cap) : (s.wc i k).debug = s.debug := by unfold State.wc; split <;> rfl
@[simp] theorem wc_dinfcM (s : State) (i : Reg) (k : Cap) : (s.wc i k).dinfcM = s.dinfcM := by unfold State.wc; split <;> rfl
@[simp] theorem wc_csr (s : State) (i : Reg) (k : Cap) : (s.wc i k).csr = s.csr := by unfold State.wc; split <;> rfl
@[simp] theorem wc_irqIn (s : State) (i : Reg) (k : Cap) : (s.wc i k).irqIn = s.irqIn := by unfold State.wc; split <;> rfl
@[simp] theorem wc_haltReq (s : State) (i : Reg) (k : Cap) : (s.wc i k).haltReq = s.haltReq := by unfold State.wc; split <;> rfl
@[simp] theorem wc_resetHalt (s : State) (i : Reg) (k : Cap) : (s.wc i k).resetHalt = s.resetHalt := by unfold State.wc; split <;> rfl
@[simp] theorem wc_resumeReq (s : State) (i : Reg) (k : Cap) : (s.wc i k).resumeReq = s.resumeReq := by unfold State.wc; split <;> rfl
@[simp] theorem wc_command (s : State) (i : Reg) (k : Cap) : (s.wc i k).command = s.command := by unfold State.wc; split <;> rfl
@[simp] theorem wc_debugData (s : State) (i : Reg) (k : Cap) : (s.wc i k).debugData = s.debugData := by unfold State.wc; split <;> rfl
@[simp] theorem wc_triggers (s : State) (i : Reg) (k : Cap) : (s.wc i k).triggers = s.triggers := by unfold State.wc; split <;> rfl
@[simp] theorem wc_progBuf (s : State) (i : Reg) (k : Cap) : (s.wc i k).progBuf = s.progBuf := by unfold State.wc; split <;> rfl
@[simp] theorem wc_cmdErr (s : State) (i : Reg) (k : Cap) : (s.wc i k).cmdErr = s.cmdErr := by unfold State.wc; split <;> rfl
@[simp] theorem wc_resv (s : State) (i : Reg) (k : Cap) : (s.wc i k).resv = s.resv := by unfold State.wc; split <;> rfl
@[simp] theorem wc_mem (s : State) (i : Reg) (k : Cap) : (s.wc i k).mem = s.mem := by unfold State.wc; split <;> rfl
@[simp] theorem wc_tlb (s : State) (i : Reg) (k : Cap) : (s.wc i k).tlb = s.tlb := by unfold State.wc; split <;> rfl
@[simp] theorem wc_freeCtr (s : State) (i : Reg) (k : Cap) : (s.wc i k).freeCtr = s.freeCtr := by unfold State.wc; split <;> rfl

/-! ## wx -/

@[simp] theorem wx_cfg (s : State) (i : Reg) (v : Word) : (s.wx i v).cfg = s.cfg := by unfold State.wx State.wc; split <;> rfl
@[simp] theorem wx_pcc (s : State) (i : Reg) (v : Word) : (s.wx i v).pcc = s.pcc := by unfold State.wx State.wc; split <;> rfl
@[simp] theorem wx_ddc (s : State) (i : Reg) (v : Word) : (s.wx i v).ddc = s.ddc := by unfold State.wx State.wc; split <;> rfl
@[simp] theorem wx_fregs (s : State) (i : Reg) (v : Word) : (s.wx i v).fregs = s.fregs := by unfold State.wx State.wc; split <;> rfl
@[simp] theorem wx_priv (s : State) (i : Reg) (v : Word) : (s.wx i v).priv = s.priv := by unfold State.wx State.wc; split <;> rfl
@[simp] theorem wx_debug (s : State) (i : Reg) (v : Word) : (s.wx i v).debug = s.debug := by unfold State.wx State.wc; split <;> rfl
@[simp] theorem wx_dinfcM (s : State) (i : Reg) (v : Word) : (s.wx i v).dinfcM = s.dinfcM := by unfold State.wx State.wc; split <;> rfl
@[simp] theorem wx_csr (s : State) (i : Reg) (v : Word) : (s.wx i v).csr = s.csr := by unfold State.wx State.wc; split <;> rfl
@[simp] theorem wx_irqIn (s : State) (i : Reg) (v : Word) : (s.wx i v).irqIn = s.irqIn := by unfold State.wx State.wc; split <;> rfl
@[simp] theorem wx_haltReq (s : State) (i : Reg) (v : Word) : (s.wx i v).haltReq = s.haltReq := by unfold State.wx State.wc; split <;> rfl
@[simp] theorem wx_resetHalt (s : State) (i : Reg) (v : Word) : (s.wx i v).resetHalt = s.resetHalt := by unfold State.wx State.wc; split <;> rfl
@[simp] theorem wx_resumeReq (s : State) (i : Reg) (v : Word) : (s.wx i v).resumeReq = s.resumeReq := by unfold State.wx State.wc; split <;> rfl
@[simp] theorem wx_command (s : State) (i : Reg) (v : Word) : (s.wx i v).command = s.command := by unfold State.wx State.wc; split <;> rfl
@[simp] theorem wx_debugData (s : State) (i : Reg) (v : Word) : (s.wx i v).debugData = s.debugData := by unfold State.wx State.wc; split <;> rfl
@[simp] theorem wx_triggers (s : State) (i : Reg) (v : Word) : (s.wx i v).triggers = s.triggers := by unfold State.wx State.wc; split <;> rfl
@[simp] theorem wx_progBuf (s : State) (i : Reg) (v : Word) : (s.wx i v).progBuf = s.progBuf := by unfold State.wx State.wc; split <;> rfl
@[simp] theorem wx_cmdErr (s : State) (i : Reg) (v : Word) : (s.wx i v).cmdErr = s.cmdErr := by unfold State.wx State.wc; split <;> rfl
@[simp] theorem wx_resv (s : State) (i : Reg) (v : Word) : (s.wx i v).resv = s.resv := by unfold State.wx State.wc; split <;> rfl
@[simp] theorem wx_mem (s : State) (i : Reg) (v : Word) : (s.wx i v).mem = s.mem := by unfold State.wx State.wc; split <;> rfl
@[simp] theorem wx_tlb (s : State) (i : Reg) (v : Word) : (s.wx i v).tlb = s.tlb := by unfold State.wx State.wc; split <;> rfl
@[simp] theorem wx_freeCtr (s : State) (i : Reg) (v : Word) : (s.wx i v).freeCtr = s.freeCtr := by unfold State.wx State.wc; split <;> rfl

/-! ## wf -/

@[simp] theorem wf_cfg (s : State) (i : Reg) (v : Word) : (s.wf i v).cfg = s.cfg := rfl
@[simp] theorem wf_regs (s : State) (i : Reg) (v : Word) : (s.wf i v).regs = s.regs := rfl
@[simp] theorem wf_pcc (s : State) (i : Reg) (v : Word) : (s.wf i v).pcc = s.pcc := rfl
@[simp] theorem wf_ddc (s : State) (i : Reg) (v : Word) : (s.wf i v).ddc = s.ddc := rfl
@[simp] theorem wf_priv (s : State) (i : Reg) (v : Word) : (s.wf i v).priv = s.priv := rfl
@[simp] theorem wf_debug (s : State) (i : Reg) (v : Word) : (s.wf i v).debug = s.debug := rfl
@[simp] theorem wf_dinfcM (s : State) (i : Reg) (v : Word) : (s.wf i v).dinfcM = s.dinfcM := rfl
@[simp] theorem wf_csr (s : State) (i : Reg) (v : Word) : (s.wf i v).csr = s.csr := rfl
@[simp] theorem wf_irqIn (s : State) (i : Reg) (v : Word) : (s.wf i v).irqIn = s.irqIn := rfl
@[simp] theorem wf_haltReq (s : State) (i : Reg) (v : Word) : (s.wf i v).haltReq = s.haltReq := rfl
@[simp] theorem wf_resetHalt (s : State) (i : Reg) (v : Word) : (s.wf i v).resetHalt = s.resetHalt := rfl
@[simp] theorem wf_resumeReq (s : State) (i : Reg) (v : Word) : (s.wf i v).resumeReq = s.resumeReq := rfl
@[simp] theorem wf_command (s : State) (i : Reg) (v : Word) : (s.wf i v).command = s.command := rfl
@[simp] theorem wf_debugData (s : State) (i : Reg) (v : Word) : (s.wf i v).debugData = s.debugData := rfl
@[simp] theorem wf_triggers (s : State) (i : Reg) (v : Word) : (s.wf i v).triggers = s.triggers := rfl
@[simp] theorem wf_progBuf (s : State) (i : Reg) (v : Word) : (s.wf i v).progBuf = s.progBuf := rfl
@[simp] theorem wf_cmdErr (s : State) (i : Reg) (v : Word) : (s.wf i v).cmdErr = s.cmdErr := rfl
@[simp] theorem wf_resv (s : State) (i : Reg) (v : Word) : (s.wf i v).resv = s.resv := rfl
@[simp] theorem wf_mem (s : State) (i : Reg) (v : Word) : (s.wf i v).mem = s.mem := rfl
@[simp] theorem wf_tlb (s : State) (i : Reg) (v : Word) : (s.wf i v).tlb = s.tlb := rfl
@[simp] theorem wf_freeCtr (s : State) (i : Reg) (v : Word) : (s.wf i v).freeCtr = s.freeCtr := rfl

/-! ## setPc -/

@[simp] theorem setPc_cfg (s : State) (a : Word) : (s.setPc a).cfg = s.cfg := rfl
@[simp] theorem setPc_regs (s : State) (a : Word) : (s.setPc a).regs = s.regs := rfl
@[simp] theorem setPc_ddc (s : State) (a : Word) : (s.setPc a).ddc = s.ddc := rfl
@[simp] theorem setPc_fregs (s : State) (a : Word) : (s.setPc a).fregs = s.fregs := rfl
@[simp] theorem setPc_priv (s : State) (a : Word) : (s.setPc a).priv = s.priv := rfl
@[simp] theorem setPc_debug (s : State) (a : Word) : (s.setPc a).debug = s.debug := rfl
@[simp] theorem setPc_dinfcM (s : State) (a : Word) : (s.setPc a).dinfcM = s.dinfcM := rfl
@[simp] theorem setPc_csr (s : State) (a : Word) : (s.setPc a).csr = s.csr := rfl
@[simp] theorem setPc_irqIn (s : State) (a : Word) : (s.setPc a).irqIn = s.irqIn := rfl
@[simp] theorem setPc_haltReq (s : State) (a : Word) : (s.setPc a).haltReq = s.haltReq := rfl
@[simp] theorem setPc_resetHalt (s : State) (a : Word) : (s.setPc a).resetHalt = s.resetHalt := rfl
@[simp] theorem setPc_resumeReq (s : State) (a : Word) : (s.setPc a).resumeReq = s.resumeReq := rfl
@[simp] theorem setPc_command (s : State) (a : Word) : (s.setPc a).command = s.command := rfl
@[simp] theorem setPc_debugData (s : State) (a : Word) : (s.setPc a).debugData = s.debugData := rfl
@[simp] theorem setPc_triggers (s : State) (a : Word) : (s.setPc a).triggers = s.triggers := rfl
@[simp] theorem setPc_progBuf (s : State) (a : Word) : (s.setPc a).progBuf = s.progBuf := rfl
@[simp] theorem setPc_cmdErr (s : State) (a : Word) : (s.setPc a).cmdErr = s.cmdErr := rfl
@[simp] theorem setPc_resv (s : State) (a : Word) : (s.setPc a).resv = s.resv := rfl
@[simp] theorem setPc_mem (s : State) (a : Word) : (s.setPc a).mem = s.mem := rfl
@[simp] theorem setPc_tlb (s : State) (a : Word) : (s.setPc a).tlb = s.tlb := rfl
@[simp] theorem setPc_freeCtr (s : State) (a : Word) : (s.setPc a).freeCtr = s.freeCtr := rfl

/-! ## setPcc -/

@[simp] theorem setPcc_cfg (s : State) (k : Cap) : (s.setPcc k).cfg = s.cfg := rfl
@[simp] theorem setPcc_regs (s : State) (k : Cap) : (s.setPcc k).regs = s.regs := rfl
@[simp] theorem setPcc_ddc (s : State) (k : Cap) : (s.setPcc k).ddc = s.ddc := rfl
@[simp] theorem setPcc_fregs (s : State) (k : Cap) : (s.setPcc k).fregs = s.fregs := rfl
@[simp] theorem setPcc_priv (s : State) (k : Cap) : (s.setPcc k).priv = s.priv := rfl
@[simp] theorem setPcc_debug (s : State) (k : Cap) : (s.setPcc k).debug = s.debug := rfl
@[simp] theorem setPcc_dinfcM (s : State) (k : Cap) : (s.setPcc k).dinfcM = s.dinfcM := rfl
@[simp] theorem setPcc_csr (s : State) (k : Cap) : (s.setPcc k).csr = s.csr := rfl
@[simp] theorem setPcc_irqIn (s : State) (k : Cap) : (s.setPcc k).irqIn = s.irqIn := rfl
@[simp] theorem setPcc_haltReq (s : State) (k : Cap) : (s.setPcc k).haltReq = s.haltReq := rfl
@[simp] theorem setPcc_resetHalt (s : State) (k : Cap) : (s.setPcc k).resetHalt = s.resetHalt := rfl
@[simp] theorem setPcc_resumeReq (s : State) (k : Cap) : (s.setPcc k).resumeReq = s.resumeReq := rfl
@[simp] theorem setPcc_command (s : State) (k : Cap) : (s.setPcc k).command = s.command := rfl
@[simp] theorem setPcc_debugData (s : State) (k : Cap) : (s.setPcc k).debugData = s.debugData := rfl
@[simp] theorem setPcc_triggers (s : State) (k : Cap) : (s.setPcc k).triggers = s.triggers := rfl
@[simp] theorem setPcc_progBuf (s : State) (k : Cap) : (s.setPcc k).progBuf = s.progBuf := rfl
@[simp] theorem setPcc_cmdErr (s : State) (k : Cap) : (s.setPcc k).cmdErr = s.cmdErr := rfl
@[simp] theorem setPcc_resv (s : State) (k : Cap) : (s.setPcc k).resv = s.resv := rfl
@[simp] theorem setPcc_mem (s : State) (k : Cap) : (s.setPcc k).mem = s.mem := rfl
@[simp] theorem setPcc_tlb (s : State) (k : Cap) : (s.setPcc k).tlb = s.tlb := rfl
@[simp] theorem setPcc_freeCtr (s : State) (k : Cap) : (s.setPcc k).freeCtr = s.freeCtr := rfl

/-! ## advance -/

@[simp] theorem advance_cfg (s : State) (n : Nat) : (s.advance n).cfg = s.cfg := rfl
@[simp] theorem advance_regs (s : State) (n : Nat) : (s.advance n).regs = s.regs := rfl
@[simp] theorem advance_ddc (s : State) (n : Nat) : (s.advance n).ddc = s.ddc := rfl
@[simp] theorem advance_fregs (s : State) (n : Nat) : (s.advance n).fregs = s.fregs := rfl
@[simp] theorem advance_priv (s : State) (n : Nat) : (s.advance n).priv = s.priv := rfl
@[simp] theorem advance_debug (s : State) (n : Nat) : (s.advance n).debug = s.debug := rfl
@[simp] theorem advance_dinfcM (s : State) (n : Nat) : (s.advance n).dinfcM = s.dinfcM := rfl
@[simp] theorem advance_csr (s : State) (n : Nat) : (s.advance n).csr = s.csr := rfl
@[simp] theorem advance_irqIn (s : State) (n : Nat) : (s.advance n).irqIn = s.irqIn := rfl
@[simp] theorem advance_haltReq (s : State) (n : Nat) : (s.advance n).haltReq = s.haltReq := rfl
@[simp] theorem advance_resetHalt (s : State) (n : Nat) : (s.advance n).resetHalt = s.resetHalt := rfl
@[simp] theorem advance_resumeReq (s : State) (n : Nat) : (s.advance n).resumeReq = s.resumeReq := rfl
@[simp] theorem advance_command (s : State) (n : Nat) : (s.advance n).command = s.command := rfl
@[simp] theorem advance_debugData (s : State) (n : Nat) : (s.advance n).debugData = s.debugData := rfl
@[simp] theorem advance_triggers (s : State) (n : Nat) : (s.advance n).triggers = s.triggers := rfl
@[simp] theorem advance_progBuf (s : State) (n : Nat) : (s.advance n).progBuf = s.progBuf := rfl
@[simp] theorem advance_cmdErr (s : State) (n : Nat) : (s.advance n).cmdErr = s.cmdErr := rfl
@[simp] theorem advance_resv (s : State) (n : Nat) : (s.advance n).resv = s.resv := rfl
@[simp] theorem advance_mem (s : State) (n : Nat) : (s.advance n).mem = s.mem := rfl
@[simp] theorem advance_tlb (s : State) (n : Nat) : (s.advance n).tlb = s.tlb := rfl
@[simp] theorem advance_freeCtr (s : State) (n : Nat) : (s.advance n).freeCtr = s.freeCtr := rfl

/-! ## storeBytes -/

@[simp] theorem storeBytes_cfg (s : State) (as : List Nat) (bs : List Byte) : (s.storeBytes as bs).cfg = s.cfg := rfl
@[simp] theorem storeBytes_regs (s : State) (as : List Nat) (bs : List Byte) : (s.storeBytes as bs).regs = s.regs := rfl
@[simp] theorem storeBytes_pcc (s : State) (as : List Nat) (bs : List Byte) : (s.storeBytes as bs).pcc = s.pcc := rfl
@[simp] theorem storeBytes_ddc (s : State) (as : List Nat) (bs : List Byte) : (s.storeBytes as bs).ddc = s.ddc := rfl
@[simp] theorem storeBytes_fregs (s : State) (as : List Nat) (bs : List Byte) : (s.storeBytes as bs).fregs = s.fregs := rfl
@[simp] theorem storeBytes_priv (s : State) (as : List Nat) (bs : List Byte) : (s.storeBytes as bs).priv = s.priv := rfl
@[simp] theorem storeBytes_debug (s : State) (as : List Nat) (bs : List Byte) : (s.storeBytes as bs).debug = s.debug := rfl
@[simp] theorem storeBytes_dinfcM (s : State) (as : List Nat) (bs : List Byte) : (s.storeBytes as bs).dinfcM = s.dinfcM := rfl
@[simp] theorem storeBytes_csr (s : State) (as : List Nat) (bs : List Byte) : (s.storeBytes as bs).csr = s.csr := rfl
@[simp] theorem storeBytes_irqIn (s : State) (as : List Nat) (bs : List Byte) : (s.storeBytes as bs).irqIn = s.irqIn := rfl
@[simp] theorem storeBytes_haltReq (s : State) (as : List Nat) (bs : List Byte) : (s.storeBytes as bs).haltReq = s.haltReq := rfl
@[simp] theorem storeBytes_resetHalt (s : State) (as : List Nat) (bs : List Byte) : (s.storeBytes as bs).resetHalt = s.resetHalt := rfl
@[simp] theorem storeBytes_resumeReq (s : State) (as : List Nat) (bs : List Byte) : (s.storeBytes as bs).resumeReq = s.resumeReq := rfl
@[simp] theorem storeBytes_command (s : State) (as : List Nat) (bs : List Byte) : (s.storeBytes as bs).command = s.command := rfl
@[simp] theorem storeBytes_debugData (s : State) (as : List Nat) (bs : List Byte) : (s.storeBytes as bs).debugData = s.debugData := rfl
@[simp] theorem storeBytes_triggers (s : State) (as : List Nat) (bs : List Byte) : (s.storeBytes as bs).triggers = s.triggers := rfl
@[simp] theorem storeBytes_progBuf (s : State) (as : List Nat) (bs : List Byte) : (s.storeBytes as bs).progBuf = s.progBuf := rfl
@[simp] theorem storeBytes_cmdErr (s : State) (as : List Nat) (bs : List Byte) : (s.storeBytes as bs).cmdErr = s.cmdErr := rfl
@[simp] theorem storeBytes_tlb (s : State) (as : List Nat) (bs : List Byte) : (s.storeBytes as bs).tlb = s.tlb := rfl
@[simp] theorem storeBytes_freeCtr (s : State) (as : List Nat) (bs : List Byte) : (s.storeBytes as bs).freeCtr = s.freeCtr := rfl

/-! ## writeInt -/

@[simp] theorem writeInt_cfg (s : State) (as : List Nat) (v : Word) : (s.writeInt as v).cfg = s.cfg := rfl
@[simp] theorem writeInt_regs (s : State) (as : List Nat) (v : Word) : (s.writeInt as v).regs = s.regs := rfl
@[simp] theorem writeInt_pcc (s : State) (as : List Nat) (v : Word) : (s.writeInt as v).pcc = s.pcc := rfl
@[simp] theorem writeInt_ddc (s : State) (as : List Nat) (v : Word) : (s.writeInt as v).ddc = s.ddc := rfl
@[simp] theorem writeInt_fregs (s : State) (as : List Nat) (v : Word) : (s.writeInt as v).fregs = s.fregs := rfl
@[simp] theorem writeInt_priv (s : State) (as : List Nat) (v : Word) : (s.writeInt as v).priv = s.priv := rfl
@[simp] theorem writeInt_debug (s : State) (as : List Nat) (v : Word) : (s.writeInt as v).debug = s.debug := rfl
@[simp] theorem writeInt_dinfcM (s : State) (as : List Nat) (v : Word) : (s.writeInt as v).dinfcM = s.dinfcM := rfl
@[simp] theorem writeInt_csr (s : State) (as : List Nat) (v : Word) : (s.writeInt as v).csr = s.csr := rfl
@[simp] theorem writeInt_irqIn (s : State) (as : List Nat) (v : Word) : (s.writeInt as v).irqIn = s.irqIn := rfl
@[simp] theorem writeInt_haltReq (s : State) (as : List Nat) (v : Word) : (s.writeInt as v).haltReq = s.haltReq := rfl
@[simp] theorem writeInt_resetHalt (s : State) (as : List Nat) (v : Word) : (s.writeInt as v).resetHalt = s.resetHalt := rfl
@[simp] theorem writeInt_resumeReq (s : State) (as : List Nat) (v : Word) : (s.writeInt as v).resumeReq = s.resumeReq := rfl
@[simp] theorem writeInt_command (s : State) (as : List Nat) (v : Word) : (s.writeInt as v).command = s.command := rfl
@[simp] theorem writeInt_debugData (s : State) (as : List Nat) (v : Word) : (s.writeInt as v).debugData = s.debugData := rfl
@[simp] theorem writeInt_triggers (s : State) (as : List Nat) (v : Word) : (s.writeInt as v).triggers = s.triggers := rfl
@[simp] theorem writeInt_progBuf (s : State) (as : List Nat) (v : Word) : (s.writeInt as v).progBuf = s.progBuf := rfl
@[simp] theorem writeInt_cmdErr (s : State) (as : List Nat) (v : Word) : (s.writeInt as v).cmdErr = s.cmdErr := rfl
@[simp] theorem writeInt_tlb (s : State) (as : List Nat) (v : Word) : (s.writeInt as v).tlb = s.tlb := rfl
@[simp] theorem writeInt_freeCtr (s : State) (as : List Nat) (v : Word) : (s.writeInt as v).freeCtr = s.freeCtr := rfl

/-! ## writeCap -/

@[simp] theorem writeCap_cfg (s : State) (a : Nat) (k : Cap) : (s.writeCap a k).cfg = s.cfg := rfl
@[simp] theorem writeCap_regs (s : State) (a : Nat) (k : Cap) : (s.writeCap a k).regs = s.regs := rfl
@[simp] theorem writeCap_pcc (s : State) (a : Nat) (k : Cap) : (s.writeCap a k).pcc = s.pcc := rfl
@[simp] theorem writeCap_ddc (s : State) (a : Nat) (k : Cap) : (s.writeCap a k).ddc = s.ddc := rfl
@[simp] theorem writeCap_fregs (s : State) (a : Nat) (k : Cap) : (s.writeCap a k).fregs = s.fregs := rfl
@[simp] theorem writeCap_priv (s : State) (a : Nat) (k : Cap) : (s.writeCap a k).priv = s.priv := rfl
@[simp] theorem writeCap_debug (s : State) (a : Nat) (k : Cap) : (s.writeCap a k).debug = s.debug := rfl
@[simp] theorem writeCap_dinfcM (s : State) (a : Nat) (k : Cap) : (s.writeCap a k).dinfcM = s.dinfcM := rfl
@[simp] theorem writeCap_csr (s : State) (a : Nat) (k : Cap) : (s.writeCap a k).csr = s.csr := rfl
@[simp] theorem writeCap_irqIn (s : State) (a : Nat) (k : Cap) : (s.writeCap a k).irqIn = s.irqIn := rfl
@[simp] theorem writeCap_haltReq (s : State) (a : Nat) (k : Cap) : (s.writeCap a k).haltReq = s.haltReq := rfl
@[simp] theorem writeCap_resetHalt (s : State) (a : Nat) (k : Cap) : (s.writeCap a k).resetHalt = s.resetHalt := rfl
@[simp] theorem writeCap_resumeReq (s : State) (a : Nat) (k : Cap) : (s.writeCap a k).resumeReq = s.resumeReq := rfl
@[simp] theorem writeCap_command (s : State) (a : Nat) (k : Cap) : (s.writeCap a k).command = s.command := rfl
@[simp] theorem writeCap_debugData (s : State) (a : Nat) (k : Cap) : (s.writeCap a k).debugData = s.debugData := rfl
@[simp] theorem writeCap_triggers (s : State) (a : Nat) (k : Cap) : (s.writeCap a k).triggers = s.triggers := rfl
@[simp] theorem writeCap_progBuf (s : State) (a : Nat) (k : Cap) : (s.writeCap a k).progBuf = s.progBuf := rfl
@[simp] theorem writeCap_cmdErr (s : State) (a : Nat) (k : Cap) : (s.writeCap a k).cmdErr = s.cmdErr := rfl
@[simp] theorem writeCap_tlb (s : State) (a : Nat) (k : Cap) : (s.writeCap a k).tlb = s.tlb := rfl
@[simp] theorem writeCap_freeCtr (s : State) (a : Nat) (k : Cap) : (s.writeCap a k).freeCtr = s.freeCtr := rfl

/-! ## fsDirty -/

@[simp] theorem fsDirty_cfg (s : State) : (s.fsDirty).cfg = s.cfg := rfl
@[simp] theorem fsDirty_regs (s : State) : (s.fsDirty).regs = s.regs := rfl
@[simp] theorem fsDirty_pcc (s : State) : (s.fsDirty).pcc = s.pcc := rfl
@[simp] theorem fsDirty_ddc (s : State) : (s.fsDirty).ddc = s.ddc := rfl
@[simp] theorem fsDirty_fregs (s : State) : (s.fsDirty).fregs = s.fregs := rfl
@[simp] theorem fsDirty_priv (s : State) : (s.fsDirty).priv = s.priv := rfl
@[simp] theorem fsDirty_debug (s : State) : (s.fsDirty).debug = s.debug := rfl
@[simp] theorem fsDirty_dinfcM (s : State) : (s.fsDirty).dinfcM = s.dinfcM := rfl
@[simp] theorem fsDirty_irqIn (s : State) : (s.fsDirty).irqIn = s.irqIn := rfl
@[simp] theorem fsDirty_haltReq (s : State) : (s.fsDirty).haltReq = s.haltReq := rfl
@[simp] theorem fsDirty_resetHalt (s : State) : (s.fsDirty).resetHalt = s.resetHalt := rfl
@[simp] theorem fsDirty_resumeReq (s : State) : (s.fsDirty).resumeReq = s.resumeReq := rfl
@[simp] theorem fsDirty_command (s : State) : (s.fsDirty).command = s.command := rfl
@[simp] theorem fsDirty_debugData (s : State) : (s.fsDirty).debugData = s.debugData := rfl
@[simp] theorem fsDirty_triggers (s : State) : (s.fsDirty).triggers = s.triggers := rfl
@[simp] theorem fsDirty_progBuf (s : State) : (s.fsDirty).progBuf = s.progBuf := rfl
@[simp] theorem fsDirty_cmdErr (s : State) : (s.fsDirty).cmdErr = s.cmdErr := rfl
@[simp] theorem fsDirty_resv (s : State) : (s.fsDirty).resv = s.resv := rfl
@[simp] theorem fsDirty_mem (s : State) : (s.fsDirty).mem = s.mem := rfl
@[simp] theorem fsDirty_tlb (s : State) : (s.fsDirty).tlb = s.tlb := rfl
@[simp] theorem fsDirty_freeCtr (s : State) : (s.fsDirty).freeCtr = s.freeCtr := rfl

/-! ## trapM -/

@[simp] theorem trapM_cfg (s : State) (q : Bool) (c : Nat) (v : Word) : (s.trapM q c v).cfg = s.cfg := rfl
@[simp] theorem trapM_regs (s : State) (q : Bool) (c : Nat) (v : Word) : (s.trapM q c v).regs = s.regs := rfl
@[simp] theorem trapM_ddc (s : State) (q : Bool) (c : Nat) (v : Word) : (s.trapM q c v).ddc = s.ddc := rfl
@[simp] theorem trapM_fregs (s : State) (q : Bool) (c : Nat) (v : Word) : (s.trapM q c v).fregs = s.fregs := rfl
@[simp] theorem trapM_debug (s : State) (q : Bool) (c : Nat) (v : Word) : (s.trapM q c v).debug = s.debug := rfl
@[simp] theorem trapM_dinfcM (s : State) (q : Bool) (c : Nat) (v : Word) : (s.trapM q c v).dinfcM = s.dinfcM := rfl
@[simp] theorem trapM_irqIn (s : State) (q : Bool) (c : Nat) (v : Word) : (s.trapM q c v).irqIn = s.irqIn := rfl
@[simp] theorem trapM_haltReq (s : State) (q : Bool) (c : Nat) (v : Word) : (s.trapM q c v).haltReq = s.haltReq := rfl
@[simp] theorem trapM_resetHalt (s : State) (q : Bool) (c : Nat) (v : Word) : (s.trapM q c v).resetHalt = s.resetHalt := rfl
@[simp] theorem trapM_resumeReq (s : State) (q : Bool) (c : Nat) (v : Word) : (s.trapM q c v).resumeReq = s.resumeReq := rfl
@[simp] theorem trapM_command (s : State) (q : Bool) (c : Nat) (v : Word) : (s.trapM q c v).command = s.command := rfl
@[simp] theorem trapM_debugData (s : State) (q : Bool) (c : Nat) (v : Word) : (s.trapM q c v).debugData = s.debugData := rfl
@[simp] theorem trapM_triggers (s : State) (q : Bool) (c : Nat) (v : Word) : (s.trapM q c v).triggers = s.triggers := rfl
@[simp] theorem trapM_progBuf (s : State) (q : Bool) (c : Nat) (v : Word) : (s.trapM q c v).progBuf = s.progBuf := rfl
@[simp] theorem trapM_cmdErr (s : State) (q : Bool) (c : Nat) (v : Word) : (s.trapM q c v).cmdErr = s.cmdErr := rfl
@[simp] theorem trapM_resv (s : State) (q : Bool) (c : Nat) (v : Word) : (s.trapM q c v).resv = s.resv := rfl
@[simp] theorem trapM_mem (s : State) (q : Bool) (c : Nat) (v : Word) : (s.trapM q c v).mem = s.mem := rfl
@[simp] theorem trapM_tlb (s : State) (q : Bool) (c : Nat) (v : Word) : (s.trapM q c v).tlb = s.tlb := rfl
@[simp] theorem trapM_freeCtr (s : State) (q : Bool) (c : Nat) (v : Word) : (s.trapM q c v).freeCtr = s.freeCtr := rfl

/-! ## trapS -/

@[simp] theorem trapS_cfg (s : State) (q : Bool) (c : Nat) (v : Word) : (s.trapS q c v).cfg = s.cfg := rfl
@[simp] theorem trapS_regs (s : State) (q : Bool) (c : Nat) (v : Word) : (s.trapS q c v).regs = s.regs := rfl
@[simp] theorem trapS_ddc (s : State) (q : Bool) (c : Nat) (v : Word) : (s.trapS q c v).ddc = s.ddc := rfl
@[simp] theorem trapS_fregs (s : State) (q : Bool) (c : Nat) (v : Word) : (s.trapS q c v).fregs = s.fregs := rfl
@[simp] theorem trapS_debug (s : State) (q : Bool) (c : Nat) (v : Word) : (s.trapS q c v).debug = s.debug := rfl
@[simp] theorem trapS_dinfcM (s : State) (q : Bool) (c : Nat) (v : Word) : (s.trapS q c v).dinfcM = s.dinfcM := rfl
@[simp] theorem trapS_irqIn (s : State) (q : Bool) (c : Nat) (v : Word) : (s.trapS q c v).irqIn = s.irqIn := rfl
@[simp] theorem trapS_haltReq (s : State) (q : Bool) (c : Nat) (v : Word) : (s.trapS q c v).haltReq = s.haltReq := rfl
@[simp] theorem trapS_resetHalt (s : State) (q : Bool) (c : Nat) (v : Word) : (s.trapS q c v).resetHalt = s.resetHalt := rfl
@[simp] theorem trapS_resumeReq (s : State) (q : Bool) (c : Nat) (v : Word) : (s.trapS q c v).resumeReq = s.resumeReq := rfl
@[simp] theorem trapS_command (s : State) (q : Bool) (c : Nat) (v : Word) : (s.trapS q c v).command = s.command := rfl
@[simp] theorem trapS_debugData (s : State) (q : Bool) (c : Nat) (v : Word) : (s.trapS q c v).debugData = s.debugData := rfl
@[simp] theorem trapS_triggers (s : State) (q : Bool) (c : Nat) (v : Word) : (s.trapS q c v).triggers = s.triggers := rfl
@[simp] theorem trapS_progBuf (s : State) (q : Bool) (c : Nat) (v : Word) : (s.trapS q c v).progBuf = s.progBuf := rfl
@[simp] theorem trapS_cmdErr (s : State) (q : Bool) (c : Nat) (v : Word) : (s.trapS q c v).cmdErr = s.cmdErr := rfl
@[simp] theorem trapS_resv (s : State) (q : Bool) (c : Nat) (v : Word) : (s.trapS q c v).resv = s.resv := rfl
@[simp] theorem trapS_mem (s : State) (q : Bool) (c : Nat) (v : Word) : (s.trapS q c v).mem = s.mem := rfl
@[simp] theorem trapS_tlb (s : State) (q : Bool) (c : Nat) (v : Word) : (s.trapS q c v).tlb = s.tlb := rfl
@[simp] theorem trapS_freeCtr (s : State) (q : Bool) (c : Nat) (v : Word) : (s.trapS q c v).freeCtr = s.freeCtr := rfl

/-! ## returnM -/

@[simp] theorem returnM_cfg (s : State) : (s.returnM).cfg = s.cfg := rfl
@[simp] theorem returnM_regs (s : State) : (s.returnM).regs = s.regs := rfl
@[simp] theorem returnM_ddc (s : State) : (s.returnM).ddc = s.ddc := rfl
@[simp] theorem returnM_fregs (s : State) : (s.returnM).fregs = s.fregs := rfl
@[simp] theorem returnM_debug (s : State) : (s.returnM).debug = s.debug := rfl
@[simp] theorem returnM_dinfcM (s : State) : (s.returnM).dinfcM = s.dinfcM := rfl
@[simp] theorem returnM_irqIn (s : State) : (s.returnM).irqIn = s.irqIn := rfl
@[simp] theorem returnM_haltReq (s : State) : (s.returnM).haltReq = s.haltReq := rfl
@[simp] theorem returnM_resetHalt (s : State) : (s.returnM).resetHalt = s.resetHalt := rfl
@[simp] theorem returnM_resumeReq (s : State) : (s.returnM).resumeReq = s.resumeReq := rfl
@[simp] theorem returnM_command (s : State) : (s.returnM).command = s.command := rfl
@[simp] theorem returnM_debugData (s : State) : (s.returnM).debugData = s.debugData := rfl
@[simp] theorem returnM_triggers (s : State) : (s.returnM).triggers = s.triggers := rfl
@[simp] theorem returnM_progBuf (s : State) : (s.returnM).progBuf = s.progBuf := rfl
@[simp] theorem returnM_cmdErr (s : State) : (s.returnM).cmdErr = s.cmdErr := rfl
@[simp] theorem returnM_resv (s : State) : (s.returnM).resv = s.resv := rfl
@[simp] theorem returnM_mem (s : State) : (s.returnM).mem = s.mem := rfl
@[simp] theorem returnM_tlb (s : State) : (s.returnM).tlb = s.tlb := rfl
@[simp] theorem returnM_freeCtr (s : State) : (s.returnM).freeCtr = s.freeCtr := rfl

/-! ## returnS -/

@[simp] theorem returnS_cfg (s : State) : (s.returnS).cfg = s.cfg := rfl
@[simp] theorem returnS_regs (s : State) : (s.returnS).regs = s.regs := rfl
@[simp] theorem returnS_ddc (s : State) : (s.returnS).ddc = s.ddc := rfl
@[simp] theorem returnS_fregs (s : State) : (s.returnS).fregs = s.fregs := rfl
@[simp] theorem returnS_debug (s : State) : (s.returnS).debug = s.debug := rfl
@[simp] theorem returnS_dinfcM (s : State) : (s.returnS).dinfcM = s.dinfcM := rfl
@[simp] theorem returnS_irqIn (s : State) : (s.returnS).irqIn = s.irqIn := rfl
@[simp] theorem returnS_haltReq (s : State) : (s.returnS).haltReq = s.haltReq := rfl
@[simp] theorem returnS_resetHalt (s : State) : (s.returnS).resetHalt = s.resetHalt := rfl
@[simp] theorem returnS_resumeReq (s : State) : (s.returnS).resumeReq = s.resumeReq := rfl
@[simp] theorem returnS_command (s : State) : (s.returnS).command = s.command := rfl
@[simp] theorem returnS_debugData (s : State) : (s.returnS).debugData = s.debugData := rfl
@[simp] theorem returnS_triggers (s : State) : (s.returnS).triggers = s.triggers := rfl
@[simp] theorem returnS_progBuf (s : State) : (s.returnS).progBuf = s.progBuf := rfl
@[simp] theorem returnS_cmdErr (s : State) : (s.returnS).cmdErr = s.cmdErr := rfl
@[simp] theorem returnS_resv (s : State) : (s.returnS).resv = s.resv := rfl
@[simp] theorem returnS_mem (s : State) : (s.returnS).mem = s.mem := rfl
@[simp] theorem returnS_tlb (s : State) : (s.returnS).tlb = s.tlb := rfl
@[simp] theorem returnS_freeCtr (s : State) : (s.returnS).freeCtr = s.freeCtr := rfl

/-! ## enterDebug -/

@[simp] theorem enterDebug_cfg (s : State) (c : Nat) : (s.enterDebug c).cfg = s.cfg := rfl
@[simp] theorem enterDebug_regs (s : State) (c : Nat) : (s.enterDebug c).regs = s.regs := rfl
@[simp] theorem enterDebug_fregs (s : State) (c : Nat) : (s.enterDebug c).fregs = s.fregs := rfl
@[simp] theorem enterDebug_priv (s : State) (c : Nat) : (s.enterDebug c).priv = s.priv := rfl
@[simp] theorem enterDebug_irqIn (s : State) (c : Nat) : (s.enterDebug c).irqIn = s.irqIn := rfl
@[simp] theorem enterDebug_resumeReq (s : State) (c : Nat) : (s.enterDebug c).resumeReq = s.resumeReq := rfl
@[simp] theorem enterDebug_command (s : State) (c : Nat) : (s.enterDebug c).command = s.command := rfl
@[simp] theorem enterDebug_debugData (s : State) (c : Nat) : (s.enterDebug c).debugData = s.debugData := rfl
@[simp] theorem enterDebug_triggers (s : State) (c : Nat) : (s.enterDebug c).triggers = s.triggers := rfl
@[simp] theorem enterDebug_cmdErr (s : State) (c : Nat) : (s.enterDebug c).cmdErr = s.cmdErr := rfl
@[simp] theorem enterDebug_resv (s : State) (c : Nat) : (s.enterDebug c).resv = s.resv := rfl
@[simp] theorem enterDebug_mem (s : State) (c : Nat) : (s.enterDebug c).mem = s.mem := rfl
@[simp] theorem enterDebug_tlb (s : State) (c : Nat) : (s.enterDebug c).tlb = s.tlb := rfl

/-! ## leaveDebug -/

@[simp] theorem leaveDebug_cfg (s : State) : (s.leaveDebug).cfg = s.cfg := rfl
@[simp] theorem leaveDebug_regs (s : State) : (s.leaveDebug).regs = s.regs := rfl
@[simp] theorem leaveDebug_fregs (s : State) : (s.leaveDebug).fregs = s.fregs := rfl
@[simp] theorem leaveDebug_dinfcM (s : State) : (s.leaveDebug).dinfcM = s.dinfcM := rfl
@[simp] theorem leaveDebug_csr (s : State) : (s.leaveDebug).csr = s.csr := rfl
@[simp] theorem leaveDebug_irqIn (s : State) : (s.leaveDebug).irqIn = s.irqIn := rfl
@[simp] theorem leaveDebug_haltReq (s : State) : (s.leaveDebug).haltReq = s.haltReq := rfl
@[simp] theorem leaveDebug_resetHalt (s : State) : (s.leaveDebug).resetHalt = s.resetHalt := rfl
@[simp] theorem leaveDebug_command (s : State) : (s.leaveDebug).command = s.command := rfl
@[simp] theorem leaveDebug_debugData (s : State) : (s.leaveDebug).debugData = s.debugData := rfl
@[simp] theorem leaveDebug_triggers (s : State) : (s.leaveDebug).triggers = s.triggers := rfl
@[simp] theorem leaveDebug_cmdErr (s : State) : (s.leaveDebug).cmdErr = s.cmdErr := rfl
@[simp] theorem leaveDebug_resv (s : State) : (s.leaveDebug).resv = s.resv := rfl
@[simp] theorem leaveDebug_mem (s : State) : (s.leaveDebug).mem = s.mem := rfl
@[simp] theorem leaveDebug_tlb (s : State) : (s.leaveDebug).tlb = s.tlb := rfl
@[simp] theorem leaveDebug_freeCtr (s : State) : (s.leaveDebug).freeCtr = s.freeCtr := rfl

/-! ## jumpTo -/

@[simp] theorem jumpTo_cfg (s : State) (t : Word) : (s.jumpTo t).cfg = s.cfg := rfl
@[simp] theorem jumpTo_regs (s : State) (t : Word) : (s.jumpTo t).regs = s.regs := rfl
@[simp] theorem jumpTo_ddc (s : State) (t : Word) : (s.jumpTo t).ddc = s.ddc := rfl
@[simp] theorem jumpTo_fregs (s : State) (t : Word) : (s.jumpTo t).fregs = s.fregs := rfl
@[simp] theorem jumpTo_priv (s : State) (t : Word) : (s.jumpTo t).priv = s.priv := rfl
@[simp] theorem jumpTo_debug (s : State) (t : Word) : (s.jumpTo t).debug = s.debug := rfl
@[simp] theorem jumpTo_dinfcM (s : State) (t : Word) : (s.jumpTo t).dinfcM = s.dinfcM := rfl
@[simp] theorem jumpTo_csr (s : State) (t : Word) : (s.jumpTo t).csr = s.csr := rfl
@[simp] theorem jumpTo_irqIn (s : State) (t : Word) : (s.jumpTo t).irqIn = s.irqIn := rfl
@[simp] theorem jumpTo_haltReq (s : State) (t : Word) : (s.jumpTo t).haltReq = s.haltReq := rfl
@[simp] theorem jumpTo_resetHalt (s : State) (t : Word) : (s.jumpTo t).resetHalt = s.resetHalt := rfl
@[simp] theorem jumpTo_resumeReq (s : State) (t : Word) : (s.jumpTo t).resumeReq = s.resumeReq := rfl
@[simp] theorem jumpTo_command (s : State) (t : Word) : (s.jumpTo t).command = s.command := rfl
@[simp] theorem jumpTo_debugData (s : State) (t : Word) : (s.jumpTo t).debugData = s.debugData := rfl
@[simp] theorem jumpTo_triggers (s : State) (t : Word) : (s.jumpTo t).triggers = s.triggers := rfl
@[simp] theorem jumpTo_progBuf (s : State) (t : Word) : (s.jumpTo t).progBuf = s.progBuf := rfl
@[simp] theorem jumpTo_cmdErr (s : State) (t : Word) : (s.jumpTo t).cmdErr = s.cmdErr := rfl
@[simp] theorem jumpTo_resv (s : State) (t : Word) : (s.jumpTo t).resv = s.resv := rfl
@[simp] theorem jumpTo_mem (s : State) (t : Word) : (s.jumpTo t).mem = s.mem := rfl
@[simp] theorem jumpTo_tlb (s : State) (t : Word) : (s.jumpTo t).tlb = s.tlb := rfl
@[simp] theorem jumpTo_freeCtr (s : State) (t : Word) : (s.jumpTo t).freeCtr = s.freeCtr := rfl

/-! ## tick -/

@[simp] theorem tick_cfg (s : State) : (s.tick).cfg = s.cfg := rfl
@[simp] theorem tick_regs (s : State) : (s.tick).regs = s.regs := rfl
@[simp] theorem tick_pcc (s : State) : (s.tick).pcc = s.pcc := rfl
@[simp] theorem tick_ddc (s : State) : (s.tick).ddc = s.ddc := rfl
@[simp] theorem tick_fregs (s : State) : (s.tick).fregs = s.fregs := rfl
@[simp] theorem tick_priv (s : State) : (s.tick).priv = s.priv := rfl
@[simp] theorem tick_debug (s : State) : (s.tick).debug = s.debug := rfl
@[simp] theorem tick_dinfcM (s : State) : (s.tick).dinfcM = s.dinfcM := rfl
@[simp] theorem tick_csr (s : State) : (s.tick).csr = s.csr := rfl
@[simp] theorem tick_irqIn (s : State) : (s.tick).irqIn = s.irqIn := rfl
@[simp] theorem tick_haltReq (s : State) : (s.tick).haltReq = s.haltReq := rfl
@[simp] theorem tick_resetHalt (s : State) : (s.tick).resetHalt = s.resetHalt := rfl
@[simp] theorem tick_resumeReq (s : State) : (s.tick).resumeReq = s.resumeReq := rfl
@[simp] theorem tick_command (s : State) : (s.tick).command = s.command := rfl
@[simp] theorem tick_debugData (s : State) : (s.tick).debugData = s.debugData := rfl
@[simp] theorem tick_triggers (s : State) : (s.tick).triggers = s.triggers := rfl
@[simp] theorem tick_progBuf (s : State) : (s.tick).progBuf = s.progBuf := rfl
@[simp] theorem tick_cmdErr (s : State) : (s.tick).cmdErr = s.cmdErr := rfl
@[simp] theorem tick_resv (s : State) : (s.tick).resv = s.resv := rfl
@[simp] theorem tick_mem (s : State) : (s.tick).mem = s.mem := rfl

/-! ## flush -/

@[simp] theorem flush_cfg (s : State) (a b : Reg) : (s.flush a b).cfg = s.cfg := rfl
@[simp] theorem flush_regs (s : State) (a b : Reg) : (s.flush a b).regs = s.regs := rfl
@[simp] theorem flush_pcc (s : State) (a b : Reg) : (s.flush a b).pcc = s.pcc := rfl
@[simp] theorem flush_ddc (s : State) (a b : Reg) : (s.flush a b).ddc = s.ddc := rfl
@[simp] theorem flush_fregs (s : State) (a b : Reg) : (s.flush a b).fregs = s.fregs := rfl
@[simp] theorem flush_priv (s : State) (a b : Reg) : (s.flush a b).priv = s.priv := rfl
@[simp] theorem flush_debug (s : State) (a b : Reg) : (s.flush a b).debug = s.debug := rfl
@[simp] theorem flush_dinfcM (s : State) (a b : Reg) : (s.flush a b).dinfcM = s.dinfcM := rfl
@[simp] theorem flush_csr (s : State) (a b : Reg) : (s.flush a b).csr = s.csr := rfl
@[simp] theorem flush_irqIn (s : State) (a b : Reg) : (s.flush a b).irqIn = s.irqIn := rfl
@[simp] theorem flush_haltReq (s : State) (a b : Reg) : (s.flush a b).haltReq = s.haltReq := rfl
@[simp] theorem flush_resetHalt (s : State) (a b : Reg) : (s.flush a b).resetHalt = s.resetHalt := rfl
@[simp] theorem flush_resumeReq (s : State) (a b : Reg) : (s.flush a b).resumeReq = s.resumeReq := rfl
@[simp] theorem flush_command (s : State) (a b : Reg) : (s.flush a b).command = s.command := rfl
@[simp] theorem flush_debugData (s : State) (a b : Reg) : (s.flush a b).debugData = s.debugData := rfl
@[simp] theorem flush_triggers (s : State) (a b : Reg) : (s.flush a b).triggers = s.triggers := rfl
@[simp] theorem flush_progBuf (s : State) (a b : Reg) : (s.flush a b).progBuf = s.progBuf := rfl
@[simp] theorem flush_cmdErr (s : State) (a b : Reg) : (s.flush a b).cmdErr = s.cmdErr := rfl
@[simp] theorem flush_resv (s : State) (a b : Reg) : (s.flush a b).resv = s.resv := rfl
@[simp] theorem flush_mem (s : State) (a b : Reg) : (s.flush a b).mem = s.mem := rfl
@[simp] theorem flush_freeCtr (s : State) (a b : Reg) : (s.flush a b).freeCtr = s.freeCtr := rfl

/-! ## uncached -/

@[simp] theorem uncached_cfg (s : State) : (s.uncached).cfg = s.cfg := rfl
@[simp] theorem uncached_regs (s : State) : (s.uncached).regs = s.regs := rfl
@[simp] theorem uncached_pcc (s : State) : (s.uncached).pcc = s.pcc := rfl
@[simp] theorem uncached_ddc (s : State) : (s.uncached).ddc = s.ddc := rfl
@[simp] theorem uncached_fregs (s : State) : (s.uncached).fregs = s.fregs := rfl
@[simp] theorem uncached_priv (s : State) : (s.uncached).priv = s.priv := rfl
@[simp] theorem uncached_debug (s : State) : (s.uncached).debug = s.debug := rfl
@[simp] theorem uncached_dinfcM (s : State) : (s.uncached).dinfcM = s.dinfcM := rfl
@[simp] theorem uncached_csr (s : State) : (s.uncached).csr = s.csr := rfl
@[simp] theorem uncached_irqIn (s : State) : (s.uncached).irqIn = s.irqIn := rfl
@[simp] theorem uncached_haltReq (s : State) : (s.uncached).haltReq = s.haltReq := rfl
@[simp] theorem uncached_resetHalt (s : State) : (s.uncached).resetHalt = s.resetHalt := rfl
@[simp] theorem uncached_resumeReq (s : State) : (s.uncached).resumeReq = s.resumeReq := rfl
@[simp] theorem uncached_command (s : State) : (s.uncached).command = s.command := rfl
@[simp] theorem uncached_debugData (s : State) : (s.uncached).debugData = s.debugData := rfl
@[simp] theorem uncached_triggers (s : State) : (s.uncached).triggers = s.triggers := rfl
@[simp] theorem uncached_progBuf (s : State) : (s.uncached).progBuf = s.progBuf := rfl
@[simp] theorem uncached_cmdErr (s : State) : (s.uncached).cmdErr = s.cmdErr := rfl
@[simp] theorem uncached_resv (s : State) : (s.uncached).resv = s.resv := rfl
@[simp] theorem uncached_mem (s : State) : (s.uncached).mem = s.mem := rfl
@[simp] theorem uncached_freeCtr (s : State) : (s.uncached).freeCtr = s.freeCtr := rfl

/-! ## accrue -/

@[simp] theorem accrue_cfg (s : State) (f : BitVec 5) : (s.accrue f).cfg = s.cfg := by unfold State.accrue; split <;> rfl
@[simp] theorem accrue_regs (s : State) (f : BitVec 5) : (s.accrue f).regs = s.regs := by unfold State.accrue; split <;> rfl
@[simp] theorem accrue_pcc (s : State) (f : BitVec 5) : (s.accrue f).pcc = s.pcc := by unfold State.accrue; split <;> rfl
@[simp] theorem accrue_ddc (s : State) (f : BitVec 5) : (s.accrue f).ddc = s.ddc := by unfold State.accrue; split <;> rfl
@[simp] theorem accrue_fregs (s : State) (f : BitVec 5) : (s.accrue f).fregs = s.fregs := by unfold State.accrue; split <;> rfl
@[simp] theorem accrue_priv (s : State) (f : BitVec 5) : (s.accrue f).priv = s.priv := by unfold State.accrue; split <;> rfl
@[simp] theorem accrue_debug (s : State) (f : BitVec 5) : (s.accrue f).debug = s.debug := by unfold State.accrue; split <;> rfl
@[simp] theorem accrue_dinfcM (s : State) (f : BitVec 5) : (s.accrue f).dinfcM = s.dinfcM := by unfold State.accrue; split <;> rfl
@[simp] theorem accrue_irqIn (s : State) (f : BitVec 5) : (s.accrue f).irqIn = s.irqIn := by unfold State.accrue; split <;> rfl
@[simp] theorem accrue_haltReq (s : State) (f : BitVec 5) : (s.accrue f).haltReq = s.haltReq := by unfold State.accrue; split <;> rfl
@[simp] theorem accrue_resetHalt (s : State) (f : BitVec 5) : (s.accrue f).resetHalt = s.resetHalt := by unfold State.accrue; split <;> rfl
@[simp] theorem accrue_resumeReq (s : State) (f : BitVec 5) : (s.accrue f).resumeReq = s.resumeReq := by unfold State.accrue; split <;> rfl
@[simp] theorem accrue_command (s : State) (f : BitVec 5) : (s.accrue f).command = s.command := by unfold State.accrue; split <;> rfl
@[simp] theorem accrue_debugData (s : State) (f : BitVec 5) : (s.accrue f).debugData = s.debugData := by unfold State.accrue; split <;> rfl
@[simp] theorem accrue_triggers (s : State) (f : BitVec 5) : (s.accrue f).triggers = s.triggers := by unfold State.accrue; split <;> rfl
@[simp] theorem accrue_progBuf (s : State) (f : BitVec 5) : (s.accrue f).progBuf = s.progBuf := by unfold State.accrue; split <;> rfl
@[simp] theorem accrue_cmdErr (s : State) (f : BitVec 5) : (s.accrue f).cmdErr = s.cmdErr := by unfold State.accrue; split <;> rfl
@[simp] theorem accrue_resv (s : State) (f : BitVec 5) : (s.accrue f).resv = s.resv := by unfold State.accrue; split <;> rfl
@[simp] theorem accrue_mem (s : State) (f : BitVec 5) : (s.accrue f).mem = s.mem := by unfold State.accrue; split <;> rfl
@[simp] theorem accrue_tlb (s : State) (f : BitVec 5) : (s.accrue f).tlb = s.tlb := by unfold State.accrue; split <;> rfl
@[simp] theorem accrue_freeCtr (s : State) (f : BitVec 5) : (s.accrue f).freeCtr = s.freeCtr := by unfold State.accrue; split <;> rfl

/-! ## setCd -/

@[simp] theorem setCd_cfg (s : State) (c : Option (Nat × Word)) : (s.setCd c).cfg = s.cfg := by unfold State.setCd; cases c <;> rfl
@[simp] theorem setCd_regs (s : State) (c : Option (Nat × Word)) : (s.setCd c).regs = s.regs := by unfold State.setCd; cases c <;> rfl
@[simp] theorem setCd_pcc (s : State) (c : Option (Nat × Word)) : (s.setCd c).pcc = s.pcc := by unfold State.setCd; cases c <;> rfl
@[simp] theorem setCd_ddc (s : State) (c : Option (Nat × Word)) : (s.setCd c).ddc = s.ddc := by unfold State.setCd; cases c <;> rfl
@[simp] theorem setCd_fregs (s : State) (c : Option (Nat × Word)) : (s.setCd c).fregs = s.fregs := by unfold State.setCd; cases c <;> rfl
@[simp] theorem setCd_priv (s : State) (c : Option (Nat × Word)) : (s.setCd c).priv = s.priv := by unfold State.setCd; cases c <;> rfl
@[simp] theorem setCd_debug (s : State) (c : Option (Nat × Word)) : (s.setCd c).debug = s.debug := by unfold State.setCd; cases c <;> rfl
@[simp] theorem setCd_dinfcM (s : State) (c : Option (Nat × Word)) : (s.setCd c).dinfcM = s.dinfcM := by unfold State.setCd; cases c <;> rfl
@[simp] theorem setCd_csr (s : State) (c : Option (Nat × Word)) : (s.setCd c).csr = s.csr := by unfold State.setCd; cases c <;> rfl
@[simp] theorem setCd_irqIn (s : State) (c : Option (Nat × Word)) : (s.setCd c).irqIn = s.irqIn := by unfold State.setCd; cases c <;> rfl
@[simp] theorem setCd_haltReq (s : State) (c : Option (Nat × Word)) : (s.setCd c).haltReq = s.haltReq := by unfold State.setCd; cases c <;> rfl
@[simp] theorem setCd_resetHalt (s : State) (c : Option (Nat × Word)) : (s.setCd c).resetHalt = s.resetHalt := by unfold State.setCd; cases c <;> rfl
@[simp] theorem setCd_resumeReq (s : State) (c : Option (Nat × Word)) : (s.setCd c).resumeReq = s.resumeReq := by unfold State.setCd; cases c <;> rfl
@[simp] theorem setCd_command (s : State) (c : Option (Nat × Word)) : (s.setCd c).command = s.command := by unfold State.setCd; cases c <;> rfl
@[simp] theorem setCd_debugData (s : State) (c : Option (Nat × Word)) : (s.setCd c).debugData = s.debugData := by unfold State.setCd; cases c <;> rfl
@[simp] theorem setCd_triggers (s : State) (c : Option (Nat × Word)) : (s.setCd c).triggers = s.triggers := by unfold State.setCd; cases c <;> rfl
@[simp] theorem setCd_progBuf (s : State) (c : Option (Nat × Word)) : (s.setCd c).progBuf = s.progBuf := by unfold State.setCd; cases c <;> rfl
@[simp] theorem setCd_cmdErr (s : State) (c : Option (Nat × Word)) : (s.setCd c).cmdErr = s.cmdErr := by unfold State.setCd; cases c <;> rfl
@[simp] theorem setCd_tlb (s : State) (c : Option (Nat × Word)) : (s.setCd c).tlb = s.tlb := by unfold State.setCd; cases c <;> rfl
@[simp] theorem setCd_freeCtr (s : State) (c : Option (Nat × Word)) : (s.setCd c).freeCtr = s.freeCtr := by unfold State.setCd; cases c <;> rfl

/-! ## putCap -/

@[simp] theorem putCap_cfg (s : State) (w : CapWrite) : (s.putCap w).cfg = s.cfg := by unfold State.putCap State.setCd; cases w.cd <;> rfl
@[simp] theorem putCap_regs (s : State) (w : CapWrite) : (s.putCap w).regs = s.regs := by unfold State.putCap State.setCd; cases w.cd <;> rfl
@[simp] theorem putCap_pcc (s : State) (w : CapWrite) : (s.putCap w).pcc = s.pcc := by unfold State.putCap State.setCd; cases w.cd <;> rfl
@[simp] theorem putCap_ddc (s : State) (w : CapWrite) : (s.putCap w).ddc = s.ddc := by unfold State.putCap State.setCd; cases w.cd <;> rfl
@[simp] theorem putCap_fregs (s : State) (w : CapWrite) : (s.putCap w).fregs = s.fregs := by unfold State.putCap State.setCd; cases w.cd <;> rfl
@[simp] theorem putCap_priv (s : State) (w : CapWrite) : (s.putCap w).priv = s.priv := by unfold State.putCap State.setCd; cases w.cd <;> rfl
@[simp] theorem putCap_debug (s : State) (w : CapWrite) : (s.putCap w).debug = s.debug := by unfold State.putCap State.setCd; cases w.cd <;> rfl
@[simp] theorem putCap_dinfcM (s : State) (w : CapWrite) : (s.putCap w).dinfcM = s.dinfcM := by unfold State.putCap State.setCd; cases w.cd <;> rfl
@[simp] theorem putCap_csr (s : State) (w : CapWrite) : (s.putCap w).csr = s.csr := by unfold State.putCap State.setCd; cases w.cd <;> rfl
@[simp] theorem putCap_irqIn (s : State) (w : CapWrite) : (s.putCap w).irqIn = s.irqIn := by unfold State.putCap State.setCd; cases w.cd <;> rfl
@[simp] theorem putCap_haltReq (s : State) (w : CapWrite) : (s.putCap w).haltReq = s.haltReq := by unfold State.putCap State.setCd; cases w.cd <;> rfl
@[simp] theorem putCap_resetHalt (s : State) (w : CapWrite) : (s.putCap w).resetHalt = s.resetHalt := by unfold State.putCap State.setCd; cases w.cd <;> rfl
@[simp] theorem putCap_resumeReq (s : State) (w : CapWrite) : (s.putCap w).resumeReq = s.resumeReq := by unfold State.putCap State.setCd; cases w.cd <;> rfl
@[simp] theorem putCap_command (s : State) (w : CapWrite) : (s.putCap w).command = s.command := by unfold State.putCap State.setCd; cases w.cd <;> rfl
@[simp] theorem putCap_debugData (s : State) (w : CapWrite) : (s.putCap w).debugData = s.debugData := by unfold State.putCap State.setCd; cases w.cd <;> rfl
@[simp] theorem putCap_triggers (s : State) (w : CapWrite) : (s.putCap w).triggers = s.triggers := by unfold State.putCap State.setCd; cases w.cd <;> rfl
@[simp] theorem putCap_progBuf (s : State) (w : CapWrite) : (s.putCap w).progBuf = s.progBuf := by unfold State.putCap State.setCd; cases w.cd <;> rfl
@[simp] theorem putCap_cmdErr (s : State) (w : CapWrite) : (s.putCap w).cmdErr = s.cmdErr := by unfold State.putCap State.setCd; cases w.cd <;> rfl
@[simp] theorem putCap_tlb (s : State) (w : CapWrite) : (s.putCap w).tlb = s.tlb := by unfold State.putCap State.setCd; cases w.cd <;> rfl
@[simp] theorem putCap_freeCtr (s : State) (w : CapWrite) : (s.putCap w).freeCtr = s.freeCtr := by unfold State.putCap State.setCd; cases w.cd <;> rfl

/-! ## setTrigger -/

@[simp] theorem setTrigger_cfg (s : State) (f : Trigger → Trigger) : (s.setTrigger f).cfg = s.cfg := by
  unfold State.setTrigger; split <;> [split; skip] <;> rfl
@[simp] theorem setTrigger_regs (s : State) (f : Trigger → Trigger) : (s.setTrigger f).regs = s.regs := by
  unfold State.setTrigger; split <;> [split; skip] <;> rfl
@[simp] theorem setTrigger_pcc (s : State) (f : Trigger → Trigger) : (s.setTrigger f).pcc = s.pcc := by
  unfold State.setTrigger; split <;> [split; skip] <;> rfl
@[simp] theorem setTrigger_ddc (s : State) (f : Trigger → Trigger) : (s.setTrigger f).ddc = s.ddc := by
  unfold State.setTrigger; split <;> [split; skip] <;> rfl
@[simp] theorem setTrigger_fregs (s : State) (f : Trigger → Trigger) : (s.setTrigger f).fregs = s.fregs := by
  unfold State.setTrigger; split <;> [split; skip] <;> rfl
@[simp] theorem setTrigger_priv (s : State) (f : Trigger → Trigger) : (s.setTrigger f).priv = s.priv := by
  unfold State.setTrigger; split <;> [split; skip] <;> rfl
@[simp] theorem setTrigger_debug (s : State) (f : Trigger → Trigger) : (s.setTrigger f).debug = s.debug := by
  unfold State.setTrigger; split <;> [split; skip] <;> rfl
@[simp] theorem setTrigger_dinfcM (s : State) (f : Trigger → Trigger) : (s.setTrigger f).dinfcM = s.dinfcM := by
  unfold State.setTrigger; split <;> [split; skip] <;> rfl
@[simp] theorem setTrigger_csr (s : State) (f : Trigger → Trigger) : (s.setTrigger f).csr = s.csr := by
  unfold State.setTrigger; split <;> [split; skip] <;> rfl
@[simp] theorem setTrigger_irqIn (s : State) (f : Trigger → Trigger) : (s.setTrigger f).irqIn = s.irqIn := by
  unfold State.setTrigger; split <;> [split; skip] <;> rfl
@[simp] theorem setTrigger_haltReq (s : State) (f : Trigger → Trigger) : (s.setTrigger f).haltReq = s.haltReq := by
  unfold State.setTrigger; split <;> [split; skip] <;> rfl
@[simp] theorem setTrigger_resetHalt (s : State) (f : Trigger → Trigger) : (s.setTrigger f).resetHalt = s.resetHalt := by
  unfold State.setTrigger; split <;> [split; skip] <;> rfl
@[simp] theorem setTrigger_resumeReq (s : State) (f : Trigger → Trigger) : (s.setTrigger f).resumeReq = s.resumeReq := by
  unfold State.setTrigger; split <;> [split; skip] <;> rfl
@[simp] theorem setTrigger_command (s : State) (f : Trigger → Trigger) : (s.setTrigger f).command = s.command := by
  unfold State.setTrigger; split <;> [split; skip] <;> rfl
@[simp] theorem setTrigger_debugData (s : State) (f : Trigger → Trigger) : (s.setTrigger f).debugData = s.debugData := by
  unfold State.setTrigger; split <;> [split; skip] <;> rfl
@[simp] theorem setTrigger_progBuf (s : State) (f : Trigger → Trigger) : (s.setTrigger f).progBuf = s.progBuf := by
  unfold State.setTrigger; split <;> [split; skip] <;> rfl
@[simp] theorem setTrigger_cmdErr (s : State) (f : Trigger → Trigger) : (s.setTrigger f).cmdErr = s.cmdErr := by
  unfold State.setTrigger; split <;> [split; skip] <;> rfl
@[simp] theorem setTrigger_resv (s : State) (f : Trigger → Trigger) : (s.setTrigger f).resv = s.resv := by
  unfold State.setTrigger; split <;> [split; skip] <;> rfl
@[simp] theorem setTrigger_mem (s : State) (f : Trigger → Trigger) : (s.setTrigger f).mem = s.mem := by
  unfold State.setTrigger; split <;> [split; skip] <;> rfl
@[simp] theorem setTrigger_tlb (s : State) (f : Trigger → Trigger) : (s.setTrigger f).tlb = s.tlb := by
  unfold State.setTrigger; split <;> [split; skip] <;> rfl
@[simp] theorem setTrigger_freeCtr (s : State) (f : Trigger → Trigger) : (s.setTrigger f).freeCtr = s.freeCtr := by
  unfold State.setTrigger; split <;> [split; skip] <;> rfl

/-- What a write of the selected trigger does: nothing, or that one trigger changes, which is not reserved to debug mode unless the hart is in it. -/
theorem setTrigger_cases (s : State) (f : Trigger → Trigger) :
    s.setTrigger f = s ∨ ∃ b, s.triggers[s.csr.tselect.toNat]? = some b ∧ (b.dmode = false ∨ s.debug = true) ∧
      s.setTrigger f = { s with triggers := s.triggers.set s.csr.tselect.toNat (f b) } := by
  unfold State.setTrigger State.trigger
  split
  · next b h =>
    split
    · exact .inl rfl
    · next hd => exact .inr ⟨b, h, by cases hb : b.dmode <;> simp_all, rfl⟩
  · exact .inl rfl
@[simp] theorem setTrigger_triggers_length (s : State) (f : Trigger → Trigger) : (s.setTrigger f).triggers.length = s.triggers.length := by
  obtain h | ⟨b, -, -, h⟩ := setTrigger_cases s f <;> simp [h]

/-! ## The fields an update writes -/

@[simp] theorem setPc_pcc (s : State) (a : Word) : (s.setPc a).pcc = s.pccAt a := rfl
@[simp] theorem jumpTo_pcc (s : State) (t : Word) : (s.jumpTo t).pcc = { s.pcc with addr := t } := rfl
@[simp] theorem setPcc_pcc (s : State) (k : Cap) : (s.setPcc k).pcc = k := rfl
@[simp] theorem advance_pcc (s : State) (n : Nat) : (s.advance n).pcc = s.pccAt (s.pc + BitVec.ofNat 64 n) := rfl
@[simp] theorem trapM_priv (s : State) (q : Bool) (c : Nat) (v : Word) : (s.trapM q c v).priv = .machine := rfl
@[simp] theorem trapS_priv (s : State) (q : Bool) (c : Nat) (v : Word) : (s.trapS q c v).priv = .supervisor := rfl
@[simp] theorem trapM_mepcc (s : State) (q : Bool) (c : Nat) (v : Word) : (s.trapM q c v).csr.mepcc = Cap.hold s.cfg .mepcc s.pcc := rfl
@[simp] theorem trapS_sepcc (s : State) (q : Bool) (c : Nat) (v : Word) : (s.trapS q c v).csr.sepcc = Cap.hold s.cfg .sepcc s.pcc := rfl
@[simp] theorem enterDebug_debug (s : State) (c : Nat) : (s.enterDebug c).debug = true := rfl
@[simp] theorem enterDebug_dpcc (s : State) (c : Nat) : (s.enterDebug c).csr.dpcc = Cap.hold s.cfg .dpcc s.pcc := rfl
@[simp] theorem leaveDebug_debug (s : State) : s.leaveDebug.debug = false := rfl
@[simp] theorem storeBytes_mem (s : State) (as : List Nat) (bs : List Byte) :
    (s.storeBytes as bs).mem = (s.mem.writeList as bs).clearTags s.cfg.capBytes as := rfl
@[simp] theorem storeBytes_resv (s : State) (as : List Nat) (bs : List Byte) : (s.storeBytes as bs).resv = resvAfter s.resv as := rfl

/-! ## Modes do not depend on what register and memory updates change -/

@[simp] theorem wc_cur64 (s : State) (i : Reg) (k : Cap) : (s.wc i k).cur64 = s.cur64 := by unfold State.wc; split <;> rfl
@[simp] theorem wc_minLen (s : State) (i : Reg) (k : Cap) : (s.wc i k).minLen = s.minLen := by unfold State.wc; split <;> rfl
@[simp] theorem wc_x64Of (s : State) (i : Reg) (k : Cap) (q : Priv) : (s.wc i k).x64Of q = s.x64Of q := by unfold State.wc; split <;> rfl
@[simp] theorem wc_effPriv (s : State) (i : Reg) (k : Cap) : (s.wc i k).effPriv = s.effPriv := by unfold State.wc; split <;> rfl
@[simp] theorem wc_capMode (s : State) (i : Reg) (k : Cap) : (s.wc i k).capMode = s.capMode := by unfold State.wc; split <;> rfl
@[simp] theorem wx_cur64 (s : State) (i : Reg) (v : Word) : (s.wx i v).cur64 = s.cur64 := by unfold State.wx State.wc; split <;> rfl
@[simp] theorem wx_minLen (s : State) (i : Reg) (v : Word) : (s.wx i v).minLen = s.minLen := by unfold State.wx State.wc; split <;> rfl
@[simp] theorem wx_x64Of (s : State) (i : Reg) (v : Word) (q : Priv) : (s.wx i v).x64Of q = s.x64Of q := by unfold State.wx State.wc; split <;> rfl
@[simp] theorem wx_effPriv (s : State) (i : Reg) (v : Word) : (s.wx i v).effPriv = s.effPriv := by unfold State.wx State.wc; split <;> rfl
@[simp] theorem wx_capMode (s : State) (i : Reg) (v : Word) : (s.wx i v).capMode = s.capMode := by unfold State.wx State.wc; split <;> rfl
@[simp] theorem wf_cur64 (s : State) (i : Reg) (v : Word) : (s.wf i v).cur64 = s.cur64 := rfl
@[simp] theorem wf_minLen (s : State) (i : Reg) (v : Word) : (s.wf i v).minLen = s.minLen := rfl
@[simp] theorem wf_x64Of (s : State) (i : Reg) (v : Word) (q : Priv) : (s.wf i v).x64Of q = s.x64Of q := rfl
@[simp] theorem wf_effPriv (s : State) (i : Reg) (v : Word) : (s.wf i v).effPriv = s.effPriv := rfl
@[simp] theorem wf_capMode (s : State) (i : Reg) (v : Word) : (s.wf i v).capMode = s.capMode := rfl
@[simp] theorem setPc_cur64 (s : State) (a : Word) : (s.setPc a).cur64 = s.cur64 := rfl
@[simp] theorem setPc_minLen (s : State) (a : Word) : (s.setPc a).minLen = s.minLen := rfl
@[simp] theorem setPc_x64Of (s : State) (a : Word) (q : Priv) : (s.setPc a).x64Of q = s.x64Of q := rfl
@[simp] theorem setPc_effPriv (s : State) (a : Word) : (s.setPc a).effPriv = s.effPriv := rfl
@[simp] theorem advance_cur64 (s : State) (n : Nat) : (s.advance n).cur64 = s.cur64 := rfl
@[simp] theorem advance_minLen (s : State) (n : Nat) : (s.advance n).minLen = s.minLen := rfl
@[simp] theorem advance_x64Of (s : State) (n : Nat) (q : Priv) : (s.advance n).x64Of q = s.x64Of q := rfl
@[simp] theorem advance_effPriv (s : State) (n : Nat) : (s.advance n).effPriv = s.effPriv := rfl
@[simp] theorem storeBytes_cur64 (s : State) (as : List Nat) (bs : List Byte) : (s.storeBytes as bs).cur64 = s.cur64 := rfl
@[simp] theorem storeBytes_minLen (s : State) (as : List Nat) (bs : List Byte) : (s.storeBytes as bs).minLen = s.minLen := rfl
@[simp] theorem storeBytes_x64Of (s : State) (as : List Nat) (bs : List Byte) (q : Priv) : (s.storeBytes as bs).x64Of q = s.x64Of q := rfl
@[simp] theorem storeBytes_effPriv (s : State) (as : List Nat) (bs : List Byte) : (s.storeBytes as bs).effPriv = s.effPriv := rfl
@[simp] theorem storeBytes_capMode (s : State) (as : List Nat) (bs : List Byte) : (s.storeBytes as bs).capMode = s.capMode := rfl
@[simp] theorem writeInt_cur64 (s : State) (as : List Nat) (v : Word) : (s.writeInt as v).cur64 = s.cur64 := rfl
@[simp] theorem writeInt_minLen (s : State) (as : List Nat) (v : Word) : (s.writeInt as v).minLen = s.minLen := rfl
@[simp] theorem writeInt_x64Of (s : State) (as : List Nat) (v : Word) (q : Priv) : (s.writeInt as v).x64Of q = s.x64Of q := rfl
@[simp] theorem writeInt_effPriv (s : State) (as : List Nat) (v : Word) : (s.writeInt as v).effPriv = s.effPriv := rfl
@[simp] theorem writeInt_capMode (s : State) (as : List Nat) (v : Word) : (s.writeInt as v).capMode = s.capMode := rfl
@[simp] theorem writeCap_cur64 (s : State) (a : Nat) (k : Cap) : (s.writeCap a k).cur64 = s.cur64 := rfl
@[simp] theorem writeCap_minLen (s : State) (a : Nat) (k : Cap) : (s.writeCap a k).minLen = s.minLen := rfl
@[simp] theorem writeCap_x64Of (s : State) (a : Nat) (k : Cap) (q : Priv) : (s.writeCap a k).x64Of q = s.x64Of q := rfl
@[simp] theorem writeCap_effPriv (s : State) (a : Nat) (k : Cap) : (s.writeCap a k).effPriv = s.effPriv := rfl
@[simp] theorem writeCap_capMode (s : State) (a : Nat) (k : Cap) : (s.writeCap a k).capMode = s.capMode := rfl
@[simp] theorem jumpTo_cur64 (s : State) (t : Word) : (s.jumpTo t).cur64 = s.cur64 := rfl
@[simp] theorem jumpTo_minLen (s : State) (t : Word) : (s.jumpTo t).minLen = s.minLen := rfl
@[simp] theorem jumpTo_x64Of (s : State) (t : Word) (q : Priv) : (s.jumpTo t).x64Of q = s.x64Of q := rfl
@[simp] theorem jumpTo_effPriv (s : State) (t : Word) : (s.jumpTo t).effPriv = s.effPriv := rfl
@[simp] theorem tick_cur64 (s : State) : (s.tick).cur64 = s.cur64 := rfl
@[simp] theorem tick_minLen (s : State) : (s.tick).minLen = s.minLen := rfl
@[simp] theorem tick_x64Of (s : State) (q : Priv) : (s.tick).x64Of q = s.x64Of q := rfl
@[simp] theorem tick_effPriv (s : State) : (s.tick).effPriv = s.effPriv := rfl
@[simp] theorem tick_capMode (s : State) : (s.tick).capMode = s.capMode := rfl
@[simp] theorem setCd_cur64 (s : State) (c : Option (Nat × Word)) : (s.setCd c).cur64 = s.cur64 := by unfold State.setCd; cases c <;> rfl
@[simp] theorem setCd_minLen (s : State) (c : Option (Nat × Word)) : (s.setCd c).minLen = s.minLen := by unfold State.setCd; cases c <;> rfl
@[simp] theorem setCd_x64Of (s : State) (c : Option (Nat × Word)) (q : Priv) : (s.setCd c).x64Of q = s.x64Of q := by unfold State.setCd; cases c <;> rfl
@[simp] theorem setCd_effPriv (s : State) (c : Option (Nat × Word)) : (s.setCd c).effPriv = s.effPriv := by unfold State.setCd; cases c <;> rfl
@[simp] theorem setCd_capMode (s : State) (c : Option (Nat × Word)) : (s.setCd c).capMode = s.capMode := by unfold State.setCd; cases c <;> rfl
@[simp] theorem putCap_cur64 (s : State) (w : CapWrite) : (s.putCap w).cur64 = s.cur64 := by unfold State.putCap State.setCd; cases w.cd <;> rfl
@[simp] theorem putCap_minLen (s : State) (w : CapWrite) : (s.putCap w).minLen = s.minLen := by unfold State.putCap State.setCd; cases w.cd <;> rfl
@[simp] theorem putCap_x64Of (s : State) (w : CapWrite) (q : Priv) : (s.putCap w).x64Of q = s.x64Of q := by unfold State.putCap State.setCd; cases w.cd <;> rfl
@[simp] theorem putCap_effPriv (s : State) (w : CapWrite) : (s.putCap w).effPriv = s.effPriv := by unfold State.putCap State.setCd; cases w.cd <;> rfl
@[simp] theorem putCap_capMode (s : State) (w : CapWrite) : (s.putCap w).capMode = s.capMode := by unfold State.putCap State.setCd; cases w.cd <;> rfl

/-! ## Registers (10_state R38) -/

@[simp] theorem rc_zero (s : State) : s.rc 0 = nullCap := rfl

/-- Reading after a write: the register written, unless it is c0; every other register unchanged. -/
theorem rc_wc (s : State) (i j : Reg) (k : Cap) : (s.wc i k).rc j = if j = i ∧ j ≠ 0 then k else s.rc j := by
  unfold State.wc State.rc
  by_cases hi : i = 0 <;> by_cases hj : j = 0 <;> by_cases hji : j = i <;> simp_all [Vector.getElem_set]
  intro h
  exact absurd (BitVec.eq_of_toNat_eq h.symm) hji

@[simp] theorem rc_setPc (s : State) (a : Word) (j : Reg) : (s.setPc a).rc j = s.rc j := rfl
@[simp] theorem rc_setPcc (s : State) (k : Cap) (j : Reg) : (s.setPcc k).rc j = s.rc j := rfl
@[simp] theorem rc_advance (s : State) (n : Nat) (j : Reg) : (s.advance n).rc j = s.rc j := rfl
@[simp] theorem rc_storeBytes (s : State) (as : List Nat) (bs : List Byte) (j : Reg) : (s.storeBytes as bs).rc j = s.rc j := rfl
@[simp] theorem rc_writeCap (s : State) (a : Nat) (k : Cap) (j : Reg) : (s.writeCap a k).rc j = s.rc j := rfl
@[simp] theorem rc_writeInt (s : State) (as : List Nat) (v : Word) (j : Reg) : (s.writeInt as v).rc j = s.rc j := rfl

/-- An integer result replaces the whole register, tag and metadata zero (10_state R39). -/
theorem rc_wx (s : State) (i j : Reg) (v : Word) : (s.wx i v).rc j = if j = i ∧ j ≠ 0 then nullWithAddr (s.toX v) else s.rc j :=
  rc_wc s i j _

/-! ## Outcomes -/

@[simp] theorem Res.bind_ok {α β : Type} (a : α) (f : α → Res β) : (Res.ok a).bind f = f a := rfl
@[simp] theorem Res.bind_exc {α β : Type} (e : Exc) (f : α → Res β) : (Res.exc e : Res α).bind f = .exc e := rfl
@[simp] theorem Res.bind_halt {α β : Type} (f : α → Res β) : (Res.halt : Res α).bind f = .halt := rfl

/-- A part of an instruction and what follows give a value exactly when both do. -/
theorem Res.bind_eq_ok {α β : Type} (r : Res α) (f : α → Res β) (b : β) : r.bind f = .ok b ↔ ∃ a, r = .ok a ∧ f a = .ok b := by
  cases r <;> simp [Res.bind]

theorem Res.check_eq_ok (b : Bool) (e : Exc) (u : Unit) : Res.check b e = .ok u ↔ b = true := by
  cases b <;> simp [Res.check]

/-- An instruction that gives a next state ran, took its exception, or was held by a trigger. -/
theorem Res.run_eq_next (s t : State) (r : Res State) :
    r.run s = .next t ↔ r = .ok t ∨ (∃ e, r = .exc e ∧ t = takeException s e) ∨ (r = .halt ∧ t = s.enterDebug 2) := by
  cases r <;> simp [Res.run, eq_comm]

/-- Another address reported, the same value. -/
@[simp] theorem Res.reportAt_eq_ok {α : Type} (r : Res α) (v : Word) (a : α) : r.reportAt v = .ok a ↔ r = .ok a := by
  cases r <;> simp [Res.reportAt]

/-- The triggers let an access go on exactly when none matches. -/
theorem bpCheck_eq_ok (s : State) (k : Acc) (a : Word) (u : Unit) : s.bpCheck k a = .ok u ↔ s.bpHit k a = false := by
  unfold State.bpCheck
  split
  · next h =>
    have : s.bpHit k a = true := by
      unfold State.haltHit State.bpHit at *
      simp only [Bool.and_eq_true, List.any_eq_true] at h ⊢
      obtain ⟨⟨hd, _⟩, b, hb, _, hm⟩ := h
      exact ⟨hd, b, hb, hm⟩
    simp [this]
  · simp [Res.check_eq_ok]

/-! ## Addresses a register can hold (11_csrs R93) -/

/-- A register of full width holds every address; what a register can hold stays as it is. -/
theorem holds_of_width (p : Params) (r : AddrReg) (a : Word) (h : 64 ≤ Params.widthOf p r) : Params.holds p r a = true := by
  simp [Params.holds, h]
@[simp] theorem holds_of_xlenmax32 (p : Params) (r : AddrReg) (a : Word) (h : p.xlenmax64 = false) : Params.holds p r a = true :=
  holds_of_width _ _ _ (by simp [Params.widthOf, h])
theorem hold_of_holds (p : Params) (r : AddrReg) (k : Cap) (h : Params.holds p r k.addr = true) : Cap.hold p r k = k := by
  simp [Cap.hold, h]
theorem heldAddr_of_holds (p : Params) (r : AddrReg) (a : Word) (h : Params.holds p r a = true) : Params.heldAddr p r a = a := by
  simp [Params.heldAddr, h]
@[simp] theorem hold_md (p : Params) (r : AddrReg) (k : Cap) : (Cap.hold p r k).md = k.md := by
  unfold Cap.hold; split <;> rfl
theorem hold_tag (p : Params) (r : AddrReg) (k : Cap) (h : (Cap.hold p r k).tag = true) : k.tag = true := by
  unfold Cap.hold at h; split at h
  · exact h
  · simp [Cap.setAddr] at h; exact h.1.1

/-! ## Reading a byte (20_memory R111) -/

/-- Main memory is read as it was written. -/
theorem loadByte_of_isMain (s : State) (a : Nat) (h : Params.isMain s.cfg a = true) : s.loadByte a = s.mem.readByte a := by
  have : Params.isDevice s.cfg a = false := by
    unfold Params.isMain Params.isDevice at *
    cases hr : Params.regionAt s.cfg a with
    | none => rfl
    | some r =>
      rw [hr] at h
      simp only [Option.any_some, beq_iff_eq] at h
      simp [h]
  simp [State.loadByte, this]
theorem loadList_of_isMain (s : State) (as : List Nat) (h : ∀ a ∈ as, Params.isMain s.cfg a = true) : s.loadList as = s.mem.readList as :=
  List.map_congr_left fun a ha => loadByte_of_isMain s a (h a ha)
/-- The bytes of a taggable granule are in main memory. -/
theorem isMain_of_isTaggable (p : Params) (a b : Nat) (h : Params.isTaggable p a = true) (hb : b ∈ span a p.capBytes) : Params.isMain p b = true := by
  have := (List.all_eq_true.1 h) b hb
  unfold Params.isMain
  cases hr : Params.regionAt p b with
  | none => simp [hr] at this
  | some r => simp_all

end Sys2Proof.Machine
end

