-- ==== Sys2Proof/Laws/Memory.lean ====
section
/-!
SUPPORT. Laws/Memory.lean: every memory operation keeps the canonical form; what a byte or a tag reads as after a write.
-/
namespace Sys2Proof.Machine
open Sys2Proof

/-! ## Lists with strictly rising keys -/

theorem rising_cons (a : Nat) (l : List Nat) : rising (a :: l) = true ↔ (∀ b ∈ l, a < b) ∧ rising l = true := by
  induction l generalizing a with
  | nil => simp [rising]
  | cons b r ih =>
    simp only [rising, Bool.and_eq_true, decide_eq_true_eq, List.mem_cons, forall_eq_or_imp]
    constructor
    · rintro ⟨h, hr⟩
      exact ⟨⟨h, fun c hc => lt_trans h (((ih b).1 hr).1 c hc)⟩, hr⟩
    · rintro ⟨⟨h, _⟩, hr⟩
      exact ⟨h, hr⟩

/-- The canonical form of a list of cells. -/
def cellsOk (l : List Host.Cell) : Prop := rising (l.map (·.1)) = true ∧ ∀ c ∈ l, c.2 ≠ 0

theorem cellsOk_cons (c : Host.Cell) (l : List Host.Cell) :
    cellsOk (c :: l) ↔ (∀ d ∈ l, c.1 < d.1) ∧ c.2 ≠ 0 ∧ cellsOk l := by
  simp only [cellsOk, List.map_cons, rising_cons, List.mem_map, List.mem_cons, forall_eq_or_imp]
  constructor
  · rintro ⟨⟨h1, h2⟩, h3, h4⟩
    exact ⟨fun d hd => h1 _ ⟨d, hd, rfl⟩, h3, h2, h4⟩
  · rintro ⟨h1, h2, h3, h4⟩
    exact ⟨⟨fun b ⟨d, hd, e⟩ => e ▸ h1 d hd, h3⟩, h2, h4⟩

theorem Memory.wf_iff (m : Memory) : m.wf = true ↔ cellsOk m.cells ∧ rising m.tags = true := by
  simp [Memory.wf, cellsOk, and_assoc]

theorem mem_writeCells (l : List Host.Cell) (a : Nat) (v : Byte) (c : Host.Cell) (h : c ∈ writeCells l a v) :
    c.1 = a ∨ c ∈ l := by
  induction l with
  | nil =>
    unfold writeCells at h
    split at h <;> simp_all
  | cons d r ih =>
    unfold writeCells at h
    split at h
    · split at h
      · exact .inr h
      · rcases List.mem_cons.1 h with rfl | h
        · exact .inl rfl
        · exact .inr h
    · split at h
      · split at h
        · exact .inr (List.mem_cons_of_mem _ h)
        · rcases List.mem_cons.1 h with rfl | h
          · exact .inl rfl
          · exact .inr (List.mem_cons_of_mem _ h)
      · simp only [List.mem_cons] at h ⊢
        rcases h with h | h
        · exact .inr (.inl h)
        · rcases ih h with h | h
          · exact .inl h
          · exact .inr (.inr h)

theorem cellsOk_writeCells (l : List Host.Cell) (a : Nat) (v : Byte) (h : cellsOk l) : cellsOk (writeCells l a v) := by
  induction l with
  | nil =>
    unfold writeCells
    split
    · exact h
    · rename_i hv
      exact (cellsOk_cons _ _).2 ⟨by simp, hv, h⟩
  | cons d r ih =>
    have h0 := h
    rw [cellsOk_cons] at h
    obtain ⟨h1, h2, h3⟩ := h
    unfold writeCells
    split
    · rename_i hlt
      split
      · exact h0
      · rename_i hv
        refine (cellsOk_cons _ _).2 ⟨?_, hv, h0⟩
        intro e he
        rcases List.mem_cons.1 he with rfl | he
        · exact hlt
        · exact lt_trans hlt (h1 e he)
    · split
      · rename_i heq
        split
        · exact h3
        · rename_i hv
          exact (cellsOk_cons _ _).2 ⟨fun e he => heq ▸ h1 e he, hv, h3⟩
      · rename_i hlt hne
        refine (cellsOk_cons _ _).2 ⟨?_, h2, ih h3⟩
        intro e he
        rcases mem_writeCells r a v e he with he | he
        · simp only [he]
          omega
        · exact h1 e he

/-- A byte reads as it was last written; a write leaves every other byte alone. -/
theorem readCells_writeCells (l : List Host.Cell) (a b : Nat) (v : Byte) (h : cellsOk l) :
    readCells (writeCells l a v) b = if b = a then v else readCells l b := by
  induction l with
  | nil =>
    unfold writeCells
    split
    · split <;> simp_all [readCells]
    · simp [readCells, eq_comm]
  | cons d r ih =>
    obtain ⟨k, w⟩ := d
    have h0 := h
    rw [cellsOk_cons] at h
    obtain ⟨h1, h2, h3⟩ := h
    have key : ∀ l : List Host.Cell, (∀ d ∈ l, k < d.1) → ∀ x, x ≤ k → readCells l x = 0 := by
      intro l hl x hx
      induction l with
      | nil => rfl
      | cons e t iht =>
        have := hl e (by simp)
        obtain ⟨e1, e2⟩ := e
        simp only at this
        simp only [readCells]
        rw [if_neg (by omega)]
        exact iht (fun d hd => hl d (by simp [hd]))
    have hz := key r (fun d hd => h1 d hd)
    unfold writeCells
    split
    · rename_i hlt
      split
      · rename_i hv
        by_cases hb : b = a
        · subst hb
          simp only [readCells, hv, if_true]
          rw [if_neg (by omega)]
          exact hz b (by omega)
        · simp [hb]
      · by_cases hb : b = a
        · simp [readCells, hb]
        · simp only [readCells, hb, if_false]
          rw [if_neg (fun e => hb e.symm)]
    · split
      · rename_i heq
        subst heq
        split
        · rename_i hv
          by_cases hb : b = a
          · subst hb
            simp [hv, hz b (le_refl _)]
          · simp only [readCells, hb, if_false]
            rw [if_neg (fun e => hb e.symm)]
        · by_cases hb : b = a
          · simp [readCells, hb]
          · simp only [readCells, hb, if_false]
            rw [if_neg (fun e => hb e.symm), if_neg (fun e => hb e.symm)]
      · rename_i hlt hne
        simp only [readCells]
        rw [ih h3]
        by_cases hk : k = b
        · subst hk
          rw [if_pos rfl, if_pos rfl, if_neg (fun e => hne e.symm)]
        · rw [if_neg hk, if_neg hk]

/-! ## Tags -/

theorem mem_insertTag (l : List Nat) (g x : Nat) : x ∈ insertTag l g ↔ x = g ∨ x ∈ l := by
  induction l with
  | nil => simp [insertTag]
  | cons k r ih =>
    unfold insertTag
    split
    · simp
    · split
      · rename_i h
        subst h
        simp
      · simp only [List.mem_cons, ih]
        tauto

theorem rising_insertTag (l : List Nat) (g : Nat) (h : rising l = true) : rising (insertTag l g) = true := by
  induction l with
  | nil => rfl
  | cons k r ih =>
    have h0 := h
    rw [rising_cons] at h
    unfold insertTag
    split
    · rename_i hlt
      refine (rising_cons _ _).2 ⟨?_, h0⟩
      intro b hb
      rcases List.mem_cons.1 hb with rfl | hb
      · exact hlt
      · exact lt_trans hlt (h.1 b hb)
    · split
      · exact h0
      · refine (rising_cons _ _).2 ⟨?_, ih h.2⟩
        intro b hb
        rcases (mem_insertTag r g b).1 hb with rfl | hb
        · omega
        · exact h.1 b hb

theorem mem_of_removeTag (l : List Nat) (g x : Nat) (h : x ∈ removeTag l g) : x ∈ l := by
  induction l with
  | nil => exact h
  | cons k r ih =>
    unfold removeTag at h
    split at h
    · exact List.mem_cons_of_mem _ h
    · rcases List.mem_cons.1 h with rfl | h
      · exact List.mem_cons_self
      · exact List.mem_cons_of_mem _ (ih h)

theorem rising_removeTag (l : List Nat) (g : Nat) (h : rising l = true) : rising (removeTag l g) = true := by
  induction l with
  | nil => rfl
  | cons k r ih =>
    rw [rising_cons] at h
    unfold removeTag
    split
    · exact h.2
    · exact (rising_cons _ _).2 ⟨fun b hb => h.1 b (mem_of_removeTag r g b hb), ih h.2⟩

theorem mem_removeTag (l : List Nat) (g x : Nat) (h : rising l = true) : x ∈ removeTag l g ↔ x ≠ g ∧ x ∈ l := by
  induction l with
  | nil => simp [removeTag]
  | cons k r ih =>
    rw [rising_cons] at h
    unfold removeTag
    split
    · rename_i hk
      subst hk
      constructor
      · intro hx
        exact ⟨by have := h.1 x hx; omega, List.mem_cons_of_mem _ hx⟩
      · rintro ⟨hne, hx⟩
        rcases List.mem_cons.1 hx with rfl | hx
        · exact absurd rfl hne
        · exact hx
    · rename_i hk
      simp only [List.mem_cons, ih h.2]
      constructor
      · rintro (rfl | ⟨h1, h2⟩)
        · exact ⟨hk, .inl rfl⟩
        · exact ⟨h1, .inr h2⟩
      · rintro ⟨h1, h2 | h2⟩
        · exact .inl h2
        · exact .inr ⟨h1, h2⟩

/-! ## The operations on memory -/

theorem Memory.wf_writeByte (m : Memory) (a : Nat) (v : Byte) (h : m.wf = true) : (m.writeByte a v).wf = true := by
  rw [Memory.wf_iff] at h ⊢
  exact ⟨cellsOk_writeCells _ _ _ h.1, h.2⟩

theorem Memory.wf_setTag (m : Memory) (g : Nat) (b : Bool) (h : m.wf = true) : (m.setTag g b).wf = true := by
  rw [Memory.wf_iff] at h ⊢
  refine ⟨h.1, ?_⟩
  cases b
  · exact rising_removeTag _ _ h.2
  · exact rising_insertTag _ _ h.2

theorem Memory.wf_writeList (m : Memory) (as : List Nat) (bs : List Byte) (h : m.wf = true) : (m.writeList as bs).wf = true := by
  induction as generalizing m bs with
  | nil => cases bs <;> exact h
  | cons a as ih =>
    cases bs with
    | nil => exact h
    | cons b bs => exact ih _ _ (m.wf_writeByte a b h)

theorem Memory.wf_clearTags (m : Memory) (gran : Nat) (as : List Nat) (h : m.wf = true) : (m.clearTags gran as).wf = true := by
  induction as generalizing m with
  | nil => exact h
  | cons a as ih => exact ih _ (m.wf_setTag _ _ h)

theorem wf_storeBytes (s : State) (as : List Nat) (bs : List Byte) (h : s.mem.wf = true) : (s.storeBytes as bs).mem.wf = true :=
  Memory.wf_clearTags _ _ _ (Memory.wf_writeList _ _ _ h)

theorem wf_writeCap (s : State) (a : Nat) (k : Cap) (h : s.mem.wf = true) : (s.writeCap a k).mem.wf = true :=
  Memory.wf_setTag _ _ _ (Memory.wf_writeList _ _ _ h)

theorem wf_putCap (s : State) (w : CapWrite) (h : s.mem.wf = true) : (s.putCap w).mem.wf = true := by
  unfold State.putCap
  cases w.cd with
  | none => exact wf_writeCap _ _ _ h
  | some x => exact wf_writeCap _ _ _ (wf_storeBytes _ _ _ h)

theorem reset_mem_wf : State.reset.mem.wf = true := by decide

/-- One byte read after one byte written. -/
theorem Memory.readByte_writeByte (m : Memory) (a b : Nat) (v : Byte) (h : m.wf = true) :
    (m.writeByte a v).readByte b = if b = a then v else m.readByte b :=
  readCells_writeCells _ _ _ _ ((m.wf_iff).1 h).1

@[simp] theorem Memory.readByte_setTag (m : Memory) (g : Nat) (t : Bool) (b : Nat) : (m.setTag g t).readByte b = m.readByte b := rfl
@[simp] theorem Memory.tagOf_writeByte (m : Memory) (a : Nat) (v : Byte) (g : Nat) : (m.writeByte a v).tagOf g = m.tagOf g := rfl

@[simp] theorem Memory.readByte_clearTags (m : Memory) (gran : Nat) (as : List Nat) (b : Nat) :
    (m.clearTags gran as).readByte b = m.readByte b := by
  induction as generalizing m with
  | nil => rfl
  | cons a as ih => exact ih _

@[simp] theorem Memory.tagOf_writeList (m : Memory) (as : List Nat) (bs : List Byte) (g : Nat) : (m.writeList as bs).tagOf g = m.tagOf g := by
  induction as generalizing m bs with
  | nil => cases bs <;> rfl
  | cons a as ih =>
    cases bs with
    | nil => rfl
    | cons b bs => exact ih _ _

/-- The tag of a granule after one tag is set or cleared. -/
theorem Memory.tagOf_setTag (m : Memory) (g x : Nat) (t : Bool) (h : m.wf = true) :
    (m.setTag g t).tagOf x = if x = g then t else m.tagOf x := by
  have hr := ((m.wf_iff).1 h).2
  unfold Memory.tagOf Memory.setTag
  cases t
  · by_cases hx : x = g
    · simp [hx, mem_removeTag _ _ _ hr]
    · have := mem_removeTag m.tags g x hr
      simp only [hx, if_false, Bool.false_eq_true]
      rw [Bool.eq_iff_iff, List.contains_iff_mem, List.contains_iff_mem, this]
      tauto
  · have := mem_insertTag m.tags g x
    by_cases hx : x = g
    · subst hx
      simp [this]
    · simp only [hx, if_false, if_true]
      rw [Bool.eq_iff_iff, List.contains_iff_mem, List.contains_iff_mem, this]
      tauto

theorem Memory.tagOf_clearTags (m : Memory) (gran : Nat) (as : List Nat) (g : Nat) (h : m.wf = true) :
    (m.clearTags gran as).tagOf g = (m.tagOf g && !as.any fun a => a / gran == g) := by
  induction as generalizing m with
  | nil => simp [Memory.clearTags]
  | cons a as ih =>
    rw [Memory.clearTags, ih _ (m.wf_setTag _ _ h), Memory.tagOf_setTag _ _ _ _ h]
    by_cases hg : g = a / gran
    · simp [hg]
    · rw [if_neg hg]
      have : (a / gran == g) = false := by simpa using fun e => hg e.symm
      simp [this]

/-- Bytes outside the list are unchanged. -/
theorem Memory.readByte_writeList_of_notMem (m : Memory) (as : List Nat) (bs : List Byte) (b : Nat) (h : m.wf = true) (hb : b ∉ as) :
    (m.writeList as bs).readByte b = m.readByte b := by
  induction as generalizing m bs with
  | nil => cases bs <;> rfl
  | cons a as ih =>
    cases bs with
    | nil => rfl
    | cons v bs =>
      simp only [List.mem_cons, not_or] at hb
      rw [Memory.writeList, ih _ _ (m.wf_writeByte _ _ h) hb.2, Memory.readByte_writeByte _ _ _ _ h, if_neg hb.1]

/-- Distinct addresses read back what was written to them. -/
theorem Memory.readList_writeList (m : Memory) (as : List Nat) (bs : List Byte) (h : m.wf = true) (hn : as.Nodup)
    (hl : as.length = bs.length) : (m.writeList as bs).readList as = bs := by
  induction as generalizing m bs with
  | nil => cases bs <;> simp_all [Memory.readList]
  | cons a as ih =>
    cases bs with
    | nil => simp at hl
    | cons v bs =>
      have hn' := List.nodup_cons.1 hn
      simp only [List.length_cons, Nat.add_right_cancel_iff] at hl
      have h' := m.wf_writeByte a v h
      have := ih (m.writeByte a v) bs h' hn'.2 hl
      simp only [Memory.readList, List.map_cons, Memory.writeList] at this ⊢
      rw [this, Memory.readByte_writeList_of_notMem _ _ _ _ h' hn'.1, Memory.readByte_writeByte _ _ _ _ h, if_pos rfl]

theorem span_length (a n : Nat) : (span a n).length = n := by simp [span]

theorem span_nodup (a n : Nat) : (span a n).Nodup :=
  List.Nodup.map (fun x y h => by simpa using h) List.nodup_range

theorem leBytes_length (n v : Nat) : (leBytes n v).length = n := by
  induction n generalizing v with
  | zero => rfl
  | succ n ih => simp [leBytes, ih]

/-- Reading bytes as a number undoes writing a number as bytes. -/
theorem leNat_leBytes (n v : Nat) : leNat (leBytes n v) = v % 256 ^ n := by
  induction n generalizing v with
  | zero => simp [leBytes, leNat, Nat.mod_one]
  | succ n ih =>
    have := Nat.mod_mul (x := v) (a := 256) (b := 256 ^ n)
    rw [leBytes, leNat, ih, BitVec.toNat_ofNat, show 256 ^ (n + 1) = 256 * 256 ^ n from Nat.pow_succ', this]

end Sys2Proof.Machine
end

