-- ==== Sys2Proof/Laws/Access.lean ====
section
/-!
SUPPORT. Laws/Access.lean: what translation, the checks of an access, and the stores can do, said once.
-/
namespace Sys2Proof.Machine
open Sys2Proof

/-! ## Translation keeps the place within a 4 KiB page -/

theorem useLeaf_page (s : State) (k : Acc) (q : Priv) (va : Word) (m : SvMode) (l : Leaf) (x : Phys) (h : s.useLeaf k q va m l = .ok x) :
    x.pa % 4096 = va.toNat % 4096 := by
  unfold State.useLeaf at h
  split at h
  · simp at h
  · simp only [Res.ok.injEq] at h
    subst h
    have : (2 ^ m.pageBits l.lvl) = 4096 * 2 ^ (l.lvl * m.vpnBits) := by rw [SvMode.pageBits, pow_add]; norm_num
    simp only [this, Nat.mul_comm _ 4096, Nat.mul_add_mod]
    rw [Nat.mod_mul_right_mod]

theorem translateAs_page (s : State) (q : Priv) (k : Acc) (va : Word) (x : Phys) (h : s.translateAs q k va = .ok x) :
    x.pa % 4096 = va.toNat % 4096 := by
  unfold State.translateAs at h
  split at h
  · simp only [Res.ok.injEq] at h
    subst h
    rfl
  · split at h
    · simp only [Res.bind_eq_ok] at h
      obtain ⟨l, _, h⟩ := h
      exact useLeaf_page _ _ _ _ _ _ _ h
    · simp at h

/-- The walk finds a leaf, or raises a page fault or an access fault at the address. -/
theorem walk_cases (s : State) (k : Acc) (va : Word) (m : SvMode) (lvl base : Nat) (g : Bool) :
    (∃ l, s.walk k va m lvl base g = .ok l) ∨ s.walk k va m lvl base g = .exc ⟨k.pageFault, va⟩ ∨
      s.walk k va m lvl base g = .exc ⟨k.accessFault, va⟩ := by
  induction lvl generalizing base g with
  | zero => exact .inr (.inl rfl)
  | succ lvl ih =>
    simp only [State.walk, pmaCheck, Res.check]
    split
    · simp only [Res.bind_ok]
      split
      · exact .inr (.inl rfl)
      · split
        · exact ih _ _
        · exact .inl ⟨_, rfl⟩
    · exact .inr (.inr rfl)

/-- With nothing cached for the page, the leaf is the one the walk finds. -/
theorem leafOf_of_uncached (s : State) (k : Acc) (va : Word) (m : SvMode) (root : Nat) (h : s.cachedLeaf m va = none) :
    s.leafOf k va m root = s.walk k va m m.levels root false := by
  simp [State.leafOf, h]

/-- Cutting an address to XLEN keeps its place within a page. -/
theorem eaOf_page (s : State) (a : Word) : (s.eaOf a).toNat % 4096 = a.toNat % 4096 := by
  unfold State.eaOf zext32
  split
  · rfl
  · simp only [BitVec.toNat_setWidth]
    omega

theorem translateBytes_page (s : State) (k : Acc) (ea : Word) (i n : Nat) (as : List Nat) (h : s.translateBytes k ea i n = .ok as) :
    as.length = n ∧ ∀ j (hj : j < as.length), as[j] % 4096 = (ea.toNat + i + j) % 4096 := by
  induction n generalizing i as with
  | zero =>
    simp only [State.translateBytes, Res.ok.injEq] at h
    subst h
    simp
  | succ n ih =>
    simp only [State.translateBytes, Res.bind_eq_ok, Res.reportAt_eq_ok] at h
    obtain ⟨x, hx, _, _, r, hr, h⟩ := h
    simp only [Res.ok.injEq] at h
    subst h
    obtain ⟨hl, hp⟩ := ih _ _ hr
    refine ⟨by simp [hl], ?_⟩
    intro j hj
    cases j with
    | zero =>
      have h1 := translateAs_page _ _ _ _ _ hx
      rw [eaOf_page, BitVec.toNat_add, BitVec.toNat_ofNat] at h1
      simp only [List.getElem_cons_zero]
      omega
    | succ j =>
      have h1 := hp j (by simpa using hj)
      have h2 : (x.pa :: r)[j + 1] % 4096 = (r[j]'(by simpa using hj)) % 4096 := rfl
      omega

theorem nodup_of_page (as : List Nat) (v : Nat) (hl : as.length ≤ 4096)
    (h : ∀ i (hi : i < as.length), as[i] % 4096 = (v + i) % 4096) : as.Nodup := by
  rw [List.nodup_iff_injective_get]
  intro i j hij
  have hi := h i i.2
  have hj := h j j.2
  simp only [List.get_eq_getElem] at hij
  rw [hij] at hi
  have h1 := i.2
  have h2 := j.2
  exact Fin.ext (by omega)

/-! ## The checks of an access -/

theorem checkData_eq_ok (s : State) (auth : Cap) (ea : Word) (n : Nat) (kind : Acc) (u : Unit) :
    s.checkData auth ea n kind = .ok u ↔ auth.tag = true ∧ auth.s s.cfg = false ∧
      ((kind = .load ∨ kind = .atomic) → (auth.perms s.cfg).r = true) ∧ ((kind = .store ∨ kind = .atomic) → (auth.perms s.cfg).w = true) ∧
      s.covers auth ea n = true := by
  unfold State.checkData
  cases auth.tag <;> cases auth.s s.cfg <;> cases (auth.perms s.cfg).r <;> cases (auth.perms s.cfg).w <;> cases s.covers auth ea n <;>
    cases kind <;> simp

/-- An access that does not reach past the end of the address space: `inBounds` is the whole check. -/
theorem covers_of_le (s : State) (auth : Cap) (ea : Word) (n : Nat) (h : ea.toNat + n ≤ s.spaceEnd) :
    s.covers auth ea n = auth.inBounds s.cfg ea n := by
  simp [State.covers, h]

theorem pmaCheck_eq_ok (p : Params) (kind : Acc) (va : Word) (as : List Nat) (u : Unit) :
    pmaCheck p kind va as = .ok u ↔ ∀ a ∈ as, Params.isMapped p a = true := by
  rw [pmaCheck, Res.check_eq_ok, List.all_eq_true]

theorem alignCheck_eq_ok (p : Params) (ea : Word) (n : Nat) (kind : Acc) (al : Align) (u : Unit) :
    alignCheck p ea n kind al = .ok u ↔ ea.toNat % n = 0 ∨ (al = .plain ∧ p.misalignedIntOk = true) := by
  unfold alignCheck
  split
  · simp_all
  · cases al <;> cases p.misalignedIntOk <;> simp_all

theorem dataPath_eq_ok (s : State) (auth : Cap) (ea : Word) (n : Nat) (kind : Acc) (al : Align) (x : Path) :
    s.dataPath auth ea n kind al = .ok x ↔ s.permits auth ea n kind ∧
      ((ea.toNat % n = 0 ∧ ∃ y, s.translate kind ea = .ok y ∧ x = ⟨span y.pa n, y.leaf⟩) ∨
        (ea.toNat % n ≠ 0 ∧ al = .plain ∧ s.cfg.misalignedIntOk = true ∧ ∃ as, s.translateBytes kind ea 0 n = .ok as ∧ x = ⟨as, none⟩)) := by
  simp only [State.dataPath, Res.bind_eq_ok, bpCheck_eq_ok, checkData_eq_ok, alignCheck_eq_ok, State.permits]
  by_cases ha : ea.toNat % n = 0
  · simp only [ha, true_or, if_true, Res.bind_eq_ok, Res.ok.injEq, true_and, ne_eq, not_true_eq_false, false_and, or_false]
    constructor
    · rintro ⟨_, hb, _, hc, _, y, hy, rfl⟩
      exact ⟨⟨hb, hc⟩, y, hy, rfl⟩
    · rintro ⟨⟨hb, hc⟩, y, hy, rfl⟩
      exact ⟨(), hb, (), hc, (), y, hy, rfl⟩
  · simp only [ha, false_or, if_false, Res.bind_eq_ok, Res.ok.injEq, false_and, ne_eq, not_false_eq_true, true_and]
    constructor
    · rintro ⟨_, hb, _, hc, _, ⟨hal, hm⟩, as, has, rfl⟩
      exact ⟨⟨hb, hc⟩, hal, hm, as, has, rfl⟩
    · rintro ⟨⟨hb, hc⟩, hal, hm, as, has, rfl⟩
      exact ⟨(), hb, (), hc, (), ⟨hal, hm⟩, as, has, rfl⟩

/-- An access completes exactly when it is permitted, located and not to vacant bytes. -/
theorem dataAccess_eq_ok (s : State) (auth : Cap) (ea : Word) (n : Nat) (kind : Acc) (al : Align) (as : List Nat) :
    s.dataAccess auth ea n kind al = .ok as ↔ s.canAccess auth ea n kind al as := by
  simp only [State.dataAccess, Res.bind_eq_ok, dataPath_eq_ok, pmaCheck_eq_ok, State.canAccess, State.located]
  constructor
  · rintro ⟨x, ⟨hp, hx⟩, _, hm, h⟩
    simp only [Res.ok.injEq] at h
    subst h
    refine ⟨hp, ?_, hm⟩
    rcases hx with ⟨ha, y, hy, rfl⟩ | ⟨ha, hal, hmo, as, has, rfl⟩
    · exact .inl ⟨ha, y, hy, rfl⟩
    · exact .inr ⟨ha, hal, hmo, has⟩
  · rintro ⟨hp, ⟨ha, y, hy, rfl⟩ | ⟨ha, hal, hmo, has⟩, hm⟩
    · exact ⟨⟨_, y.leaf⟩, ⟨hp, .inl ⟨ha, y, hy, rfl⟩⟩, (), hm, rfl⟩
    · exact ⟨⟨as, none⟩, ⟨hp, .inr ⟨ha, hal, hmo, as, has, rfl⟩⟩, (), hm, rfl⟩

/-- The bytes of an access are distinct, one for each byte of its width. -/
theorem canAccess_bytes (s : State) (auth : Cap) (ea : Word) (n : Nat) (kind : Acc) (al : Align) (as : List Nat) (hn : n ≤ 4096)
    (h : s.canAccess auth ea n kind al as) : as.length = n ∧ as.Nodup := by
  rcases h.2.1 with ⟨_, x, _, rfl⟩ | ⟨_, _, _, h⟩
  · exact ⟨span_length _ _, span_nodup _ _⟩
  · obtain ⟨hl, hp⟩ := translateBytes_page _ _ _ _ _ _ h
    exact ⟨hl, nodup_of_page _ ea.toNat (by omega) fun i hi => by simpa using hp i hi⟩

/-! ## The stores -/

/-- What a store of integer data does. -/
theorem storedAt_storeBytes (s : State) (as : List Nat) (bs : List Byte) (h : s.mem.wf = true) (hn : as.Nodup)
    (hl : as.length = bs.length) : s.storedAt (s.storeBytes as bs) as bs := by
  refine ⟨?_, ?_, ?_, rfl⟩
  · have := Memory.readList_writeList s.mem as bs h hn hl
    have e : (s.storeBytes as bs).mem.readByte = (s.mem.writeList as bs).readByte := funext fun a => Memory.readByte_clearTags _ _ _ _
    unfold Memory.readList at this ⊢
    rw [e, this]
  · intro a ha
    simpa [State.storeBytes] using Memory.readByte_writeList_of_notMem s.mem as bs a h ha
  · intro g
    simp only [State.storeBytes]
    rw [Memory.tagOf_clearTags _ _ _ _ (Memory.wf_writeList _ _ _ h), Memory.tagOf_writeList]

theorem capToBytes_length (p : Params) (k : Cap) : (capToBytes p k).length = p.capBytes := by
  simp only [capToBytes, List.length_append, leBytes_length, Params.capBytes]
  split <;> rfl

/-- What a capability-wide store does. -/
theorem capStoredAt_writeCap (s : State) (a : Nat) (k : Cap) (h : s.mem.wf = true) : s.capStoredAt (s.writeCap a k) a k := by
  have hw := Memory.wf_writeList s.mem (span a s.cfg.capBytes) (capToBytes s.cfg k) h
  refine ⟨?_, ?_, ?_, rfl⟩
  · have := Memory.readList_writeList s.mem (span a s.cfg.capBytes) (capToBytes s.cfg k) h (span_nodup _ _)
      (by rw [span_length, capToBytes_length])
    exact this
  · intro b hb
    simpa [State.writeCap] using Memory.readByte_writeList_of_notMem s.mem _ (capToBytes s.cfg k) b h hb
  · intro g
    simp only [State.writeCap]
    rw [Memory.tagOf_setTag _ _ _ _ hw, Memory.tagOf_writeList]

/-- A capability whose fields fit XLENMAX bits comes back from its bytes (20_memory R100). -/
theorem bytesToCap_capToBytes (p : Params) (k : Cap) (hm : truncX p k.md = k.md) (ha : truncX p k.addr = k.addr) :
    bytesToCap p k.tag (capToBytes p k) = k := by
  have hl : (leBytes (p.capBytes / 2) k.addr.toNat).length = p.capBytes / 2 := leBytes_length _ _
  have key : ∀ w : Word, truncX p w = w → BitVec.ofNat 64 (leNat (leBytes (p.capBytes / 2) w.toNat)) = w := by
    intro w hw
    rw [leNat_leBytes]
    apply BitVec.eq_of_toNat_eq
    rw [BitVec.toNat_ofNat]
    unfold truncX at hw
    unfold Params.capBytes
    have hlt := w.isLt
    cases hx : p.xlenmax64
    · rw [hx] at hw
      have := congrArg BitVec.toNat hw
      simp at this
      norm_num
      omega
    · norm_num
      omega
  simp only [bytesToCap, capToBytes]
  rw [List.take_left' hl, List.drop_left' hl, key _ hm, key _ ha]

/-! ## Exceptions -/

/-- Everything taking an exception can do (60_exceptions R372, R396). -/
theorem takeException_cases (s : State) (e : Exc) :
    (s.debug = true ∧ takeException s e = { s with progBuf := [], cmdErr := true }) ∨
    (s.debug = false ∧ s.delegated e.code = true ∧ takeException s e = s.trapS false e.code e.tval) ∨
    (s.debug = false ∧ s.delegated e.code = false ∧ takeException s e = s.trapM false e.code e.tval) := by
  unfold takeException
  cases s.debug <;> cases s.delegated e.code <;> simp

@[simp] theorem takeException_mem (s : State) (e : Exc) : (takeException s e).mem = s.mem := by
  rcases takeException_cases s e with ⟨_, h⟩ | ⟨_, _, h⟩ | ⟨_, _, h⟩ <;> rw [h] <;> rfl
@[simp] theorem takeException_cfg (s : State) (e : Exc) : (takeException s e).cfg = s.cfg := by
  rcases takeException_cases s e with ⟨_, h⟩ | ⟨_, _, h⟩ | ⟨_, _, h⟩ <;> rw [h] <;> rfl
@[simp] theorem takeException_regs (s : State) (e : Exc) : (takeException s e).regs = s.regs := by
  rcases takeException_cases s e with ⟨_, h⟩ | ⟨_, _, h⟩ | ⟨_, _, h⟩ <;> rw [h] <;> rfl

end Sys2Proof.Machine
end

