-- ==== Sys2Proof/Laws/Checks.lean ====
section
/-!
SUPPORT. Laws/Checks.lean: what the checks of jumps, CSR accesses and capability stores can do, said once; the bits of a word with one bit, or a masked part,
replaced; what SFENCE.VMA leaves cached, and what a floating-point computation does.
-/
namespace Sys2Proof.Machine
open Sys2Proof

/-! ## Bits -/

theorem getLsbD_putBit (v : Word) (i j : Nat) (b : Bool) (hi : i < 64) :
    (putBit v i b).getLsbD j = if j = i then b else v.getLsbD j := by
  unfold putBit
  cases b <;> simp [BitVec.getLsbD_and, BitVec.getLsbD_or, BitVec.getLsbD_not, BitVec.getLsbD_shiftLeft] <;> grind

theorem getLsbD_putMask (v m n : Word) (j : Nat) : (putMask v m n).getLsbD j = if m.getLsbD j then n.getLsbD j else v.getLsbD j := by
  unfold putMask
  simp [BitVec.getLsbD_and, BitVec.getLsbD_or, BitVec.getLsbD_not]
  by_cases h : j < 64
  · cases m.getLsbD j <;> simp [h]
  · simp [BitVec.getLsbD_of_ge _ j (by omega : 64 ≤ j)]

theorem sext32_sext32 (v : Word) : sext32 (sext32 v) = sext32 v := by
  unfold sext32
  rw [show ((v.setWidth 32).signExtend 64).setWidth 32 = v.setWidth 32 by
    ext i hi
    simp [BitVec.getLsbD_signExtend, hi]
    omega]

theorem toX_toX (s : State) (v : Word) : s.toX (s.toX v) = s.toX v := by
  have low : sext32 ((v.setWidth 32).setWidth 64) = sext32 v := by
    unfold sext32
    congr 1
    ext i hi
    simp
  have low2 : ((sext32 v).setWidth 32).setWidth 64 = (v.setWidth 32).setWidth 64 := by
    unfold sext32
    ext i hi
    by_cases h : i < 32 <;> simp [BitVec.getElem_signExtend, h, hi]
  unfold State.toX truncX
  cases s.cur64 <;> cases s.cfg.xlenmax64 <;> simp [sext32_sext32, low, low2]

/-- A check that raises, and goes on otherwise. -/
theorem ite_exc_eq_ok {α : Type} (c : Prop) [Decidable c] (e : Exc) (x : Res α) (a : α) :
    (if c then .exc e else x) = .ok a ↔ ¬c ∧ x = .ok a := by
  split <;> simp [*]

/-! ## Jumps -/

theorem pcrelCheck_eq_ok (s : State) (u : Unit) : s.pcrelCheck = .ok u ↔ (s.debug = false ∨ s.cfg.debugPcrelIllegal = false) := by
  simp only [State.pcrelCheck, Res.check_eq_ok]
  cases s.debug <;> simp

/-- A direct target is allowed when it is aligned and a smallest instruction there is in pcc's bounds. -/
theorem checkTarget_eq_ok (s : State) (t : Word) (u : Unit) :
    s.checkTarget t = .ok u ↔ t.toNat % s.minLen = 0 ∧ (s.debug = true ∨ s.pcc.inBounds s.cfg t s.minLen = true) := by
  simp [State.checkTarget, State.targetAlign, State.targetInPcc, Res.bind_eq_ok, Res.check_eq_ok]

/-- A capability can be jumped through when the target is aligned, it is tagged, unsealed or without offset, executable, and the target in its bounds. -/
theorem checkJumpCap_eq_ok (s : State) (k : Cap) (off : Word) (u : Unit) :
    s.checkJumpCap k off = .ok u ↔ (s.indirectTarget k.addr off).toNat % s.minLen = 0 ∧ k.tag = true ∧ (k.s s.cfg = false ∨ off = 0) ∧
      (k.perms s.cfg).x = true ∧ k.inBounds s.cfg (s.indirectTarget k.addr off) s.minLen = true := by
  simp only [State.checkJumpCap, State.targetAlign, Res.bind_eq_ok, Res.check_eq_ok, decide_eq_true_eq, ite_exc_eq_ok]
  cases k.tag <;> cases k.s s.cfg <;> cases (k.perms s.cfg).x <;>
    cases k.inBounds s.cfg (s.indirectTarget k.addr off) s.minLen <;> simp

/-! ## CSRs -/

/-- A CSR access passes exactly when the number names the register and each condition holds (45_csr R262). -/
theorem csrCheck_eq_ok (s : State) (n : BitVec 12) (w : Bool) (r : CsrRef) :
    s.csrCheck n w = .ok r ↔ s.csrRef n = some r ∧ n.toNat / 256 % 4 ≤ s.privNum ∧ (n.toNat / 16 = 0x7b → s.debug = true) ∧
      (w = true → n.toNat / 1024 ≠ 3) ∧ (s.cheriRegsDisabled = true → ∀ c, r ≠ .wide c) ∧ s.csrBaseOk n r = true ∧
      (n.toNat / 256 % 4 ≠ 0 → s.asrOk = true) := by
  unfold State.csrCheck
  cases hr : s.csrRef n with
  | none => simp
  | some q =>
    simp only [ite_exc_eq_ok, Option.some.injEq, Res.ok.injEq]
    constructor
    · rintro ⟨h1, h2, h3, h4, h5, h6, rfl⟩
      refine ⟨rfl, by omega, ?_, ?_, ?_, ?_, ?_⟩
      · simpa using h2
      · simpa using h3
      · intro hd c hc
        simp [hd, hc] at h4
      · simpa using h5
      · simpa using h6
    · rintro ⟨rfl, h1, h2, h3, h4, h5, h6⟩
      refine ⟨by omega, by simpa using h2, by simpa using h3, ?_, by simpa using h5, by simpa using h6, rfl⟩
      cases q <;> simp
      exact Bool.eq_false_iff.2 fun h => h4 h _ rfl

/-! ## Capability stores -/

/-- A capability store that can be made passes every check; what is stored is `storedCap`, and no page entry changes. -/
theorem capWritePath_of_canStoreCap (s : State) (auth : Cap) (ea : Word) (v : Cap) (kind : Acc) (pa : Nat)
    (h : s.canStoreCap auth ea v kind pa) : s.capWritePath auth ea v kind = .ok ⟨pa, s.storedCap auth pa v, none⟩ := by
  obtain ⟨hp, hal, ⟨x, hx, rfl, hq⟩, hm, ht⟩ := h
  have hn : 0 < s.cfg.capBytes := by unfold Params.capBytes; split <;> omega
  have hpath : s.dataPath auth ea s.cfg.capBytes kind .strict = .ok ⟨span x.pa s.cfg.capBytes, x.leaf⟩ := by
    rw [dataPath_eq_ok]
    exact ⟨hp, Or.inl ⟨hal, x, hx, rfl⟩⟩
  have hfirst : firstByte (span x.pa s.cfg.capBytes) = x.pa := by
    obtain ⟨m, hm⟩ := Nat.exists_eq_succ_of_ne_zero (Nat.pos_iff_ne_zero.1 hn)
    simp [hm, span, firstByte, List.range_succ_eq_map]
  have hcw : s.cwRule auth ea x.leaf (v.keepTag (grantsWC s.cfg auth)) = .ok (v.keepTag (grantsWC s.cfg auth), none) := by
    unfold State.cwRule
    rcases hq with h | h | ⟨a, pte, h, h59, hq⟩
    · cases x.leaf <;> simp [h]
    · simp [h]
    · simp only [h]
      cases s.cwPages
      · simp
      · simp only [if_true, State.cwCd, h59, Bool.not_true, Bool.false_eq_true, if_false]
        have : (s.cde && !pte.getLsbD 60 && grantsWC s.cfg auth && (v.keepTag (grantsWC s.cfg auth)).tag) = false := by
          rcases hq with h | h | h
          · rw [h]; rfl
          · rw [h]; simp
          · cases hw : (auth.perms s.cfg).w <;> cases hc : (auth.perms s.cfg).c <;> cases ht : v.tag <;>
              simp [hw, hc, ht, grantsWC, Cap.keepTag] at h ⊢
        rw [this]
        rfl
  have hcur : s.currentPath auth ea (v.keepTag (grantsWC s.cfg auth)) kind ⟨span x.pa s.cfg.capBytes, x.leaf⟩ =
      .ok ⟨span x.pa s.cfg.capBytes, x.leaf⟩ := by
    simp [State.currentPath, State.setsCd, hcw]
  unfold State.capWritePath State.capWriteChecked
  simp only [hpath, Res.bind_ok, hcur, hcw, (pmaCheck_eq_ok _ _ _ _ ()).2 hm, hfirst, State.tagRule]
  rcases ht with h | h | h
  · cases h1 : Params.isTaggable s.cfg x.pa <;> cases h2 : (v.keepTag (grantsWC s.cfg auth)).tag <;>
      simp_all [State.storedCap, Cap.keepTag, grantsWC, Bool.and_assoc]
  · simp [h, State.storedCap, Cap.keepTag, grantsWC, Bool.and_assoc]
  · cases hw : (auth.perms s.cfg).w <;> cases hc : (auth.perms s.cfg).c <;> cases ht : v.tag <;>
      simp [hw, hc, ht, grantsWC, Cap.keepTag, State.storedCap] at h ⊢

/-! ## Cached translations and floating-point computation -/

/-- What SFENCE.VMA leaves cached. -/
theorem mem_flush_tlb (s : State) (rs1 rs2 : Reg) (c : CachedLeaf) : c ∈ (s.flush rs1 rs2).tlb ↔ c ∈ s.tlb ∧ s.survives rs1 rs2 c = true := by
  simp [State.flush, List.mem_filter]

/-- What a floating-point computation that completes does: with FS on and a rounding mode, its one register, the flags, pcc. -/
theorem fpCompute_eq_ok (s : State) (i : FpInstr) (t : State) :
    s.fpCompute i = .ok t ↔ s.fsOff = false ∧
      ∃ rm, (if i.op.rounds then s.rounding i.rm else some .nearestEven) = some rm ∧
        t = if i.op.toX then ((s.wx i.rd (s.fpXResult i rm).1).accrue (s.fpXResult i rm).2).advance 4
          else (((s.wf i.rd (nanBox s.cfg i.fmt.bytes (BitVec.ofNat 64 (s.fpResult i rm).bits))).fsDirty).accrue (s.fpResult i rm).flags).advance 4 := by
  unfold State.fpCompute
  cases s.fsOff
  · cases (if i.op.rounds then s.rounding i.rm else some .nearestEven) with
    | none => simp [Res.check, Res.bind]
    | some rm => cases i.op.toX <;> simp [Res.check, Res.bind, eq_comm]
  · simp [Res.check, Res.bind]

end Sys2Proof.Machine
end

