-- ==== Sys2Proof/Laws/Caps.lean ====
section
/-!
SUPPORT. Laws/Caps.lean: which capabilities are lawful (10_state R34), said once for each operation that makes one; what a register of few address bits holds;
what an instruction's outcome and a debugger's command can do.
-/
namespace Sys2Proof.Machine
open Sys2Proof

/-! ## Lawful capabilities -/

@[simp] theorem truncX_truncX (p : Params) (v : Word) : truncX p (truncX p v) = truncX p v := by
  unfold truncX
  split
  · rfl
  · ext i hi
    by_cases h : i < 32 <;> simp [h]

@[simp] theorem truncX_toX (s : State) (v : Word) : truncX s.cfg (s.toX v) = s.toX v := by
  unfold State.toX
  simp

@[simp] theorem truncX_zero (p : Params) : truncX p 0 = 0 := by unfold truncX; split <;> rfl

/-- An untagged capability is lawful when its fields fit. -/
theorem lawful_untagged (p : Params) (md a : Word) (hm : truncX p md = md) (ha : truncX p a = a) : (Cap.mk false md a).lawful p = true := by
  simp [Cap.lawful, hm, ha]

/-- An integer in a register is. -/
theorem lawful_intCap (s : State) (v : Word) : (s.intCap v).lawful s.cfg = true := lawful_untagged _ _ _ (truncX_zero _) (truncX_toX s v)

/-- Lawfulness asks nothing of the address but that it fits, and nothing new of a capability that only loses its tag. -/
theorem lawful_withAddr (p : Params) (k : Cap) (t : Bool) (a : Word) (h : k.lawful p = true) (ht : t = true → k.tag = true) (ha : truncX p a = a) :
    (Cap.mk t k.md a).lawful p = true := by
  simp only [Cap.lawful, Cap.malformed, Cap.ef, Cap.expField, Cap.bMant, Cap.ap, Cap.t8, Cap.te, Cap.be, Cap.bmid, Bool.and_eq_true, beq_iff_eq, Bool.or_eq_true, Bool.not_eq_true'] at h ⊢
  refine ⟨⟨h.1.1, ha⟩, ?_⟩
  cases t with
  | false => exact .inl rfl
  | true => exact .inr (h.2.resolve_left (by simp [ht rfl]))

theorem lawful_setAddr (p : Params) (k : Cap) (a : Word) (h : k.lawful p = true) (ha : truncX p a = a) : (k.setAddr p a).lawful p = true :=
  lawful_withAddr p k _ a h (fun e => by simp [Bool.and_eq_true] at e; exact e.1.1) ha

theorem lawful_keepTag (p : Params) (k : Cap) (b : Bool) (h : k.lawful p = true) : (k.keepTag b).lawful p = true :=
  lawful_withAddr p k _ k.addr h (fun e => by simp [Bool.and_eq_true] at e; exact e.1)
    (by simp only [Cap.lawful, Bool.and_eq_true, beq_iff_eq] at h; exact h.1.2)

/-! ## Registers of few address bits (11_csrs R93) -/

/-- The bits below the stored width stay, and the low six bits of the address survive its conversion. -/
theorem getLsbD_sextFrom (w j : Nat) (v : Word) (hw : w ≤ 64) (hj : j < w) : (sextFrom w v).getLsbD j = v.getLsbD j := by
  unfold sextFrom
  rw [BitVec.getLsbD_sshiftRight, BitVec.getLsbD_shiftLeft]
  have h1 : j < 64 := by omega
  simp [show ¬64 ≤ j by omega, show 64 - w + j < 64 by omega]

theorem heldAddr_low (p : Params) (r : AddrReg) (a : Word) (j : Nat) (hj : j < 6) : (Params.heldAddr p r a).getLsbD j = a.getLsbD j := by
  unfold Params.heldAddr
  split
  · rfl
  · next h =>
    have hw : Params.widthOf p r < 64 := by
      simp only [Params.holds, Bool.or_eq_true, decide_eq_true_eq, not_or] at h
      omega
    have h40 : 40 ≤ Params.widthOf p r := by
      unfold Params.widthOf at hw ⊢
      split <;> omega
    unfold Params.converted
    rw [getLsbD_sextFrom _ _ _ (by omega) (by omega), getLsbD_putBit _ _ _ _ (by omega), if_neg (by omega), getLsbD_putMask]
    have : (63 : Word).getLsbD j = true := by
      have : j = 0 ∨ j = 1 ∨ j = 2 ∨ j = 3 ∨ j = 4 ∨ j = 5 := by omega
      rcases this with h | h | h | h | h | h <;> subst h <;> rfl
    rw [if_pos this]

/-- An even address stays even. -/
theorem even_hold (p : Params) (r : AddrReg) (k : Cap) (h : k.even = true) : (Cap.hold p r k).even = true := by
  have : (Cap.hold p r k).addr = Params.heldAddr p r k.addr := by
    unfold Cap.hold Params.heldAddr
    split <;> rfl
  unfold Cap.even at h ⊢
  rwa [this, heldAddr_low p r k.addr 0 (by omega)]

/-! ## Outcomes -/

/-- What an instruction's outcome makes of a state: the value, the exception taken, or debug mode entered by a trigger. -/
theorem run_cases (s : State) (r : Res State) :
    ∃ t, Res.run s r = .next t ∧ (r = .ok t ∨ (∃ e, r = .exc e ∧ t = takeException s e) ∨ (r = .halt ∧ t = s.enterDebug 2)) := by
  cases r with
  | ok t => exact ⟨t, rfl, .inl rfl⟩
  | exc e => exact ⟨_, rfl, .inr (.inl ⟨e, rfl, rfl⟩)⟩
  | halt => exact ⟨_, rfl, .inr (.inr ⟨rfl, rfl⟩)⟩

/-- A command of the debugger is used up, whatever it does. -/
theorem runCommand_cases (s : State) (c : DebugCmd) :
    s.runCommand c = { s with command := none } ∨ s.runCommand c = { s with command := none, cmdErr := true } ∨
      ∃ t, s.transfer c = .ok t ∧ s.runCommand c = { t with command := none, progBuf := c.postexec } := by
  unfold State.runCommand
  split
  · exact .inl rfl
  · split
    · next t h => exact .inr (.inr ⟨t, h, rfl⟩)
    · exact .inr (.inl rfl)

end Sys2Proof.Machine
end

