-- ==== Sys2Proof/Tests/Slice0.lean ====
section
/-!
SUPPORT. Tests/Slice0.lean: the smoke test of WellFormed, words written out from the spec's encodings, the vectors of 95_test_vectors run for one step each, and
for every statement with hypotheses a state that meets them. Words and expected values come from the spec's examples, tables and field layouts.
-/
namespace Sys2Proof.Tests
open Sys2Proof Sys2Proof.Machine

set_option Elab.async false

/-! ## Helpers -/

def cap64Ctx : Ctx := { tableCtx with cap := true }
def cap32Ctx : Ctx := ⟨{ xlenmax64 := false }, true, false, true⟩
def legacy32Ctx : Ctx := ⟨{ xlenmax64 := false }, false, false, true⟩
/-- RV64 without Zcmp and Zcmt, where the floating-point forms of their code points exist. -/
def fp64Ctx : Ctx := { tableCtx with cfg := { hasZcmp := false, hasZcmt := false } }
def embCtx : Ctx := { tableCtx with cfg := { hasE := true } }

/-- A number as the one or two parcels it is an encoding of. -/
def encOf (w : Nat) : Enc := if w % 4 = 3 then .word (BitVec.ofNat 32 w) else .half (BitVec.ofNat 16 w)
/-- Every word of the list decodes to its instruction; none of the list decodes. -/
def decodesTo (c : Ctx) (l : List (Nat × Instr)) : Bool := l.all fun x => match decodeEnc c (encOf x.1) with
  | .ok i => i == x.2
  | .error _ => false
def decodesNone (c : Ctx) (l : List Nat) : Bool := l.all fun w => match decodeEnc c (encOf w) with
  | .ok _ => false
  | .error _ => true

def cap (t : Bool) (m a : Nat) : Cap := ⟨t, BitVec.ofNat 64 m, BitVec.ofNat 64 a⟩
def int (a : Nat) : Cap := cap false 0 a
def inf64 (a : Nat) : Cap := cap true 0x01FF000000000000 a
def inf32 (a : Nat) : Cap := cap true 0xFC000000 a
/-- R, W and C on 32 bytes at 0x80010000, the capability A of 95_test_vectors 2.7. -/
def capA : Cap := cap true 0x0007000004080000 0x80010000

def regs (s : State) (l : List (Nat × Cap)) : State := l.foldl (fun s x => s.wc (BitVec.ofNat 5 x.1) x.2) s
def bytes (s : State) (a n v : Nat) : State := { s with mem := s.mem.writeList (span a n) (leBytes n v) }
def tagAt (s : State) (a : Nat) : State := { s with mem := s.mem.setTag (a / s.cfg.capBytes) true }
def pccAt (s : State) (k : Cap) : State := { s with pcc := k }

/-- RV64 and RV32 after reset, in Legacy mode; and with mseccfg.CME and pcc.M set, in Capability mode. -/
def leg64 : State := State.reset
def leg32 : State := State.resetWith { xlenmax64 := false }
def withCme (s : State) (pcc : Cap) : State := { s with pcc := pcc, csr := { s.csr with mseccfg := 8 } }
def cap64 : State := withCme leg64 (cap true 0x01FF800000000000 0x80000000)
def cap32 : State := withCme leg32 (cap true 0xFE000000 0x80000000)
/-- User mode with CRE and CME granted, and the machine's authority over all memory left in pcc and ddc. -/
def user64 : State := { leg64 with priv := .user }
def sup64 : State := { leg64 with priv := .supervisor }
def debug64 : State := { leg64 with debug := true }

def after (o : Host.Outcome State Fault Refusal) (f : State → Bool) : Bool := match o with
  | .next t => f t
  | _ => false
/-- The state after the instruction a word stands for. -/
def on (s : State) (w : Nat) (f : State → Bool) : Bool := match decodeEnc s.ctx (encOf w) with
  | .ok i => after (exec i s) f
  | .error _ => false
/-- The trap into M-mode with a cause and a value, everything else it must save, and nothing else of the state changed. -/
def traps (s : State) (w code tval : Nat) : Bool := on s w fun t =>
  t.csr.mcause == BitVec.ofNat 64 code && t.csr.mtval == BitVec.ofNat 64 tval && t.csr.mepcc == s.pcc && t.priv == .machine &&
    t.pcc == s.csr.mtvecc && t.regs == s.regs && t.mem == s.mem
/-- The register 6 after the word. -/
def gives6 (s : State) (w : Nat) (k : Cap) : Bool := on s w fun t => t.rc 6 == k && t.pc == s.pc + (if w % 4 = 3 then 4 else 2)
def pcIs (s : State) (w a : Nat) : Bool := on s w fun t => t.pcc == { s.pcc with addr := BitVec.ofNat 64 a }
def memIs (t : State) (a n v : Nat) : Bool := t.mem.readList (span a n) == leBytes n v

/-! ## Well-formedness: each check refuses an ill-formed term -/

def refuses (c : Ctx) (l : List Instr) : Bool := l.all fun i => !wellFormed c i

theorem test_wellformed_registers : refuses embCtx [.gctag 16 5, .gctag 5 16, .sceq 5 5 16, .cadd 16 5 6, .caddi 5 16 0, .lc 5 16 0, .sc 16 5 0, .jalr 5 16 0,
  .scbndsi 16 5 false 1, .auipc 16 0, .jal 16 0, .beq 16 5 0, .lb 16 5 0, .sb 5 16 0, .lui .std 16 1, .addi .std 16 5 0, .slli .std 16 5 1, .slli .uw 5 16 1,
  .srli .std 5 16 1, .add .uw 5 5 16, .sub .std 16 5 5, .sll 5 5 16, .slliw 16 5 1, .fence 16 0 0, .sfenceVma 0 16, .amoaddW 5 5 16 false false,
  .lrW 5 16 false false, .scC 16 5 5 false false, .csrrw 5 16 0x340, .csrrwi 16 5 0x340, .flw 0 16 0, .cMv 16 5, .cMv 5 16, .cJr 16, .cLwsp 16 0,
  .cSwsp 16 0, .addi .comp 16 16 1, .add .comp 16 16 5, .cboZero 16, .prefetchR 16 0, .sh1add 5 5 16] = true := by decide +kernel
theorem test_wellformed_lists : refuses embCtx [.cmPush 7 0, .cmPop 15 0, .cmMvsa01 2 0, .cmMva01s 0 2] = true ∧
  refuses tableCtx [.cmPush 3 0, .cmPop 0 0, .cmPopret 3 0, .cmPopretz 2 0, .cmMvsa01 1 1, .cmJt 32, .cmJalt 31] = true := by decide +kernel
theorem test_wellformed_nonzero : refuses tableCtx [.cadd 5 6 0, .lui .comp 0 0, .lui .comp 2 1, .addi .comp 5 5 0, .addiw .comp 0 0 1, .slli .comp 0 0 1,
  .slli .comp 5 5 0, .srli .comp 8 8 0, .srai .comp 8 8 0, .add .comp 5 5 0, .cMv 0 5, .cMv 5 0, .cAddi16sp 0, .cAddi4spn 0 0, .cJalr 0, .cJr 0, .cLwsp 0 1,
  .cLdsp 0 1, .cLcsp 0 1] = true := by decide +kernel
theorem test_wellformed_shapes : refuses tableCtx [.lui .comp 5 0x00020, .addi .comp 5 6 1, .addi .comp 5 5 0x020, .xori .comp 8 8 1, .xori .comp 16 16 0xFFF,
  .andi .comp 8 8 0x020, .andi .comp 8 9 1, .addiw .comp 5 6 1, .slli .comp 5 6 1, .slli .compUw 8 8 1, .srli .comp 7 7 1, .srai .comp 8 9 1, .add .comp 5 6 7,
  .add .compUw 8 8 1, .add .compUw 8 9 0, .sub .comp 8 9 10, .xor .comp 7 7 8, .or .comp 8 8 16, .and .comp 16 16 8, .addw .comp 8 9 8, .subw .comp 8 8 7] = true
  := by decide +kernel
theorem test_wellformed_shift32 : refuses legacy32Ctx [.slli .std 5 5 32, .srli .std 5 5 32, .srai .std 5 5 63, .slli .comp 5 5 32, .srli .comp 8 8 32,
  .srai .comp 8 8 32] = true := by decide +kernel

/-! ## Words written out from the encodings -/

/-- R161 to R168. -/
theorem test_decodes_cap_inspect : decodesTo tableCtx [
  (0x10028333, .gctag 6 5), (0x10128333, .gcperm 6 5), (0x10428333, .gchi 6 5), (0x10528333, .gcbase 6 5), (0x10628333, .gclen 6 5),
  (0x10728333, .cram 6 5), (0x0C72C333, .sceq 6 5 7), (0x0C72E333, .scss 6 5 7)] = true := by decide +kernel
/-- R171 to R184. -/
theorem test_decodes_cap_manipulate : decodesTo tableCtx [
  (0x0C028333, .cmv 6 5), (0x0C728333, .cadd 6 5 7), (0xF802A31B, .caddi 6 5 0xF80), (0x0C729333, .scaddr 6 5 7), (0x0C72A333, .acperm 6 5 7),
  (0x0C72B333, .schi 6 5 7), (0x10828333, .sentry 6 5), (0x0C72D333, .cbld 6 5 7), (0x0E728333, .scbnds 6 5 7), (0x0622D313, .scbndsi 6 5 true 2),
  (0x0502D313, .scbndsi 6 5 false 16), (0x0E729333, .scbndsr 6 5 7), (0x0C72F333, .scmode 6 5 7), (0x12001033, .modesw)] = true := by decide +kernel
/-- R191, R192. -/
theorem test_decodes_cap_load_store : decodesTo tableCtx [
  (0x0102C30F, .lc 6 5 16), (0xFF02C30F, .lc 6 5 0xFF0), (0x0072C823, .sc 7 5 16), (0xFE72C823, .sc 7 5 0xFF0)] = true := by decide +kernel
/-- R201 to R212, R228 to R230. -/
theorem test_decodes_control : decodesTo tableCtx [
  (0xFFFFF297, .auipc 5 0xFFFFF), (0xFF9FF06F, .jal 0 0xFFFFC), (0x344120EF, .jal 1 0x91A2), (0x004280E7, .jalr 1 5 4), (0x000290E7, .jalrMode 1 5),
  (0x00628463, .beq 5 6 4), (0x00629463, .bne 5 6 4), (0x0062C463, .blt 5 6 4), (0x0062D463, .bge 5 6 4), (0x0062E463, .bltu 5 6 4),
  (0x0062F463, .bgeu 5 6 4), (0xFE629EE3, .bne 5 6 0xFFE), (0x2A62F5E3, .bgeu 5 6 0x555), (0x30200073, .mret), (0x10200073, .sret),
  (0x7B200073, .dret)] = true := by decide +kernel
/-- R216 to R227, R276 to R282. -/
theorem test_decodes_load_store : decodesTo tableCtx [
  (0xFFC28303, .lb 6 5 0xFFC), (0xFFC29303, .lh 6 5 0xFFC), (0xFFC2A303, .lw 6 5 0xFFC), (0xFFC2B303, .ld 6 5 0xFFC), (0xFFC2C303, .lbu 6 5 0xFFC),
  (0xFFC2D303, .lhu 6 5 0xFFC), (0xFFC2E303, .lwu 6 5 0xFFC), (0xFE728EA3, .sb 7 5 0xFFD), (0xFE729EA3, .sh 7 5 0xFFD), (0xFE72AEA3, .sw 7 5 0xFFD),
  (0xFE72BEA3, .sd 7 5 0xFFD), (0x00829307, .flh 6 5 8), (0x0082A307, .flw 6 5 8), (0x0082B307, .fld 6 5 8), (0x00729427, .fsh 7 5 8),
  (0x0072A427, .fsw 7 5 8), (0x0072B427, .fsd 7 5 8)] = true := by decide +kernel
/-- R231, R354. -/
theorem test_decodes_integer : decodesTo tableCtx [
  (0x12345337, .lui .std 6 0x12345), (0xFFE28313, .addi .std 6 5 0xFFE), (0xFFE2A313, .slti 6 5 0xFFE), (0xFFE2B313, .sltiu 6 5 0xFFE),
  (0xFFE2C313, .xori .std 6 5 0xFFE), (0xFFE2E313, .ori 6 5 0xFFE), (0xFFE2F313, .andi .std 6 5 0xFFE), (0x02129313, .slli .std 6 5 33),
  (0x0212D313, .srli .std 6 5 33), (0x4212D313, .srai .std 6 5 33), (0x00728333, .add .std 6 5 7), (0x40728333, .sub .std 6 5 7),
  (0x00729333, .sll 6 5 7), (0x0072A333, .slt 6 5 7), (0x0072B333, .sltu 6 5 7), (0x0072C333, .xor .std 6 5 7), (0x0072D333, .srl 6 5 7),
  (0x4072D333, .sra 6 5 7), (0x0072E333, .or .std 6 5 7), (0x0072F333, .and .std 6 5 7), (0xFFE2831B, .addiw .std 6 5 0xFFE),
  (0x0072931B, .slliw 6 5 7), (0x0072D31B, .srliw 6 5 7), (0x4072D31B, .sraiw 6 5 7), (0x0072833B, .addw .std 6 5 7), (0x4072833B, .subw .std 6 5 7),
  (0x0072933B, .sllw 6 5 7), (0x0072D33B, .srlw 6 5 7), (0x4072D33B, .sraw 6 5 7), (0x0872833B, .add .uw 6 5 7), (0x0A12931B, .slli .uw 6 5 33)] = true := by decide +kernel
/-- R232, R263 to R269, R403. -/
theorem test_decodes_system : decodesTo tableCtx [
  (0x0FF0000F, .fence 0 0 0xFF), (0x0000100F, .fenceI 0 0 0), (0x00000073, .ecall), (0x00100073, .ebreak .std), (0x10500073, .wfi),
  (0x12728073, .sfenceVma 5 7), (0x76029373, .csrrw 6 5 0x760), (0x7602A373, .csrrs 6 5 0x760), (0x7602B373, .csrrc 6 5 0x760),
  (0x7602D373, .csrrwi 6 5 0x760), (0x7602E373, .csrrsi 6 5 0x760), (0x7602F373, .csrrci 6 5 0x760)] = true := by decide +kernel
/-- R241 to R256. -/
theorem test_decodes_atomics : decodesTo tableCtx [
  (0x0C72A32F, .amoswapW 6 5 7 true false), (0x0472A32F, .amoaddW 6 5 7 true false), (0x2472A32F, .amoxorW 6 5 7 true false),
  (0x6472A32F, .amoandW 6 5 7 true false), (0x4472A32F, .amoorW 6 5 7 true false), (0x8472A32F, .amominW 6 5 7 true false),
  (0xA472A32F, .amomaxW 6 5 7 true false), (0xC472A32F, .amominuW 6 5 7 true false), (0xE472A32F, .amomaxuW 6 5 7 true false),
  (0x0C72B32F, .amoswapD 6 5 7 true false), (0x0472B32F, .amoaddD 6 5 7 true false), (0x2472B32F, .amoxorD 6 5 7 true false),
  (0x6472B32F, .amoandD 6 5 7 true false), (0x4472B32F, .amoorD 6 5 7 true false), (0x8472B32F, .amominD 6 5 7 true false),
  (0xA472B32F, .amomaxD 6 5 7 true false), (0xC472B32F, .amominuD 6 5 7 true false), (0xE472B32F, .amomaxuD 6 5 7 true false),
  (0x0872C32F, .amoswapC 6 5 7 false false), (0x1202832F, .lrB 6 5 false true), (0x1E72832F, .scB 6 5 7 true true),
  (0x1202932F, .lrH 6 5 false true), (0x1E72932F, .scH 6 5 7 true true), (0x1202A32F, .lrW 6 5 false true), (0x1E72A32F, .scW 6 5 7 true true),
  (0x1202B32F, .lrD 6 5 false true), (0x1E72B32F, .scD 6 5 7 true true), (0x1202C32F, .lrC 6 5 false true), (0x1E72C32F, .scC 6 5 7 true true)] = true := by decide +kernel
/-- R337 to R353. -/
theorem test_decodes_zba_cbo : decodesTo tableCtx [
  (0x2072A333, .sh1add 6 5 7), (0x2072C333, .sh2add 6 5 7), (0x2072E333, .sh3add 6 5 7), (0x2072F333, .sh4add 6 5 7), (0x2072A33B, .sh1addUw 6 5 7),
  (0x2072C33B, .sh2addUw 6 5 7), (0x2072E33B, .sh3addUw 6 5 7), (0x2072F33B, .sh4addUw 6 5 7), (0x0002A00F, .cboInval 5), (0x0012A00F, .cboClean 5),
  (0x0022A00F, .cboFlush 5), (0x0042A00F, .cboZero 5), (0x0202E013, .prefetchI 5 1), (0x0212E013, .prefetchR 5 1), (0x0232E013, .prefetchW 5 1)] = true := by decide +kernel
/-- R286 to R299, R306 to R309, R316 to R320. -/
theorem test_decodes_compressed_any_a : decodesTo tableCtx [
  (0xC501, .cBeqz 2 4), (0xD54D, .cBeqz 2 0xD5), (0xE501, .cBnez 2 4), (0x852E, .cMv 10 11), (0x6105, .cAddi16sp 2), (0x7139, .cAddi16sp 0x3C),
  (0x6171, .cAddi16sp 0x15), (0x0808, .cAddi4spn 2 4), (0x0AC8, .cAddi4spn 2 0x55), (0x9C1D, .cModesw), (0x9502, .cJalr 10), (0x8082, .cJr 1),
  (0xA001, .cJ 0), (0xB46D, .cJ 0x555), (0x414C, .cLw 3 2 1), (0x416C, .cLw 3 2 0x11), (0x650C, .cLd 3 2 1), (0x654C, .cLd 3 2 0x11),
  (0x4522, .cLwsp 10 2), (0x5516, .cLwsp 10 0x19), (0x6522, .cLdsp 10 1), (0x752A, .cLdsp 10 0x15), (0xC14C, .cSw 3 2 1), (0xE50C, .cSd 3 2 1),
  (0xC42A, .cSwsp 10 2), (0xD2AA, .cSwsp 10 0x19), (0xE42A, .cSdsp 10 1), (0xF52A, .cSdsp 10 0x15), (0x814C, .cLbu 3 2 1), (0x812C, .cLbu 3 2 2),
  (0x852C, .cLhu 3 2 1), (0x856C, .cLh 3 2 1)] = true := by decide +kernel
/-- R286 to R299, R306 to R309, R316 to R320. -/
theorem test_decodes_compressed_any_b : decodesTo tableCtx [
  (0x894C, .cSb 3 2 1), (0x8D2C, .cSh 3 2 1)] = true := by decide +kernel
/-- R321. -/
theorem test_decodes_compressed_expansions : decodesTo tableCtx [
  (0x1579, .addi .comp 10 10 0xFFE), (0x0001, .addi .comp 0 0 0), (0x5579, .addi .comp 10 0 0xFFE), (0x3579, .addiw .comp 10 10 0xFFE),
  (0x7579, .lui .comp 10 0xFFFFE), (0x1506, .slli .comp 10 10 33), (0x9105, .srli .comp 10 10 33), (0x9505, .srai .comp 10 10 33),
  (0x9979, .andi .comp 10 10 0xFFE), (0x8D0D, .sub .comp 10 10 11), (0x8D2D, .xor .comp 10 10 11), (0x8D4D, .or .comp 10 10 11),
  (0x8D6D, .and .comp 10 10 11), (0x9D0D, .subw .comp 10 10 11), (0x9D2D, .addw .comp 10 10 11), (0x952E, .add .comp 10 10 11),
  (0x9002, .ebreak .comp), (0x9D61, .andi .comp 10 10 0x0FF), (0x9D71, .add .compUw 10 10 0), (0x9D75, .xori .comp 10 10 0xFFF)] = true := by decide +kernel
/-- R304, R305, R314, R315. -/
theorem test_decodes_compressed_cap64 : decodesTo cap64Ctx [
  (0x290C, .cLc 3 2 1), (0x2D0C, .cLc 3 2 0x11), (0xA90C, .cSc 3 2 1), (0x3082, .cLcsp 1 2), (0x20D6, .cLcsp 1 0x15), (0xB006, .cScsp 1 2)] = true := by decide +kernel
/-- R294, R304, R305, R314, R315, R191, R192, R243. -/
theorem test_decodes_compressed_cap32 : decodesTo cap32Ctx [
  (0x650C, .cLc 3 2 1), (0xE50C, .cSc 3 2 1), (0x7082, .cLcsp 1 4), (0xF006, .cScsp 1 4), (0x2001, .cJal 0), (0x346D, .cJal 0x555),
  (0x0082B303, .lc 6 5 8), (0x0072B423, .sc 7 5 8), (0x0872B32F, .amoswapC 6 5 7 false false)] = true := by decide +kernel
/-- R300, R301, R310, R311. -/
theorem test_decodes_compressed_legacy32 : decodesTo legacy32Ctx [
  (0x650C, .cFlw 3 2 2), (0xE50C, .cFsw 3 2 2), (0x6522, .cFlwsp 10 2), (0xE42A, .cFswsp 10 2)] = true := by decide +kernel
/-- R302, R303, R312, R313. -/
theorem test_decodes_compressed_fp64 : decodesTo fp64Ctx [
  (0x290C, .cFld 3 2 2), (0xA90C, .cFsd 3 2 2), (0x2542, .cFldsp 10 2), (0xA82A, .cFsdsp 10 2)] = true := by decide +kernel
/-- R324 to R332. -/
theorem test_decodes_zcmp : decodesTo tableCtx [
  (0xB866, .cmPush 6 1), (0xBA66, .cmPop 6 1), (0xBC66, .cmPopretz 6 1), (0xBE66, .cmPopret 6 1), (0xAC26, .cmMvsa01 0 1), (0xAC66, .cmMva01s 0 1),
  (0xA00E, .cmJt 3), (0xA082, .cmJalt 32)] = true := by decide +kernel

/-- What the spec calls reserved, or leaves to another XLEN or an absent extension, is refused (30 R140; 47 R285). -/
theorem test_decodes_none : decodesNone tableCtx [0x290C, 0xA90C, 0x2542, 0x0000, 0x0004, 0x8002, 0x6081, 0x6101, 0x4002, 0x2001, 0xB832, 0xAC22, 0x0002A08F, 0x0032A00F, 0x10228333,
    0x04029313, 0x2872A32F, 0x0002A0E7, 0x0062A463, 0x0002F303, 0x76054373, 0x302000F3, 0xFFFFFFFF] = true ∧
  decodesNone legacy32Ctx [0x290C, 0x0002E303, 0x007283BB, 0x02129313, 0x0072B32F, 0x2072E33B] = true ∧
  decodesNone { fp64Ctx with cfg := { hasZcmp := false } } [0x290C, 0xA90C, 0x2542] = true ∧
  decodesNone { tableCtx with cfg := { hasA := false, hasZba := false, hasMode := false, hasZicbom := false } }
    [0x0072A32F, 0x1002A32F, 0x2072A333, 0x12001033, 0x0002A00F] = true := by decide +kernel
/-- The same bits, by XLEN and mode (vectors C15 to C22). -/
theorem test_decodes_by_mode : decodesTo legacy32Ctx [(0x650C, .cFlw 3 2 2)] = true ∧ decodesTo cap32Ctx [(0x650C, .cLc 3 2 1), (0xE50C, .cSc 3 2 1)] = true ∧
  decodesTo cap64Ctx [(0x650C, .cLd 3 2 1), (0xE50C, .cSd 3 2 1), (0x290C, .cLc 3 2 1)] = true ∧ decodesTo fp64Ctx [(0x290C, .cFld 3 2 2)] = true :=
  by decide +kernel
/-- XLENMAX 64 with XLEN 32: the slots of R285's table stay those of RV64 in Legacy mode, C.LD and C.SD illegal; the slot of C.JAL follows XLEN (log 43). -/
theorem test_decodes_xlen_below_xlenmax : decodesNone { tableCtx with x64 := false } [0x650C, 0xE50C, 0x6522, 0xE42A] = true ∧
  decodesTo { fp64Ctx with x64 := false } [(0x290C, .cFld 3 2 2), (0xA82A, .cFsdsp 10 2), (0x2001, .cJal 0)] = true := by decide +kernel
/-- With one of Zcmp and Zcmt the other's patterns are no stack-relative stores but illegal (R322). -/
theorem test_decodes_zcmp_or_zcmt : decodesNone { tableCtx with cfg := { hasZcmp := false } } [0xB866, 0xBE66, 0xAC26] = true ∧
  decodesTo { tableCtx with cfg := { hasZcmp := false } } [(0xA00E, .cmJt 3), (0xA82A, .cFsdsp 10 2)] = true ∧
  decodesNone { tableCtx with cfg := { hasZcmt := false } } [0xA00E, 0xA082] = true ∧
  decodesTo { cap64Ctx with cfg := { hasZcmp := false, hasZcmt := false } } [(0xB866, .cScsp 25 3)] = true := by decide +kernel
/-- What the host asks of a row: a table word, decoded and run as the first instruction after reset (vector Y8). -/
theorem test_first_word : decodeTableWord 32 0x10028333 = some (.gctag 6 5) ∧
  after (step (State.reset.withFetchWord 32 0x10028333)) (fun t => t.rc 6 == int 0 && t.pcc == inf64 0x80000004) = true ∧
  after (step (State.reset.withFetchWord 16 0x852E)) (fun t => t.pcc == inf64 0x80000002) = true := by decide +kernel

/-! ## Bounds (95_test_vectors 2.1 to 2.3) -/

def p64 : Params := {}
def p32 : Params := { xlenmax64 := false }
/-- Metadata, address, base and top. -/
def boundsAre (p : Params) (l : List (Nat × Nat × Nat × Nat)) : Bool :=
  l.all fun x => !(cap false x.1 x.2.1).malformed p && (cap false x.1 x.2.1).base p == x.2.2.1 && (cap false x.1 x.2.1).top p == x.2.2.2
theorem test_bounds32 : boundsAre p32 [(0, 0x1234, 0, 0x100000000), (0xC0803, 0x1003, 0x1003, 0x1202), (0xC0000, 0x1000, 0x1000, 0x1100),
  (0x41403, 0x1003, 0x1000, 0x1208), (0x93040, 0x80000040, 0x80000040, 0x8000004C), (0x40700, 0xFFFFF000, 0xFFFFF000, 0x100000000),
  (0x40700, 0, 0xFFFFF000, 0x100000000), (0x40200, 0x20000, 0x20000, 0x30000), (0xC00, 0x80000000, 0x80000000, 0x80100000), (0xFFC00, 0, 0, 0x1FF),
  (0x40403, 0, 0, 0x200), (0x5C10, 0x12345, 0x10000, 0x114000), (0x101, 0x5555, 0x80000000, 0x100000000)] = true := by decide +kernel
theorem test_bounds64 : boundsAre p64 [(0, 0x1234, 0, 2 ^ 64), (0x4080000, 0x80010000, 0x80010000, 0x80010020), (0x4020000, 0x80010000, 0x80010000, 0x80010008),
  (0x2038803, 0x1001, 0x1000, 0x3010), (0x19004, 0x1000, 0x1000, 0x2000), (0x14004, 0x80000000, 0x80000000, 0x80100000),
  (0x1B000, 0xFFFFFFFFFFFF0000, 0xFFFFFFFFFFFF0000, 2 ^ 64), (0x7FFC000, 0x10000, 0x10000, 0x10FFF), (0x4B4124, 0x12345, 0x12000, 0x112800),
  (0x1001, 0, 0x8000000000000000, 2 ^ 64)] = true := by decide +kernel
theorem test_malformed : [0x100, 0x201, 0x40801].all (fun m => (cap false m 0).malformed p32) = true ∧
  [0x1000, 0x2001, 0x18005].all (fun m => (cap false m 0).malformed p64) = true := by decide +kernel
/-- Metadata, address, the ends of the representable range: the ends are in it, their neighbours outside are not. -/
def rangeIs (p : Params) (l : List (Nat × Nat × Nat × Nat)) : Bool := l.all fun x =>
  let k := cap false x.1 x.2.1
  let a := BitVec.ofNat 64 x.2.2.1
  let b := BitVec.ofNat 64 x.2.2.2
  k.representable p a && k.representable p b && !k.representable p (truncX p (a - 1)) && !k.representable p (truncX p (b + 1))
theorem test_representable : rangeIs p32 [(0xC0000, 0x1000, 0xF80, 0x137F), (0x41403, 0x1003, 0xF00, 0x16FF), (0x93040, 0x80000040, 0x7FFFFF80, 0x8000037F),
    (0x40200, 0x20000, 0x18000, 0x57FFF), (0x40700, 0xFFFFF000, 0xFFFFE800, 0x27FF)] = true ∧
  rangeIs p64 [(0x4080000, 0x80010000, 0x8000F800, 0x800137FF), (0x2038803, 0x1001, 0, 0x7FFF), (0x1B000, 0xFFFFFFFFFFFF0000, 0xFFFFFFFFFFFE8000, 0x27FFF)] = true :=
  by decide +kernel

/-! ## Capability inspection (2.5) -/

theorem test_gctag : gives6 (regs leg64 [(5, inf64 0)]) 0x10028333 (int 1) = true ∧ gives6 (regs leg64 [(5, cap false 0x01FF000000000000 0)]) 0x10028333 (int 0) = true :=
  by decide +kernel
theorem test_gcperm : gives6 (regs leg64 [(5, inf64 0)]) 0x10128333 (int 0xF001F) = true ∧ gives6 (regs leg32 [(5, inf32 0)]) 0x10128333 (int 0x3001F) = true ∧
  gives6 (regs leg32 [(5, cap false 0x44000000 0)]) 0x10128333 (int 0x10000) = true ∧
  gives6 (regs leg64 [(5, cap false 0x0145000000000000 0)]) 0x10128333 (int 0xA0005) = true := by decide +kernel
theorem test_gchi : gives6 (regs leg64 [(5, cap true 0x0007800004080000 0x80010000)]) 0x10428333 (int 0x0007800004080000) = true ∧
  gives6 (regs leg32 [(5, cap false 0xFFFFFFFF 0x1234)]) 0x10428333 (int 0xFFFFFFFF) = true := by decide +kernel
theorem test_gcbase : gives6 (regs leg32 [(5, cap true 0xFC041403 0x1003)]) 0x10528333 (int 0x1000) = true ∧
  gives6 (regs leg32 [(5, cap false 0x100 0x5555)]) 0x10528333 (int 0) = true := by decide +kernel
theorem test_gclen : gives6 (regs leg32 [(5, cap true 0xFC041403 0x1003)]) 0x10628333 (int 0x208) = true ∧
  gives6 (regs leg32 [(5, int 0)]) 0x10628333 (int 0xFFFFFFFF) = true ∧ gives6 (regs leg64 [(5, inf64 0)]) 0x10628333 (int 0xFFFFFFFFFFFFFFFF) = true ∧
  gives6 (regs leg64 [(5, cap false 0x18005 0)]) 0x10628333 (int 0) = true ∧ gives6 (regs leg32 [(5, cap true 0xFC080100 0x1100)]) 0x10628333 (int 0) = true :=
  by decide +kernel
theorem test_cram : ([(0, 0xFFFFFFFF), (0x100, 0xFFFFFFFF), (0x1FF, 0xFFFFFFFF), (0x200, 0xFFFFFFF8), (0x201, 0xFFFFFFF8), (0x1FFF, 0xFFFFFF80), (0x10000, 0xFFFFFC00),
    (0x100000, 0xFFFFC000), (0xFFFFFFFF, 0xFC000000)].all fun x => gives6 (regs leg32 [(5, int x.1)]) 0x10728333 (int x.2)) = true ∧
  gives6 (regs leg64 [(5, int 0x100000)]) 0x10728333 (int 0xFFFFFFFFFFFFF800) = true := by decide +kernel
theorem test_sceq : ([(inf64 0x10, 1), (cap false 0x01FF000000000000 0x10, 0), (cap true 0x01FF800000000000 0x10, 0), (inf64 0x11, 0)].all fun x =>
  gives6 (regs leg64 [(5, inf64 0x10), (7, x.1)]) 0x0C72C333 (int x.2)) = true := by decide +kernel
theorem test_scss : ([(inf64 0, cap true 0x0007000004080000 0x80010000, 1), (cap true 0x0007000004080000 0x80010000, inf64 0, 0),
    (inf64 0, cap false 0x0007000004080000 0x80010000, 0), (cap false 0x01FF000000000000 0, cap false 0x0007000004080000 0x80010000, 1),
    (inf64 0, cap true 0x01FF000008000000 0, 1), (cap false 0x01FF000000000000 0, cap false 0x1000 0, 0)].all fun x =>
  gives6 (regs leg64 [(5, x.1), (7, x.2.1)]) 0x0C72E333 (int x.2.2)) = true := by decide +kernel

/-! ## Capability manipulation (2.3, 2.6) -/

/-- cs1 in register 5, rs2 in register 7, and what register 6 holds after the word. -/
def manip (s : State) (w : Nat) (l : List (Cap × Cap × Cap)) : Bool := l.all fun x => gives6 (regs s [(5, x.1), (7, x.2.1)]) w x.2.2
theorem test_cmv : manip leg64 0x0C028333 [(cap true 0x01FF000008000000 0x44, int 0, cap true 0x01FF000008000000 0x44)] = true ∧
  on (regs leg64 [(5, inf64 1)]) 0x0C028033 (fun t => t.rc 0 == nullCap && t.rc 5 == inf64 1) = true := by decide +kernel
theorem test_cadd : manip leg32 0x0C728333 [(cap true 0xFC0C0000 0x1000, int 0x37F, cap true 0xFC0C0000 0x137F),
  (cap true 0xFC0C0000 0x1000, int 0x380, cap false 0xFC0C0000 0x1380), (cap true 0xFC0C0000 0x1000, int 0xFFFFFF80, cap true 0xFC0C0000 0xF80),
  (cap true 0xFC0C0000 0x1000, int 0xFFFFFF7F, cap false 0xFC0C0000 0xF7F), (cap true 0xFC1C0000 0x1000, int 0, cap false 0xFC1C0000 0x1000)] = true := by decide +kernel
theorem test_caddi : manip leg32 0xF802A31B [(cap true 0xFC0C0000 0x1000, int 0, cap true 0xFC0C0000 0xF80)] = true := by decide +kernel
theorem test_scaddr : manip leg32 0x0C729333 [(cap true 0xFC0C0000 0x1000, int 0x80001000, cap false 0xFC0C0000 0x80001000)] = true ∧
  manip leg64 0x0C729333 [(cap false 0x01FF000000000000 0, int 0x1234, cap false 0x01FF000000000000 0x1234)] = true := by decide +kernel
theorem test_acperm : manip leg32 0x0C72A333 [(inf32 0, int 0x3001F, inf32 0), (inf32 0, int 0xF, cap true 0x2C000000 0), (inf32 0, int 0x6, cap true 0x18000000 0),
    (inf32 0, int 0x1B, cap true 0 0), (inf32 0, int 0x10017, cap true 0x40000000 0), (inf32 0, int 1, cap true 0 0)] = true ∧
  manip leg64 0x0C72A333 [(inf64 0, int 0xA0015, cap true 0x0155000000000000 0),
    (cap true 0x01FF000008000000 0, int 0xFFFFFFFFFFFFFFFF, cap false 0x01FF000008000000 0)] = true := by decide +kernel
theorem test_schi : manip leg32 0x0C72B333 [(inf32 0x1234, int 0xFFFFFFFF, cap false 0xFFFFFFFF 0x1234)] = true := by decide +kernel
theorem test_sentry : manip leg64 0x10828333 [(inf64 0x80000020, int 0, cap true 0x01FF000008000000 0x80000020),
  (cap true 0x01FF000008000000 8, int 0, cap false 0x01FF000008000000 8)] = true := by decide +kernel
theorem test_cbld : manip leg32 0x0C72D333 [(inf32 0, cap false 0x180C0000 0x1000, cap true 0x180C0000 0x1000),
  (inf32 0, cap false 0x182C0000 0x1000, cap false 0x182C0000 0x1000), (inf32 0, cap false 0x18000100 0x1000, cap false 0x18000100 0x1000),
  (inf32 0, cap false 0x040C0000 0x1000, cap false 0x040C0000 0x1000), (cap true 0xFC1C0000 0x1000, cap false 0x180C0000 0x1000, cap false 0x180C0000 0x1000),
  (cap true 0xFC0A0000 0x1000, cap false 0x180C0000 0x1000, cap false 0x180C0000 0x1000), (cap true 0x100C0000 0x1000, cap false 0x180C0000 0x1000, cap false 0x180C0000 0x1000),
  (cap true 0x3C0C0000 0x1000, cap false 0x580C0000 0x1000, cap false 0x580C0000 0x1000), (inf32 0, cap false 0x181C0000 0x1000, cap true 0x181C0000 0x1000),
  (cap false 0xFC000000 0, cap false 0x180C0000 0x1000, cap false 0x180C0000 0x1000)] = true := by decide +kernel
/-- Address, length, metadata of the result, the tags of SCBNDS and SCBNDSR (E1 to E19). -/
def setsBounds (s : State) (inf : Nat → Cap) (l : List (Nat × Nat × Nat × Bool)) : Bool := l.all fun x =>
  manip s 0x0E728333 [(inf x.1, int x.2.1, cap x.2.2.2 x.2.2.1 x.1)] && manip s 0x0E729333 [(inf x.1, int x.2.1, cap true x.2.2.1 x.1)]
theorem test_scbnds32 : setsBounds leg32 inf32 [(0x10F0, 0x20, 0xFC0840F0, true), (0x1000, 0, 0xFC080000, true), (0x1100, 0, 0xFC080100, true),
  (0x1000, 0x10, 0xFC084000, true), (0x1000, 0x100, 0xFC0C0000, true), (0x1000, 0x1FF, 0xFC0FFC00, true), (0x1000, 0x200, 0xFC040403, true),
  (0x1004, 0x200, 0xFC041403, false), (0x12345, 0x100000, 0xFC005C10, false), (0x80000040, 12, 0xFC093040, true), (0, 0xFFFFFFFF, 0xFC000000, false)] = true :=
  by decide +kernel
theorem test_scbnds64 : setsBounds leg64 inf64 [(0x1000, 0x10, 0x01FF000004041000, true), (0x80010000, 0x10, 0x01FF000004040000, true),
  (0x80010000, 8, 0x01FF000004020000, true), (0x1000, 0xFFF, 0x01FF000007FFD000, true), (0x1000, 0x1000, 0x01FF000000019004, true),
  (0x1004, 0x1000, 0x01FF000000039004, false), (0x12345, 0x100000, 0x01FF0000004B4124, false), (0, 0xFFFFFFFFFFFFFFFF, 0x01FF000000000000, false)] = true :=
  by decide +kernel
theorem test_scbnds_monotonic : manip leg32 0x0E728333 [(cap true 0xFC0C0000 0x10F0, int 0x20, cap false 0xFC0840F0 0x10F0),
  (cap true 0xFC0C0000 0x10F0, int 0x10, cap true 0xFC0800F0 0x10F0), (cap true 0xFC1C0000 0x1000, int 0x10, cap false 0xFC184000 0x1000)] = true := by decide +kernel
theorem test_scbndsi : gives6 (regs leg64 [(5, cap true 0x01FF800000000000 0x80010000)]) 0x0622D313 (cap true 0x01FF800004080000 0x80010000) = true ∧
  gives6 (regs leg32 [(5, inf32 0x1100)]) 0x0402D313 (cap true 0xFC080100 0x1100) = true := by decide +kernel
theorem test_scmode : manip leg64 0x0C72F333 [(inf64 0x80000020, int 1, cap true 0x01FF800000000000 0x80000020),
  (cap true 0x01FF800000000000 0, int 2, inf64 0), (cap true 0x01FF000008000000 0, int 0, cap false 0x01FF000008000000 0)] = true := by decide +kernel
theorem test_modesw : on cap64 0x12001033 (fun t => t.pcc == inf64 0x80000004 && !t.capMode) = true ∧
  on leg64 0x12001033 (fun t => t.pcc == cap true 0x01FF800000000000 0x80000004 && !t.capMode) = true ∧
  on cap64 0x9C1D (fun t => t.pcc == inf64 0x80000002 && !t.capMode) = true := by decide +kernel
theorem test_disabled_in_s_mode : traps (regs sup64 [(5, inf64 0)]) 0x10028333 2 0 = true ∧ traps sup64 0x12001033 2 0 = true := by decide +kernel

/-! ## Capability loads and stores (2.7) -/

def memL1 : State := tagAt (bytes cap64 0x80010010 16 0x01FF000000000000000000000000ABCD) 0x80010010
theorem test_sc : on (regs cap64 [(5, capA), (7, inf64 0xABCD)]) 0x0072C823 (fun t => t.mem == memL1.mem && t.pc == 0x80000004) = true ∧
  on (regs cap64 [(5, cap true 0x0006000004080000 0x80010000), (7, inf64 0xABCD)]) 0x0072C823 (fun t => t.mem == { memL1.mem with tags := [] }) = true ∧
  on (regs memL1 [(5, capA), (7, int 0x55)]) 0x0072C823 (fun t => memIs t 0x80010010 16 0x55 && t.mem.tags == []) = true := by decide +kernel
theorem test_lc : gives6 (regs memL1 [(5, capA)]) 0x0102C30F (inf64 0xABCD) = true ∧
  gives6 (regs memL1 [(5, cap true 0x0006000004080000 0x80010000)]) 0x0102C30F (cap false 0x01FF000000000000 0xABCD) = true ∧
  gives6 (regs (withCme { memL1 with ddc := capA } (inf64 0x80000000)) [(5, int 0x80010000)]) 0x0102C30F (inf64 0xABCD) = true := by decide +kernel
theorem test_lc_faults : traps (regs cap64 [(5, capA)]) 0x0082C30F 4 0x80010008 = true ∧ traps (regs cap64 [(5, capA)]) 0x0182C30F 28 0x10003 = true ∧
  traps (regs cap64 [(5, { capA with tag := false })]) 0x0102C30F 28 0x10000 = true ∧
  traps (regs cap64 [(5, cap true 0x000700000C080000 0x80010000)]) 0x0102C30F 28 0x10001 = true ∧
  traps (regs cap64 [(5, cap true 0x0002000004080000 0x80010000)]) 0x0102C30F 28 0x10002 = true ∧
  traps (regs cap64 [(5, inf64 0x70000000)]) 0x0002C30F 5 0x70000000 = true := by decide +kernel
theorem test_sc_faults : traps (regs cap64 [(5, cap true 0x0004000004080000 0x80010000)]) 0x0072C823 28 0x10002 = true ∧
  traps (regs { leg64 with ddc := cap false 0 0 } [(5, int 0x80010000)]) 0x0072C823 28 0x10000 = true := by decide +kernel
theorem test_sc32 : on (regs cap32 [(5, cap true 0x1C0C0000 0x80010000), (7, inf32 0xABCD)]) 0x0072B423
  (fun t => memIs t 0x80010008 8 0xFC0000000000ABCD && t.mem.tags == [0x80010008 / 8]) = true := by decide +kernel

/-! ## AUIPC, jumps, branches (2.8) -/

/-- The register 5, or 1, and pcc after the word. -/
def links (s : State) (w : Nat) (r : Reg) (k pcc : Cap) : Bool := on s w fun t => t.rc r == k && t.pcc == pcc
def small : Cap := cap true 0x01FF800004400000 0x800000F8
theorem test_auipc : on (pccAt cap64 (cap true 0x01FF800000000000 0x80000008)) 0x00010297 (fun t => t.rc 5 == cap true 0x01FF800000000000 0x80010008) = true ∧
  on leg64 0xFFFFF297 (fun t => t.rc 5 == int 0x7FFFF000) = true ∧
  on (pccAt cap64 (cap true 0x01FF800004400000 0x80000010)) 0x00010297 (fun t => t.rc 5 == cap false 0x01FF800004400000 0x80010010) = true := by decide +kernel
theorem test_jal : links cap64 0x008000EF 1 (cap true 0x01FF800008000000 0x80000004) (cap true 0x01FF800000000000 0x80000008) = true ∧
  links leg64 0x008000EF 1 (int 0x80000004) (inf64 0x80000008) = true ∧ traps (pccAt cap64 small) 0x008000EF 28 0x20003 = true ∧
  pcIs (pccAt cap64 small) 0x004000EF 0x800000FC = true ∧ pcIs (pccAt cap64 (cap true 0x01FF800000000000 0x80000010)) 0xFF9FF06F 0x80000008 = true := by decide +kernel
theorem test_jalr : links (regs (pccAt cap64 (cap true 0x01FF800000000000 0x8000001C)) [(5, cap true 0x01FF800008000000 0x80000041)]) 0x000280E7 1
    (cap true 0x01FF800008000000 0x80000020) (cap true 0x01FF800000000000 0x80000040) = true ∧
  links (regs (pccAt leg64 (inf64 0x80000010)) [(5, int 0x80000041)]) 0x000280E7 1 (int 0x80000014) (inf64 0x80000040) = true := by decide +kernel
theorem test_jalr_faults : traps (regs cap64 [(5, cap true 0x01FF800008000000 0x80000040)]) 0x004280E7 28 0x20001 = true ∧
  traps (regs cap64 [(5, cap false 0x01FF800000000000 0x80000040)]) 0x000280E7 28 0x20000 = true ∧
  traps (regs cap64 [(5, cap true 0x0007800000000000 0x80000040)]) 0x000280E7 28 0x20002 = true ∧
  traps (regs cap64 [(5, cap true 0x01FF800004400000 0x80000100)]) 0x000280E7 28 0x20003 = true := by decide +kernel
theorem test_jalr_mode : links (regs (withCme leg64 (inf64 0x8000001C)) [(5, cap true 0x01FF800000000000 0x80000020)]) 0x000290E7 1
    (cap true 0x01FF000008000000 0x80000020) (cap true 0x01FF800000000000 0x80000020) = true ∧
  links (regs cap64 [(5, int 0x80002000)]) 0x000290E7 1 (int 0x80000004) (cap true 0x01FF800000000000 0x80002000) = true := by decide +kernel
/-- The pc after a branch on two operands. -/
def branches (w a b pc : Nat) : Bool := pcIs (regs leg64 [(5, int a), (6, int b)]) w pc
theorem test_branches : branches 0x00628463 7 7 0x80000008 = true ∧ branches 0x00628463 7 8 0x80000004 = true ∧
  branches 0x0062C463 0xFFFFFFFFFFFFFFFF 1 0x80000008 = true ∧ branches 0x0062E463 0xFFFFFFFFFFFFFFFF 1 0x80000004 = true ∧
  branches 0x0062D463 0xFFFFFFFFFFFFFFFF 1 0x80000004 = true ∧ branches 0x0062F463 0xFFFFFFFFFFFFFFFF 1 0x80000008 = true ∧
  branches 0xFE629EE3 0xFFFFFFFFFFFFFFFF 1 0x7FFFFFFC = true := by decide +kernel
theorem test_branch_bounds : traps (pccAt cap64 small) 0x00628463 28 0x20003 = true ∧ pcIs (regs (pccAt cap64 small) [(5, int 1)]) 0x00628463 0x800000FC = true ∧
  pcIs (regs cap64 [(5, inf64 7), (6, int 7)]) 0x00628463 0x80000008 = true ∧
  traps { leg64 with csr := { leg64.csr with misaC := false } } 0x00628363 28 0x20003 = false ∧
  traps { leg64 with csr := { leg64.csr with misaC := false } } 0x00000363 0 0x80000006 = true := by decide +kernel

/-! ## Integer loads and stores (2.9), computation -/

def memK : State := regs (bytes cap64 0x80010000 8 0x8092345678) [(5, capA), (7, int 0x1122334455667788)]
theorem test_loads : gives6 memK 0x0002A303 (int 0xFFFFFFFF92345678) = true ∧ gives6 memK 0x0002E303 (int 0x92345678) = true ∧
  gives6 memK 0x00428303 (int 0xFFFFFFFFFFFFFF80) = true ∧ gives6 memK 0x0042C303 (int 0x80) = true ∧ gives6 memK 0x00029303 (int 0x5678) = true ∧
  gives6 memK 0x0022D303 (int 0x9234) = true ∧ gives6 memK 0x0002B303 (int 0x8092345678) = true := by decide +kernel
theorem test_load_faults : traps memK 0x0012A303 4 0x80010001 = true ∧ traps memK 0xFFC2B303 28 0x10003 = true ∧
  traps (regs cap64 [(5, inf64 0xFFFFFFFFFFFFFFFC)]) 0x0002B303 28 0x10003 = true ∧
  traps (regs { leg64 with ddc := capA } [(5, int 0x80010020)]) 0x0002A303 28 0x10003 = true ∧
  gives6 { memK with cfg := { misalignedIntOk := true } } 0x0012A303 (int 0xFFFFFFFF80923456) = true := by decide +kernel
theorem test_stores : on (tagAt memK 0x80010010) 0x0072BC23 (fun t => memIs t 0x80010018 8 0x1122334455667788 && t.mem.tags == []) = true ∧
  on (tagAt memK 0x80010000) 0x007281A3 (fun t => memIs t 0x80010000 4 0x88345678 && t.mem.tags == []) = true ∧
  on memK 0x0072A023 (fun t => memIs t 0x80010000 8 0x8055667788) = true ∧ on memK 0x00729123 (fun t => memIs t 0x80010000 8 0x8077885678) = true ∧
  traps memK 0x0072BE23 28 0x10003 = true := by decide +kernel
/-- Register 6 after a computation on registers 5 and 7. -/
def computes (w a b r : Nat) : Bool := gives6 (regs leg64 [(5, inf64 a), (7, int b)]) w (int r)
theorem test_compute : computes 0x00128313 0x80010000 0 0x80010001 = true ∧ computes 0x0072D333 0x8000000000000000 63 1 = true ∧
  computes 0x4072D333 0x8000000000000000 63 0xFFFFFFFFFFFFFFFF = true ∧ computes 0x0072A333 0xFFFFFFFFFFFFFFFF 1 1 = true ∧ computes 0x0072B333 0xFFFFFFFFFFFFFFFF 1 0 = true ∧
  computes 0x40728333 1 2 0xFFFFFFFFFFFFFFFF = true ∧ computes 0x0072833B 0x7FFFFFFF 1 0xFFFFFFFF80000000 = true ∧
  computes 0x4072D33B 0x80000000 31 0xFFFFFFFFFFFFFFFF = true ∧ computes 0x0072D33B 0x80000000 31 1 = true ∧ computes 0x0872833B 0xFFFFFFFF00000002 1 3 = true := by decide +kernel
theorem test_compute32 : gives6 (regs leg32 [(5, inf32 0x7FFFFFFF), (7, int 0x21)]) 0x00728333 (int 0x800000A0 : Cap) = false ∧
  gives6 (regs leg32 [(5, inf32 0x7FFFFFFF), (7, int 1)]) 0x00728333 (int 0x80000000) = true ∧
  gives6 (regs leg32 [(5, inf32 0x80000000), (7, int 0x21)]) 0x0072D333 (int 0x40000000) = true ∧
  gives6 (regs leg32 [(5, inf32 0x80000000), (7, int 0x21)]) 0x4072D333 (int 0xC0000000) = true := by decide +kernel

/-! ## Atomics (2.10) -/

def memT (v : Nat) : State := regs (tagAt (bytes cap64 0x80010000 4 v) 0x80010000) [(5, capA), (7, int 1)]
/-- The word at 0x80010000 and the register 6 after an atomic on `m` with 1 in register 7. -/
def amo (w m new old : Nat) : Bool := on (memT m) w fun t => memIs t 0x80010000 4 new && t.rc 6 == int old && t.mem.tags == []
theorem test_amo_w : amo 0x0072A32F 0x7FFFFFFF 0x80000000 0x7FFFFFFF = true ∧ amo 0x0072A32F 0x80000000 0x80000001 0xFFFFFFFF80000000 = true ∧
  amo 0x0872A32F 5 1 5 = true ∧ amo 0x2072A32F 5 4 5 = true ∧ amo 0x6072A32F 5 1 5 = true ∧ amo 0x4072A32F 4 5 4 = true ∧
  amo 0x8072A32F 0xFFFFFFFF 0xFFFFFFFF 0xFFFFFFFFFFFFFFFF = true ∧ amo 0xA072A32F 0xFFFFFFFF 1 0xFFFFFFFFFFFFFFFF = true ∧
  amo 0xC072A32F 0xFFFFFFFF 1 0xFFFFFFFFFFFFFFFF = true ∧ amo 0xE072A32F 0xFFFFFFFF 0xFFFFFFFF 0xFFFFFFFFFFFFFFFF = true := by decide +kernel
theorem test_amo_d : on memK 0x0072B32F (fun t => memIs t 0x80010000 8 (0x1122334455667788 + 0x8092345678) && t.rc 6 == int 0x8092345678) = true ∧
  on memK 0xA072B32F (fun t => memIs t 0x80010000 8 0x1122334455667788) = true ∧ on memK 0x8072B32F (fun t => memIs t 0x80010000 8 0x8092345678) = true := by decide +kernel
theorem test_amo_faults : traps (regs cap64 [(5, { capA with addr := 0x80010002 })]) 0x0072A32F 7 0x80010002 = true ∧
  traps (regs { cap64 with cfg := { hasZam := true } } [(5, { capA with addr := 0x80010002 })]) 0x0072A32F 6 0x80010002 = true ∧
  traps (regs cap64 [(5, cap true 0x0004000004080000 0x80010000)]) 0x0072A32F 28 0x10002 = true := by decide +kernel
theorem test_amoswap_c : on (regs memL1 [(5, { capA with addr := 0x80010010 }), (7, inf64 2)]) 0x0872C32F
    (fun t => t.rc 6 == inf64 0xABCD && memIs t 0x80010010 16 0x01FF0000000000000000000000000002 && t.mem.tags == memL1.mem.tags) = true ∧
  on (regs memL1 [(5, cap true 0x0006000004080000 0x80010010), (7, inf64 2)]) 0x0872C32F
    (fun t => t.rc 6 == cap false 0x01FF000000000000 0xABCD && t.mem.tags == []) = true := by decide +kernel
def reserved (n : Nat) : State := { memK with resv := some (0x80010000, n) }
theorem test_lr : on memK 0x1002A32F (fun t => t.rc 6 == int 0xFFFFFFFF92345678 && t.resv == some (0x80010000, 4)) = true ∧
  on (regs memL1 [(5, { capA with addr := 0x80010010 })]) 0x1002C32F (fun t => t.rc 6 == inf64 0xABCD && t.resv == some (0x80010010, 16)) = true ∧
  traps (regs cap64 [(5, { capA with addr := 0x80010008 })]) 0x1002C32F 4 0x80010008 = true := by decide +kernel
theorem test_sc_w : on (reserved 4) 0x1872A32F (fun t => memIs t 0x80010000 4 0x55667788 && t.rc 6 == int 0 && t.resv == none) = true ∧
  on memK 0x1872A32F (fun t => t.mem == memK.mem && t.rc 6 == int 1) = true ∧
  on (reserved 4) 0x1872B32F (fun t => t.mem == memK.mem && t.rc 6 == int 1 && t.resv == none) = true ∧ on (reserved 4) 0x0072A023 (fun t => t.resv == none) = true ∧
  traps (regs memK [(5, { capA with tag := false })]) 0x1872A32F 28 0x10000 = true := by decide +kernel
theorem test_sc_c : on (regs (reserved 16) [(7, inf64 9)]) 0x1872C32F
  (fun t => memIs t 0x80010000 16 0x01FF0000000000000000000000000009 && t.mem.tags == [0x80010000 / 16] && t.rc 6 == int 0 && t.resv == none) = true ∧
  on (reserved 4) 0x1872C32F (fun t => t.mem == memK.mem && t.rc 6 == int 1 && t.resv == none) = true := by decide +kernel

/-! ## CSRs (2.11) -/

def csrs (s : State) (f : Csrs → Csrs) : State := { s with csr := f s.csr }
theorem test_csrrw : on (regs (csrs leg64 ({ · with mscratchc := cap false 1 2 })) [(5, inf64 0x77)]) 0x76029373
    (fun t => t.rc 6 == cap false 1 2 && t.csr.mscratchc == inf64 0x77) = true ∧
  on (regs (csrs leg64 ({ · with mscratchc := inf64 0x77 })) [(5, int 0x99)]) 0x34029373 (fun t => t.rc 6 == int 0x77 && t.csr.mscratchc == inf64 0x99) = true ∧
  on (regs (csrs leg64 ({ · with mscratchc := cap true 0x01FF000008000000 0x77 })) [(5, int 0x99)]) 0x34029373
    (fun t => t.csr.mscratchc == cap false 0x01FF000008000000 0x99) = true := by decide +kernel
theorem test_mepcc : on (csrs leg64 ({ · with mepcc := cap true 0x01FF000008000000 0x80000100 })) 0x76102373 (fun t => t.rc 6 == cap true 0x01FF000008000000 0x80000100) = true ∧
  on (regs leg64 [(5, inf64 0x80000101)]) 0x76129073 (fun t => t.csr.mepcc == inf64 0x80000100) = true ∧
  on (regs leg64 [(5, cap true 0x01FF000008000000 0x80000101)]) 0x76129073 (fun t => t.csr.mepcc == cap false 0x01FF000008000000 0x80000100) = true := by decide +kernel
theorem test_mtvecc : ([(0x1001, true), (0x1341, false), (0x1340, true)].all fun x =>
    on (regs leg32 [(5, cap true 0xFC0C0000 x.1)]) 0x76529073 fun t => t.csr.mtvecc == cap x.2 0xFC0C0000 x.1) = true ∧
  on (regs (csrs leg64 ({ · with mtvecc := inf64 0x80000040 })) [(5, int 1)]) 0x7652A373 (fun t => t.rc 6 == inf64 0x80000040 && t.csr.mtvecc == inf64 0x80000041) = true :=
  by decide +kernel
theorem test_csr_faults : traps (pccAt leg64 (cap true 0x000F000000000000 0x80000000)) 0x30002373 28 2 = true ∧
  on (pccAt leg64 (cap true 0x000F000000000000 0x80000000)) 0xC0002373 (fun t => t.freeCtr == 1) = true ∧ traps user64 0x76029373 2 0 = true ∧
  traps sup64 0x54029373 2 0 = true ∧ on sup64 0x14029373 (fun t => t.rc 6 == int 0) = true := by decide +kernel
theorem test_ddc : on leg64 0x41602373 (fun t => t.rc 6 == inf64 0) = true ∧ on (regs leg64 [(6, cap false 0x1234 5)]) 0x41631073 (fun t => t.ddc == cap false 0x1234 5) = true :=
  by decide +kernel
theorem test_csr_immediates : on leg64 0x74746073 (fun t => t.csr.mseccfg == 8 && t.pc == 0x80000004) = true ∧
  on leg64 0x30046073 (fun t => t.st 3) = true ∧ on (csrs leg64 ({ · with mstatus := 8 })) 0x30047073 (fun t => !t.st 3) = true ∧
  on (csrs leg64 ({ · with mscratchc := inf64 5 })) 0x76005073 (fun t => t.csr.mscratchc == inf64 0 && t.regs == leg64.regs) = true ∧
  on (regs (csrs leg64 ({ · with mtvecc := inf64 0xF0 })) [(5, int 0x30)]) 0x7652B373 (fun t => t.csr.mtvecc == inf64 0xC0) = true := by decide +kernel

/-! ## Floating-point loads and stores (2.12) -/

def memQ : State := csrs memK ({ · with mstatus := 0x2000 })
theorem test_fp : on memQ 0x0042A307 (fun t => t.rf 6 == 0xFFFFFFFF00000080 && t.csr.mstatus == 0x6000) = true ∧
  on { memQ with fregs := memQ.fregs.set 7 0x0102030405060708 } 0x0072B427 (fun t => memIs t 0x80010008 8 0x0102030405060708) = true ∧
  traps (regs memQ [(5, cap true 0x0002000004080000 0x80010000)]) 0x0082B307 28 0x10002 = true ∧
  traps (regs memQ [(5, { capA with addr := 0x8001001E })]) 0x0072A227 28 0x10003 = true ∧ traps memK 0x0042A307 2 0 = true ∧
  on memQ 0x00029307 (fun t => t.rf 6 == 0xFFFFFFFFFFFF5678) = true ∧ on memQ 0x0002B307 (fun t => t.rf 6 == 0x8092345678) = true := by decide +kernel
theorem test_fp_stores : on { memQ with fregs := memQ.fregs.set 7 0x0102030405060708 } 0x00729027 (fun t => memIs t 0x80010000 8 0x8092340708) = true ∧
  on { memQ with fregs := memQ.fregs.set 7 0x0102030405060708 } 0x0072A227 (fun t => memIs t 0x80010000 8 0x0506070892345678) = true := by decide +kernel

/-! ## Compressed instructions (2.13) -/

theorem test_c_mv : on (regs cap64 [(11, inf64 9)]) 0x852E (fun t => t.rc 10 == inf64 9) = true ∧ on (regs leg64 [(11, inf64 9)]) 0x852E (fun t => t.rc 10 == int 9) = true :=
  by decide +kernel
theorem test_c_addi16sp : on (regs cap64 [(2, cap true 0x0007800000018004 0x80010100)]) 0x7139 (fun t => t.rc 2 == cap true 0x0007800000018004 0x800100C0) = true ∧
  on (regs cap64 [(2, cap true 0x01FF000008000000 0x100)]) 0x6105 (fun t => t.rc 2 == cap false 0x01FF000008000000 0x120) = true ∧
  on (regs cap64 [(2, inf64 0x100)]) 0x0808 (fun t => t.rc 10 == inf64 0x110 && t.rc 2 == inf64 0x100) = true := by decide +kernel
theorem test_c_jumps : links (regs (pccAt cap64 (cap true 0x01FF800000000000 0x80000010)) [(10, cap true 0x01FF800008000000 0x80000040)]) 0x9502 1
    (cap true 0x01FF800008000000 0x80000012) (cap true 0x01FF800000000000 0x80000040) = true ∧
  on (regs cap64 [(1, cap true 0x01FF800008000000 0x80000041)]) 0x8082 (fun t => t.pcc == cap true 0x01FF800000000000 0x80000040 && t.rc 1 == cap true 0x01FF800008000000 0x80000041) = true ∧
  links cap32 0x2001 1 (cap true 0xFE100000 0x80000002) (cap true 0xFE000000 0x80000000) = true ∧ pcIs leg64 0xA001 0x80000000 = true ∧
  pcIs leg64 0xC501 0x80000008 = true ∧ pcIs leg64 0xE501 0x80000002 = true := by decide +kernel
def memC : State := regs (bytes cap64 0x80010000 16 0x0000000000000099FFFF8180FFFF8180) [(10, capA), (2, capA), (11, int 0x1122334455667788)]
/-- Register 11 after a compressed load. -/
def loads11 (w v : Nat) : Bool := on memC w fun t => t.rc 11 == int v && t.pc == 0x80000002
theorem test_c_loads : loads11 0x414C 0xFFFFFFFFFFFF8180 = true ∧ loads11 0x650C 0x99 = true ∧ loads11 0x814C 0x81 = true ∧ loads11 0x852C 0xFFFF = true ∧
  loads11 0x856C 0xFFFFFFFFFFFFFFFF = true ∧ on memC 0x4522 (fun t => t.rc 10 == int 0x99) = true ∧ on memC 0x6522 (fun t => t.rc 10 == int 0x99) = true := by decide +kernel
theorem test_c_stores : on memC 0xC14C (fun t => memIs t 0x80010004 4 0x55667788) = true ∧ on memC 0xE50C (fun t => memIs t 0x80010008 8 0x1122334455667788) = true ∧
  on memC 0x894C (fun t => memIs t 0x80010000 4 0xFFFF8880) = true ∧ on memC 0x8D2C (fun t => memIs t 0x80010000 4 0x77888180) = true ∧
  on memC 0xC42A (fun t => memIs t 0x80010008 8 0x80010000) = true ∧ on memC 0xE42A (fun t => memIs t 0x80010008 8 0x80010000) = true := by decide +kernel
theorem test_c_capabilities : on (regs memL1 [(10, capA)]) 0x290C (fun t => t.rc 11 == inf64 0xABCD) = true ∧
  on (regs cap64 [(10, capA), (11, inf64 0xABCD)]) 0xA90C (fun t => t.mem == memL1.mem) = true ∧
  on (regs memL1 [(2, inf64 0x8000FFF0)]) 0x3082 (fun t => t.rc 1 == inf64 0xABCD) = true ∧
  on (regs cap64 [(2, inf64 0x8000FFF0), (1, inf64 0xABCD)]) 0xB006 (fun t => t.mem == memL1.mem) = true := by decide +kernel
def tight (v n : Nat) : State := bytes (pccAt cap64 (cap true 0x01FF800004408000 0x80000100)) 0x80000100 n v
theorem test_fetch_bounds : after (step (tight 0x0001 2)) (fun t => t.pc == 0x80000102) = true ∧
  after (step (tight 0x00000013 4)) (fun t => t.csr.mcause == 28 && t.csr.mtval == 3 && t.csr.mepcc.addr == 0x80000100) = true := by decide +kernel

/-! ## Zcmp and Zcmt (2.14) -/

def stk : State := regs leg32 [(2, int 0x80010100), (1, int 0x11), (8, int 0x88), (9, int 0x99)]
theorem test_push : on stk 0xB866 (fun t => memIs t 0x800100F4 12 0x000000990000008800000011 && t.rc 2 == int 0x800100E0 && t.pc == 0xFFFFFFFF80000002) = true ∧
  on (regs cap32 [(2, cap true 0x1E0C0000 0x80010100), (1, inf32 1), (8, inf32 8), (9, inf32 9)]) 0xB862
    (fun t => memIs t 0x800100E8 24 0xFC00000000000009FC00000000000008FC00000000000001 && t.mem.tags == [0x1000201D, 0x1000201E, 0x1000201F]
      && t.rc 2 == cap true 0x1E0C0000 0x800100E0) = true := by decide +kernel
theorem test_push_fault : traps (regs cap32 [(2, cap true 0x160C0000 0x80010100)]) 0xB862 28 0x10003 = false ∧
  traps (regs cap32 [(2, cap true 0x120C0000 0x80010100)]) 0xB862 28 0x10002 = true := by decide +kernel
theorem test_pop : on (regs (bytes leg32 0x800100F4 12 0x000000990000008800000011) [(2, int 0x800100E0)]) 0xBA66
  (fun t => t.rc 9 == int 0x99 && t.rc 8 == int 0x88 && t.rc 1 == int 0x11 && t.rc 2 == int 0x80010100) = true := by decide +kernel
def stkRet : State := regs (bytes leg32 0x800100FC 4 0x80000020) [(2, int 0x800100F0), (10, int 7)]
theorem test_popret : on stkRet 0xBE42 (fun t => t.rc 1 == int 0x80000020 && t.rc 2 == int 0x80010100 && t.pcc == inf32 0x80000020 && t.rc 10 == int 7) = true ∧
  on stkRet 0xBC42 (fun t => t.rc 1 == int 0x80000020 && t.rc 2 == int 0x80010100 && t.pcc == inf32 0x80000020 && t.rc 10 == int 0) = true := by decide +kernel
theorem test_moves : on (regs cap64 [(10, inf64 1), (11, inf64 2)]) 0xAC26 (fun t => t.rc 8 == inf64 1 && t.rc 9 == inf64 2) = true ∧
  on (regs leg64 [(8, inf64 1), (9, inf64 2)]) 0xAC66 (fun t => t.rc 10 == int 1 && t.rc 11 == int 2) = true := by decide +kernel
def tbl (k : Cap) : State := bytes (bytes (csrs (pccAt leg64 (inf64 0x80000010)) ({ · with jvtc := k })) 0x80008018 8 0x80000100) 0x80008100 8 0x80000200
theorem test_table_jumps : on (tbl (inf64 0x80008000)) 0xA00E (fun t => t.pcc == inf64 0x80000100) = true ∧
  links (tbl (inf64 0x80008000)) 0xA082 1 (int 0x80000012) (inf64 0x80000200) = true ∧ traps (tbl (cap false 0 0x80008000)) 0xA00E 28 0 = true ∧
  traps (tbl (cap true 0x01FF000004060000 0x80008000)) 0xA00E 28 3 = true := by decide +kernel

/-! ## Cache blocks, prefetches, Zba (2.15) -/

def blk (k : Cap) : State := regs (tagAt (tagAt (tagAt (tagAt (bytes cap64 0x80011000 72 (2 ^ 572)) 0x80011000) 0x80011010) 0x80011030) 0x80011040) [(5, k)]
theorem test_cbo_zero : on (blk (cap true 0x0007800004101000 0x80011010)) 0x0042A00F
    (fun t => memIs t 0x80011000 72 (2 ^ 572 / 2 ^ 512 * 2 ^ 512) && t.mem.tags == [0x8001104] && t.pc == 0x80000004) = true ∧
  traps (blk (cap true 0x0007800004101010 0x80011010)) 0x0042A00F 28 0x10003 = true ∧ traps user64 0x0042A00F 2 0 = true ∧
  traps (blk (cap true 0x0004800004101000 0x80011010)) 0x0042A00F 28 0x10002 = true := by decide +kernel
theorem test_cbo_inval : traps (pccAt (blk (inf64 0x80011000)) (cap true 0x000F800000000000 0x80000000)) 0x0002A00F 28 2 = true ∧
  pcIs (blk (inf64 0x80011000)) 0x0002A00F 0x80000004 = true := by decide +kernel
theorem test_cbo_manage : ([0x0012A00F, 0x0022A00F].all fun w => pcIs (blk (cap true 0x0004800004081010 0x80011010)) w 0x80000004 &&
  traps (blk (cap true 0x0008800004101000 0x80011010)) w 28 0x10002) = true := by decide +kernel
theorem test_prefetch : ([0x0012E013, 0x0032E013, 0x0002E013].all fun w => on cap64 w fun t => t == { cap64 with pcc := cap true 0x01FF800000000000 0x80000004 }) = true :=
  by decide +kernel
def ptr : Cap := cap true 0x0007800000018004 0x80010000
theorem test_shadd : manip cap64 0x2072C333 [(int 3, ptr, cap true 0x0007800000018004 0x8001000C), (int 3, cap true 0x0007800008018004 0x80010000, cap false 0x0007800008018004 0x8001000C),
    (int 0x10000, cap true 0x0007800004080000 0x80010000, cap false 0x0007800004080000 0x80050000)] = true ∧
  manip cap64 0x2072A333 [(int 3, ptr, cap true 0x0007800000018004 0x80010006)] = true ∧ manip cap64 0x2072E333 [(int 3, ptr, cap true 0x0007800000018004 0x80010018)] = true ∧
  manip leg64 0x2072F333 [(int 3, int 0x100, int 0x130)] = true := by decide +kernel
theorem test_shadd_uw : manip cap64 0x2072E33B [(int 0xFFFFFFFF00000002, ptr, cap true 0x0007800000018004 0x80010010)] = true ∧
  manip leg64 0x2072A33B [(int 0xFFFFFFFF00000002, int 1, int 5)] = true ∧ manip leg64 0x2072C33B [(int 0xFFFFFFFF00000002, int 1, int 9)] = true ∧
  manip leg64 0x2072F33B [(int 0xFFFFFFFF00000002, int 1, int 33)] = true := by decide +kernel

/-! ## Traps, returns, interrupts (2.16) -/

theorem test_trap_entry : (let t := takeException (csrs (pccAt leg64 (inf64 0x80000024)) ({ · with mstatus := 8, mtvecc := inf64 0x80000040 })) ⟨28, 0x10003⟩
  t.csr.mepcc == inf64 0x80000024 && t.csr.mcause == 28 && t.csr.mtval == 0x10003 && t.csr.mstatus == 0x1880 && t.pcc == inf64 0x80000040) = true := by decide +kernel
def vectored : State := csrs leg64 ({ · with mtvecc := inf64 0x80000101, mstatus := 8, mie := 0x80, mip := 0 })
theorem test_interrupt : after (step { vectored with irqIn := 0x80 }) (fun t => t.pcc == inf64 0x8000011C && t.csr.mcause == 0x8000000000000007 && t.csr.mtval == 0) = true ∧
  (takeException vectored ⟨2, 0⟩).pcc = inf64 0x80000100 ∧
  after (step { csrs vectored ({ · with mstatus := 0 }) with irqIn := 0x80 }) (fun t => t.csr.mcause == 2) = true := by decide +kernel
def retM : State := csrs leg64 ({ · with mepcc := cap true 0x01FF800008000000 0x80000200, mstatus := 0xA00000080, menvcfg := 0x20000000, senvcfg := 0x30000000 })
theorem test_mret : on retM 0x30200073 (fun t => t.pcc == cap true 0x01FF800000000000 0x80000200 && t.priv == .user && t.csr.mstatus == 0xA00000088 && t.capMode) = true ∧
  on (csrs retM ({ · with senvcfg := 0 })) 0x30200073 (fun t => !t.capMode) = true ∧ traps (pccAt leg64 (cap true 0x000F000000000000 0x80000000)) 0x30200073 28 2 = true ∧
  traps user64 0x30200073 2 0 = true := by decide +kernel
theorem test_sret : on (csrs sup64 ({ · with sepcc := inf64 0x80001004, mstatus := 0xA00000020 })) 0x10200073
  (fun t => t.pcc == inf64 0x80001004 && t.priv == .user && t.csr.mstatus == 0xA00000022) = true := by decide +kernel
/-- S without U: MRET sets MPP to S, and neither return goes below it; MPRV is cleared (R228, R229). -/
theorem test_return_without_u : on { csrs retM ({ · with mstatus := 0xA00020080 }) with cfg := { hasU := false } } 0x30200073
    (fun t => t.priv == .supervisor && t.csr.mstatus == 0xA00000888) = true ∧
  on { csrs sup64 ({ · with mstatus := 0xA00020020 }) with cfg := { hasU := false } } 0x10200073 (fun t => t.priv == .supervisor && t.csr.mstatus == 0xA00000022) = true :=
  by decide +kernel
theorem test_untagged_pcc : after (step (pccAt leg64 (cap false 0x01FF000000000000 0x80000000))) (fun t => t.csr.mcause == 28 && t.csr.mtval == 0) = true ∧
  after (step (pccAt leg64 (cap true 0x0017000000000000 0x80000000))) (fun t => t.csr.mcause == 28 && t.csr.mtval == 2) = true := by decide +kernel
theorem test_delegation : (let t := takeException (csrs (pccAt user64 (inf64 0x80001000)) ({ · with medeleg := 0x10000000, stvecc := inf64 0x80002000, mstatus := 0xA00000002 })) ⟨28, 0x10000⟩
  t.csr.sepcc == inf64 0x80001000 && t.csr.scause == 28 && t.csr.stval == 0x10000 && t.csr.mstatus == 0xA00000020 && t.priv == .supervisor && t.pcc == inf64 0x80002000
    && t.csr.mcause == 0) = true := by decide +kernel
theorem test_ecall : traps user64 0x73 8 0 = true ∧ traps sup64 0x73 9 0 = true ∧ traps leg64 0x73 11 0 = true := by decide +kernel
theorem test_ebreak : traps leg64 0x100073 3 0x80000000 = true ∧ traps leg64 0x9002 3 0x80000000 = true ∧
  on (csrs leg64 ({ · with dcsr := 0x4000B003 })) 0x100073 (fun t => t.debug && t.csr.dpcc == inf64 0x80000000 && t.csr.dcsr == 0x4000B043) = true := by decide +kernel
theorem test_dret : on { csrs debug64 ({ · with dpcc := inf64 0x80000040, dcsr := 0x40000000 }) with dinfcM := false, resumeReq := true } 0x7B200073
  (fun t => !t.debug && !t.resumeReq && t.pcc == inf64 0x80000040 && t.priv == .user) = true ∧ traps leg64 0x7B200073 2 0 = true := by decide +kernel
theorem test_fences : ([0x0FF0000F, 0x0000100F, 0x10500073, 0x12728073].all fun w => pcIs leg64 w 0x80000004) = true ∧
  traps (csrs user64 ({ · with mstatus := 0xA00200000 })) 0x10500073 2 0 = true ∧ traps user64 0x12728073 2 0 = true := by decide +kernel

/-! ## Witnesses: for each statement with hypotheses, a state and operands that meet them, clause by clause -/

theorem permits_of (s : State) (auth : Cap) (ea : Word) (n : Nat) (kind : Acc)
    (h : s.bpHit kind ea = false ∧ s.checkData auth ea n kind = .ok ()) : s.permits auth ea n kind :=
  ⟨h.1, (checkData_eq_ok _ _ _ _ _ _).1 h.2⟩
theorem canAccess_of (s : State) (auth : Cap) (ea : Word) (n : Nat) (kind : Acc) (al : Align) (as : List Nat)
    (h : s.dataAccess auth ea n kind al = .ok as) : s.canAccess auth ea n kind al as := (dataAccess_eq_ok _ _ _ _ _ _ _).1 h
theorem canStoreCap_of (s : State) (auth : Cap) (ea : Word) (v : Cap) (kind : Acc) (pa : Nat)
    (h : (s.bpHit kind ea = false ∧ s.checkData auth ea s.cfg.capBytes kind = .ok ()) ∧ ea.toNat % s.cfg.capBytes = 0 ∧
      s.translate kind ea = .ok ⟨pa, none⟩ ∧ (span pa s.cfg.capBytes).all (Params.isMapped s.cfg) = true ∧ Params.isTaggable s.cfg pa = true) :
    s.canStoreCap auth ea v kind pa := by
  obtain ⟨h1, h2, h3, h4, h5⟩ := h
  exact ⟨permits_of _ _ _ _ _ h1, h2, ⟨_, h3, rfl, .inr (.inl rfl)⟩, List.all_eq_true.1 h4, .inr (.inl h5)⟩
theorem next_of (o : Host.Outcome State Fault Refusal) (h : after o (fun _ => true) = true) : ∃ t, o = .next t := by
  cases o with
  | next t => exact ⟨t, rfl⟩
  | fault f => simp [after] at h
  | refused r => simp [after] at h
def isOk (r : Except DecodeError Instr) (i : Instr) : Bool := match r with
  | .ok j => i == j
  | .error _ => false
theorem decode_of (c : Ctx) (e : Enc) (i : Instr) (h : isOk (decodeEnc c e) i = true) : decodeEnc c e = .ok i := by
  unfold isOk at h
  split at h
  · next j hj => rw [hj, beq_iff_eq.1 h]
  · simp at h

theorem witness_decode_of_encode : (ctxSane cap64Ctx ∧ cap64Ctx.legal (.cAddi16sp 0x20) = true) ∧ (ctxSane cap32Ctx ∧ cap32Ctx.legal (.cmJalt 255) = true) ∧
  (ctxSane tableCtx ∧ tableCtx.legal (.jal 31 0x80000) = true) := by unfold ctxSane; decide +kernel
theorem witness_encode_of_decode : decodeEnc tableCtx (.word 0x0C728333) = .ok (.cadd 6 5 7) ∧ decodeEnc tableCtx (.half 0x4005) = .ok hintNop :=
  ⟨decode_of _ _ _ (by decide +kernel), decode_of _ _ _ (by decide +kernel)⟩

/-- An instruction at the pc of RV64 Legacy mode after reset. -/
def at64 (n v : Nat) : State := bytes leg64 0x80000000 n v
theorem witness_step : (at64 4 0x10028333).debug = false ∧ ((at64 4 0x10028333).haltReq && (at64 4 0x10028333).cfg.hasSdext) = false ∧
  (at64 4 0x10028333).interrupt = none ∧ (at64 4 0x10028333).fetch = .ok (.word 0x10028333) ∧
  decodeEnc (at64 4 0x10028333).ctx (.word 0x10028333) = .ok (.gctag 6 5) :=
  ⟨by decide, by decide, by decide +kernel, by decide +kernel, decode_of _ _ _ (by decide +kernel)⟩
/-- MUL, which has no row of the opcode table. -/
theorem witness_step_extension : (at64 4 0x02730333).debug = false ∧ (at64 4 0x02730333).interrupt = none ∧ (at64 4 0x02730333).fetch = .ok (.word 0x02730333) ∧
  decodeEnc (at64 4 0x02730333).ctx (.word 0x02730333) = .error .reserved ∧
  decodeExt (at64 4 0x02730333).ctx (.word 0x02730333) = some ⟨.mul, 6, 6, .reg 7, .std⟩ :=
  ⟨by decide, by decide +kernel, by decide +kernel, rfl, by decide +kernel⟩
/-- FADD.S, with FS on. -/
def floatAt (w : Nat) : State := csrs (at64 4 w) ({ · with mstatus := 0x2000 })
theorem witness_step_float : (floatAt 0x00728353).debug = false ∧ (floatAt 0x00728353).interrupt = none ∧ (floatAt 0x00728353).fetch = .ok (.word 0x00728353) ∧
  decodeEnc (floatAt 0x00728353).ctx (.word 0x00728353) = .error .reserved ∧ decodeExt (floatAt 0x00728353).ctx (.word 0x00728353) = none ∧
  decodeFp (floatAt 0x00728353).ctx (.word 0x00728353) = some ⟨.add, .single, 6, 5, 7, 0, 0⟩ :=
  ⟨by decide, by decide +kernel, by decide +kernel, rfl, by decide +kernel, by decide +kernel⟩
theorem witness_step_stepping : (csrs (at64 2 1) ({ · with dcsr := 0x40000007 })).holdsInterrupts = true ∧ (csrs (at64 2 1) ({ · with dcsr := 0x40000007 })).fetch = .ok (.half 1) ∧
  decodeEnc (csrs (at64 2 1) ({ · with dcsr := 0x40000007 })).ctx (.half 1) = .ok hintNop :=
  ⟨by decide +kernel, by decide +kernel, decode_of _ _ _ (by decide +kernel)⟩
def dbg (l : List (BitVec 16)) : State := { debug64 with progBuf := l }
theorem witness_step_debug : ((dbg [0x852E]).debug = true ∧ isHalf 0x852E = true ∧ decodeEnc (dbg [0x852E]).ctx (.half 0x852E) = .ok (.cMv 10 11)) ∧
  ((dbg [0x8333, 0x1002]).debug = true ∧ isHalf 0x8333 = false ∧ decodeEnc (dbg [0x8333, 0x1002]).ctx (.word 0x10028333) = .ok (.gctag 6 5)) ∧
  ((dbg []).debug = true ∧ (dbg []).progBuf = [] ∧ (dbg []).command = none ∧ (dbg []).resumeReq = false ∧ ({ dbg [] with resumeReq := true }).resumeReq = true) :=
  ⟨⟨rfl, by decide, decode_of _ _ _ (by decide +kernel)⟩, ⟨rfl, by decide, decode_of _ _ _ (by decide +kernel)⟩, rfl, rfl, rfl, rfl, rfl⟩
/-- A command that writes x5, and one of a register that does not exist. -/
def cmd (n : BitVec 16) (w : Bool) : DebugCmd := ⟨n, true, true, w, [0x0001]⟩
def withCmd (c : DebugCmd) : State := { dbg [] with command := some c, debugData := 7 }
theorem witness_commands : ((withCmd (cmd 0x1005 true)).cmdErr = false ∧ (withCmd (cmd 0x1005 true)).transfer (cmd 0x1005 true) = .ok ((withCmd (cmd 0x1005 true)).wx 5 7)) ∧
  (withCmd (cmd 0x2000 false)).transfer (cmd 0x2000 false) = .exc ⟨2, 0⟩ ∧ ({ withCmd (cmd 0x1005 true) with cmdErr := true }).cmdErr = true := by decide +kernel
/-- A command reads a CSR into the data register and then runs the buffer it names; after an error it is dropped. -/
theorem test_commands : after (step (withCmd (cmd 0x0340 false))) (fun t => t.debugData == 0 && t.command == none && t.progBuf == [0x0001]) = true ∧
  after (step (withCmd (cmd 0x1005 true))) (fun t => t.rc 5 == int 7) = true ∧
  after (step (withCmd (cmd 0x2000 false))) (fun t => t.cmdErr && t.progBuf == []) = true ∧
  after (step { withCmd (cmd 0x1005 true) with cmdErr := true }) (fun t => t.rc 5 == int 0 && t.command == none) = true ∧
  after (step { dbg [] with resumeReq := true }) (fun t => !t.debug && !t.resumeReq) = true := by decide +kernel

/-- What O5 asks before its three clauses, and the parcel they turn on. -/
def fetchable (s : State) : Bool := !s.bpHit .fetch s.fetchAddr && s.pcc.tag && !s.pcc.s s.cfg && (s.pcc.perms s.cfg).x && s.pcc.inBounds s.cfg s.pcc.addr 2 &&
  decide (s.translateAs s.priv .fetch s.fetchAddr = .ok ⟨0x80000000, none⟩) && (span 0x80000000 2).all (Params.isMapped s.cfg)
theorem witness_fetch : fetchable (at64 4 0) = true ∧ (fetchable (at64 4 0x0000001F) = true ∧ (0x001F#16).extractLsb' 0 2 = 3 ∧ (0x001F#16).extractLsb' 2 3 = 7) ∧
  (fetchable (at64 4 0x10028333) = true ∧ (0x8333#16).extractLsb' 0 2 = 3 ∧ (0x8333#16).extractLsb' 2 3 ≠ 7 ∧
    (at64 4 0x10028333).pcc.inBounds (at64 4 0x10028333).cfg (at64 4 0x10028333).pcc.addr 4 = true ∧
    (at64 4 0x10028333).translateAs .machine .fetch ((at64 4 0x10028333).cutX ((at64 4 0x10028333).fetchAddr + 2)) = .ok ⟨0x80000002, none⟩ ∧
    ∀ a ∈ span 0x80000002 2, Params.isMapped (at64 4 0x10028333).cfg a = true) := by decide +kernel
/-- A trigger on one kind of access, in every mode; its action is debug-mode entry, or a breakpoint exception. -/
def trig (a : Nat) (k : Acc) (d : Bool) : Trigger :=
  { addr := BitVec.ofNat 64 a, enabled := true, dmode := d, toDebug := d, m := true, s := true, u := true, execute := k == .fetch, store := k == .store, load := k == .load }
/-- A trigger on a fetch, which raises the exception or asks for debug mode; and the translation's stops, of S-mode under Sv39. -/
def watchedFetch (d : Bool) : State := { leg64 with triggers := [trig 0x80000000 .fetch d] }
def sv39 (root entry : Nat) (pc : Nat) : State := bytes (csrs (pccAt sup64 (inf64 pc)) ({ · with satp := BitVec.ofNat 64 (2 ^ 63 + root) })) 0x80001010 8 entry
theorem witness_fetch_faults : ((watchedFetch true).haltHit .fetch 0x80000000 = true) ∧
  ((watchedFetch false).haltHit .fetch 0x80000000 = false ∧ (watchedFetch false).bpHit .fetch 0x80000000 = true) ∧
  ((sv39 0x80001 0 0x8000000000).svMode .supervisor = some (⟨3, 9, 8⟩, 0x80001000) ∧ (⟨3, 9, 8⟩ : SvMode).valid 0x8000000000 = false) ∧
  ((⟨3, 9, 8⟩ : SvMode).valid 0x80000000 = true ∧ (rootEntry ⟨3, 9, 8⟩ 0x1000 0x80000000).all (Params.isMapped p64) = false) ∧
  ((rootEntry ⟨3, 9, 8⟩ 0x80001000 0x80000000).all (Params.isMapped p64) = true ∧
    ((sv39 0x80001 0 0x80000000).entryAt (rootEntry ⟨3, 9, 8⟩ 0x80001000 0x80000000)).getLsbD 0 = false ∧
    (sv39 0x80001 0 0x80000000).cachedLeaf ⟨3, 9, 8⟩ 0x80000000 = none) ∧
  (fetchable (at64 4 0) = true ∧ (pccAt leg64 (inf64 0x70000000)).translateAs .machine .fetch 0x70000000 = .ok ⟨0x70000000, none⟩ ∧
    Params.isMapped p64 0x70000000 = false) ∧ (at64 4 0x10028333).translateAs .machine .fetch 0x80000002 = .ok ⟨0x80000002, none⟩ := by decide +kernel
theorem test_fetch_faults : after (step (watchedFetch true)) (fun t => t.debug && t.csr.dcsr.toNat / 64 % 8 == 2 && t.csr.dpcc == inf64 0x80000000) = true ∧
  after (step (watchedFetch false)) (fun t => t.csr.mcause == 3 && t.csr.mtval == 0x80000000) = true ∧
  after (step (sv39 0x80001 0 0x8000000000)) (fun t => t.csr.mcause == 12 && t.csr.mtval == 0x8000000000) = true ∧
  after (step (sv39 0x00001 0 0x80000000)) (fun t => t.csr.mcause == 1) = true ∧
  after (step (sv39 0x80001 0 0x80000000)) (fun t => t.csr.mcause == 12 && t.csr.mtval == 0x80000000) = true ∧
  after (step (pccAt leg64 (inf64 0x70000000))) (fun t => t.csr.mcause == 1 && t.csr.mtval == 0x70000000) = true := by decide +kernel
theorem witness_undecodable : (leg64.interrupt = none ∧ leg64.stepping = false ∧ leg64.fetch = .ok (.half 0) ∧ decodeEnc leg64.ctx (.half 0) = .error .illFormed ∧
    decodeExt leg64.ctx (.half 0) = none ∧ decodeFp leg64.ctx (.half 0) = none) ∧
  ((floatAt 0x0072D353).fetch = .ok (.word 0x0072D353) ∧ decodeEnc (floatAt 0x0072D353).ctx (.word 0x0072D353) = .error .reserved ∧
    decodeExt (floatAt 0x0072D353).ctx (.word 0x0072D353) = none ∧ decodeFp (floatAt 0x0072D353).ctx (.word 0x0072D353) = none) :=
  ⟨⟨by decide +kernel, by decide +kernel, by decide +kernel, rfl, by decide +kernel, by decide +kernel⟩, by decide +kernel, rfl, by decide +kernel, by decide +kernel⟩
/-- An odd region: one byte short of a 16-bit instruction, and two short of a 32-bit one. -/
def shortPcc (m : Nat) : State := pccAt (at64 4 0x13) (cap true m 0x80000000)
theorem witness_pcc_checks : ((pccAt leg64 (cap false 0 0)).bpHit .fetch (pccAt leg64 (cap false 0 0)).fetchAddr = false ∧ (pccAt leg64 (cap false 0 0)).pcc.tag = false) ∧
  ((pccAt leg64 (cap true 0x01FF000008000000 0)).pcc.s p64 = true) ∧
  ((pccAt leg64 (cap true 0x0017000000000000 0)).pcc.s p64 = false ∧ ((pccAt leg64 (cap true 0x0017000000000000 0)).pcc.perms p64).x = false) ∧
  ((shortPcc 0x01FF000004004000).pcc.s p64 = false ∧ ((shortPcc 0x01FF000004004000).pcc.perms p64).x = true ∧
    (shortPcc 0x01FF000004004000).pcc.inBounds p64 0x80000000 1 = true ∧ (shortPcc 0x01FF000004004000).pcc.inBounds p64 0x80000000 2 = false) ∧
  ((shortPcc 0x01FF000004008000).pcc.inBounds p64 0x80000000 2 = true ∧ (shortPcc 0x01FF000004008000).parcel 0x80000000 = .ok 0x13 ∧ isHalf 0x13 = false ∧
    (0x13#16).extractLsb' 2 3 ≠ 7 ∧ (shortPcc 0x01FF000004008000).pcc.inBounds p64 0x80000000 4 = false) ∧
  (shortPcc 0x01FF000004008000).fetch = .exc ⟨28, 3⟩ := by decide +kernel
/-- The model's choice (log 9): the first parcel of a 32-bit instruction as the last of the buffer ends it with an error; after a whole one it ends without. -/
theorem test_buffer_end : after (step (dbg [0x8333])) (fun t => t.debug && t.cmdErr && t.progBuf == []) = true ∧
  after (step (dbg [0x8333, 0x1002])) (fun t => t.debug && !t.cmdErr && t.progBuf == []) = true := by decide +kernel
/-- The program buffer runs under a pcc without a tag. -/
theorem test_debug_pcc : after (step (pccAt (dbg [0x852E]) nullCap)) (fun t => t.progBuf == [] && !t.cmdErr) = true := by decide +kernel
theorem witness_reset_invariant : ({} : Params).bootAddr.getLsbD 0 = false ∧ truncX {} ({} : Params).bootAddr = ({} : Params).bootAddr := by decide
theorem witness_step_invariant : leg64.Inv ∧ (∃ t, step leg64 = .next t) ∧ (dbg [0x0001]).Inv ∧ ∃ t, step (dbg [0x0001]) = .next t :=
  ⟨by unfold State.Inv; decide +kernel, next_of _ (by decide +kernel), by unfold State.Inv; decide +kernel, next_of _ (by decide +kernel)⟩
theorem witness_capability_invariant : leg64.CapInv :=
  ⟨by decide +kernel, by decide +kernel, fun c => by cases c <;> decide +kernel, fun g h => by simp [leg64, State.reset, State.resetWith, Memory.tagOf] at h⟩
theorem witness_debug_boundary : (∃ t, exec .dret debug64 = .next t ∧ debug64.debug = true ∧ t.debug = false) ∧
  ∃ t, exec (.ebreak .std) (csrs leg64 ({ · with dcsr := 0x40008003 })) = .next t ∧ (csrs leg64 ({ · with dcsr := 0x40008003 })).debug = false ∧ t.debug = true :=
  ⟨⟨debug64.leaveDebug, rfl, rfl, rfl⟩, (csrs leg64 ({ · with dcsr := 0x40008003 })).enterDebug 1, rfl, rfl, rfl⟩
/-- A load that meets a trigger set to enter debug mode. -/
theorem test_trigger : on { leg64 with triggers := [trig 0 .load true] } 0x00002303 (fun t => t.debug && t.csr.dcsr.toNat / 64 % 8 == 2) = true ∧
  { leg64 with triggers := [trig 0 .load true] }.touches (.lw 6 0 0) .load 0 ∧ { leg64 with triggers := [trig 0 .load true] }.haltHit .load 0 = true :=
  ⟨by decide +kernel, .inl ⟨0, 0, 4, .plain, by decide +kernel, by decide +kernel⟩, by decide +kernel⟩
theorem witness_privilege : (∃ t, exec .ecall user64 = .next t) ∧ ∃ t, exec .mret leg64 = .next t := ⟨next_of _ (by decide +kernel), next_of _ (by decide +kernel)⟩
theorem witness_trap_machine : (leg64.debug = false ∧ leg64.priv = .machine ∧ (Exc.mk 30 0).code < 31) ∧
  (user64.debug = false ∧ user64.cfg.hasS = true ∧ user64.priv ≠ .machine ∧ user64.csr.medeleg.getLsbD (Exc.mk 0 0).code = false) ∧ debug64.debug = true := by decide
theorem witness_trap_supervisor : (csrs user64 ({ · with medeleg := 0x10000000 })).debug = false ∧ user64.cfg.hasS = true ∧ user64.priv ≠ .machine ∧
  (csrs user64 ({ · with medeleg := 0x10000000 })).csr.medeleg.getLsbD (Exc.mk 28 0).code = true ∧ (Exc.mk 28 0).code < 31 := by decide
/-- Pending, enabled and nothing else; and the same delegated, in U-mode. -/
def pend (i : Nat) : State :=
  { csrs { leg64 with cfg := { hicause := 63 } } ({ · with mstatus := 0xA00000008, mie := BitVec.ofNat 64 (2 ^ i), mip := BitVec.ofNat 64 (2 ^ i) &&& 0x222 }) with irqIn := BitVec.ofNat 64 (2 ^ i) }
def pendS (i : Nat) : State := { csrs (pend i) ({ · with mideleg := BitVec.ofNat 64 (2 ^ i), stvecc := inf64 0x80000101 }) with priv := .user }
theorem witness_interrupt : ([(0, 11), (1, 3), (4, 1), (6, 16), (53, 63)].all fun x =>
    decide ((pend x.2).debug = false) && decide (((pend x.2).haltReq && (pend x.2).cfg.hasSdext) = false) && decide ((pend x.2).stepping = false) && (pend x.2).st 3 &&
      decide (interruptOrder = interruptOrder.take x.1 ++ x.2 :: interruptOrder.drop (x.1 + 1)) && (pend x.2).mipVal.getLsbD x.2 &&
      (pend x.2).csr.mie.getLsbD x.2 && !(pend x.2).csr.mideleg.getLsbD x.2 &&
      (interruptOrder.take x.1).all fun j => !((pend x.2).mipVal &&& (pend x.2).csr.mie &&& ~~~(pend x.2).csr.mideleg).getLsbD j) = true ∧
  ({ pend 11 with priv := .user }).priv ≠ .machine := by decide +kernel
theorem witness_interrupt_delegated : ([(3, 9), (4, 1), (6, 16)].all fun x =>
    decide ((pendS x.2).debug = false) && decide ((pendS x.2).stepping = false) && (pendS x.2).cfg.hasS && decide ((pendS x.2).priv = .user) && (pendS x.2).mipVal.getLsbD x.2 &&
      (pendS x.2).csr.mie.getLsbD x.2 && (pendS x.2).csr.mideleg.getLsbD x.2 &&
      (interruptOrder.all fun j => !((pendS x.2).mipVal &&& (pendS x.2).csr.mie &&& ~~~(pendS x.2).csr.mideleg).getLsbD j) &&
      (interruptOrder.take x.1).all fun j => !((pendS x.2).mipVal &&& (pendS x.2).csr.mie &&& (pendS x.2).csr.mideleg).getLsbD j) = true ∧
  (({ csrs sup64 ({ · with mstatus := 0xA00000002 }) with irqIn := 0 }).priv = .supervisor ∧ (csrs sup64 ({ · with mstatus := 0xA00000002 })).st 1 = true) := by decide +kernel
/-- Vectored, into S-mode (R374). -/
theorem test_interrupt_delegated : after (step (pendS 9)) (fun t => t.pcc == inf64 0x80000124 && t.csr.scause == 0x8000000000000009 && t.priv == .supervisor &&
  t.csr.sepcc == inf64 0x80000000 && t.csr.mcause == 0) = true := by decide +kernel
theorem witness_halt : ({ leg64 with haltReq := true }).debug = false ∧ ({ leg64 with haltReq := true }).haltReq = true ∧ ({ leg64 with haltReq := true }).cfg.hasSdext = true ∧
  leg64.cfg.hasLegacy = true := by decide
/-- Halt on reset: debug mode before the first instruction, with cause 5 (R395). -/
theorem test_reset_halt : after (step (State.resetWith { haltOnReset := true })) (fun t => t.debug && t.csr.dcsr.toNat / 64 % 8 == 5 && t.csr.dpcc == inf64 0x80000000 && !t.resetHalt) = true ∧
  after (step { leg64 with haltReq := true }) (fun t => t.csr.dcsr.toNat / 64 % 8 == 3) = true := by decide +kernel
theorem witness_mret : (leg64.priv = .machine ∧ (leg64.pcc.perms leg64.cfg).asr = true) ∧ debug64.debug = true := by decide +kernel
theorem witness_sret : (sup64.priv = .supervisor ∧ sup64.st 22 = false ∧ (sup64.pcc.perms sup64.cfg).asr = true) ∧ leg64.priv = .machine := by decide +kernel
theorem witness_dret : debug64.debug = true := rfl
def noAsr (s : State) : State := pccAt s (cap true 0x000F000000000000 0x80000000)
theorem witness_return_checks : (user64.debug = false ∧ user64.priv ≠ .machine) ∧ (leg64.priv = .machine ∧ ((noAsr leg64).pcc.perms leg64.cfg).asr = false) ∧ user64.priv = .user ∧
  (sup64.priv = .supervisor ∧ (csrs sup64 ({ · with mstatus := 0x400000 })).st 22 = true) ∧ (sup64.st 22 = false ∧ ((noAsr sup64).pcc.perms sup64.cfg).asr = false) := by decide +kernel
theorem witness_ebreak : (leg64.debug = false ∧ leg64.csr.dcsr.getLsbD 15 = false) ∧
  (leg64.cfg.hasSdext = true ∧ (csrs leg64 ({ · with dcsr := 0x40008003 })).csr.dcsr.getLsbD 15 = true) ∧ debug64.debug = true := by decide +kernel
theorem witness_no_effect : leg64.priv = .machine ∧ (user64.debug = false ∧ user64.priv ≠ .machine ∧ user64.st 21 = false ∧ (csrs user64 ({ · with mstatus := 0x200000 })).st 21 = true) ∧
  ({ user64 with cfg := { hasS := false } }).cfg.hasS = false ∧ user64.cfg.hasS = true ∧ (sup64.priv = .supervisor ∧ sup64.st 20 = false) ∧ (csrs sup64 ({ · with mstatus := 0x100000 })).st 20 = true ∧ user64.priv = .user := by decide +kernel

/-- S-mode under Sv39, no valid entry in memory, one gigapage cached from before. -/
def cachedS : State := { regs (sv39 0x80001 0 0x80000000) [(5, int 0x80010000), (7, int 0x40000000)] with
  tlb := [⟨⟨3, 9, 8⟩, 0, 2, ⟨2, 0x80001010, 0x200000CF, false⟩⟩] }
/-- The cached entry serves until SFENCE.VMA names it: all, its page, another page, its address space, another (R46 (c), R112). -/
theorem test_cached : on cachedS 0x0002A303 (fun t => t.rc 6 == int 0 && t.pc == 0x80000004) = true ∧
  traps { cachedS with tlb := [] } 0x0002A303 13 0x80010000 = true ∧ on cachedS 0x12000073 (fun t => t.tlb == []) = true ∧ on cachedS 0x12028073 (fun t => t.tlb == []) = true ∧
  on cachedS 0x12038073 (fun t => t.tlb == cachedS.tlb) = true ∧ on (regs cachedS [(6, int 0)]) 0x12600073 (fun t => t.tlb == []) = true ∧
  on cachedS 0x12700073 (fun t => t.tlb == []) = true ∧ on (regs cachedS [(6, int 1)]) 0x12600073 (fun t => t.tlb == cachedS.tlb) = true ∧
  on cachedS 0x18029073 (fun t => t.csr.satp == 0x80010000 && t.tlb == cachedS.tlb) = true := by decide +kernel
/-- CHERI register access is enabled, and the table has a row for every one of its instructions. -/
theorem witness_inspection : leg64.cheriRegsDisabled = false ∧ ([.gctag 31 0, .gcperm 6 5, .gchi 6 5, .gcbase 6 5, .gclen 6 5, .cram 6 5, .sceq 6 5 7, .scss 0 5 31] : List Instr).all
  (fun i => (inspectTable leg64 i).isSome) = true := by decide +kernel
def manipSamples : List Instr := [.cmv 6 5, .cadd 6 5 7, .caddi 6 5 0x800, .scaddr 6 5 7, .acperm 6 5 7, .sentry 6 5, .cbld 6 5 5, .scbnds 6 5 7, .scbndsi 6 5 true 31, .scbndsr 6 5 7,
  .scmode 0 5 7]
theorem witness_manipulation : leg64.cheriRegsDisabled = false ∧ (manipTable leg64 (.schi 6 5 7)).isSome = true ∧ manipSamples.all (fun i => (manipTable leg64 i).isSome) = true := by decide +kernel
theorem witness_mode_switch : (cap64.cheriRegsDisabled = false ∧ cap64.debug = false) ∧ (debug64.cheriRegsDisabled = false ∧ debug64.debug = true ∧ debug64.cfg.debugModesw = true) ∧
  ({ debug64 with cfg := { debugModesw := false } }).cfg.debugModesw = false := by decide +kernel
theorem witness_cheri_disabled : cheriTable (.scC 6 5 7 true true) = true ∧ cheriTable (.gctag 6 5) = true ∧ user64.cheriRegsDisabled = true := by decide +kernel
theorem witness_never_widen : truncX leg64.cfg ((regs leg64 [(5, capA)]).rc 5).addr = ((regs leg64 [(5, capA)]).rc 5).addr ∧
  ((regs leg64 [(5, capA)]).rc 5).base leg64.cfg ≤ ((regs leg64 [(5, capA)]).rc 5).top leg64.cfg ∧
  ((regs leg64 [(5, capA)]).rc 5).top leg64.cfg ≤ 2 ^ leg64.cfg.xlenmax ∧ ((regs leg64 [(5, inf64 0)]).rc 5).top leg64.cfg ≤ 2 ^ leg64.cfg.xlenmax ∧
  manipSamples.all (fun i => match manipTable (regs leg64 [(5, inf64 0x1000), (7, int 8)]) i with
    | some (_, k) => k.tag
    | none => false) = true := by decide +kernel
theorem witness_set_bounds : (truncX p64 (inf64 0x1000).addr = (inf64 0x1000).addr ∧ (inf64 0x1000).addr.toNat + (2 ^ 64 - 0x1000) ≤ 2 ^ p64.xlenmax) ∧
  (truncX p32 (inf32 0x1004).addr = (inf32 0x1004).addr ∧ (inf32 0x1004).addr.toNat + 0 ≤ 2 ^ p32.xlenmax) ∧ (encodeBounds p32 0x1000 0x1FF).exact = true := by decide +kernel
theorem witness_register_zero : (31 : Reg) ≠ 0 ∧ (1 : Reg) ≠ 31 := by decide

/-! ### Memory -/

theorem witness_int_loads : (intLoadTable (.ld 6 5 24) = some (6, 5, 24, 8, true, 4) ∧
    memK.canAccess (memK.authEa 5 24).1 (memK.authEa 5 24).2 8 .load .plain (span 0x80010018 8)) ∧
  (intLoadTable (.lb 6 5 31) = some (6, 5, 31, 1, true, 4) ∧ memK.canAccess (memK.authEa 5 31).1 (memK.authEa 5 31).2 1 .load .plain [0x8001001F]) ∧
  ({ memK with cfg := { misalignedIntOk := true } }).canAccess (memK.authEa 5 1).1 (memK.authEa 5 1).2 4 .load .plain (span 0x80010001 4) :=
  ⟨⟨by decide, canAccess_of _ _ _ _ _ _ _ (by decide +kernel)⟩, ⟨by decide, canAccess_of _ _ _ _ _ _ _ (by decide +kernel)⟩,
    canAccess_of _ _ _ _ _ _ _ (by decide +kernel)⟩
theorem witness_int_stores : intStoreTable (.sd 7 5 24) = some (7, 5, 24, 8, 4) ∧ memK.mem.wf = true ∧
  memK.canAccess (memK.authEa 5 24).1 (memK.authEa 5 24).2 8 .store .plain (span 0x80010018 8) :=
  ⟨by decide, by decide +kernel, canAccess_of _ _ _ _ _ _ _ (by decide +kernel)⟩
/-- One instruction of each group, with the access the table gives it, and what `ready` asks. -/
theorem witness_access_table : accessTable memK (.lw 6 5 0) = some (5, 0, 4, .load, .plain) ∧ accessTable memK (.sw 7 5 0) = some (5, 0, 4, .store, .plain) ∧
  accessTable memK (.fld 6 5 8) = some (5, 8, 8, .load, .plain) ∧ accessTable memK (.fsh 6 5 8) = some (5, 8, 2, .store, .plain) ∧
  accessTable memK (.lc 6 5 16) = some (5, 16, 16, .load, .strict) ∧ accessTable memK (.cScsp 7 1) = some (2, 16, 16, .store, .strict) ∧
  accessTable memK (.amoorD 6 5 7 false false) = some (5, 0, 8, .atomic, .zam) ∧ accessTable memK (.lrB 6 5 false false) = some (5, 0, 1, .load, .zam) ∧
  accessTable memK (.scW 6 5 7 false false) = some (5, 0, 4, .store, .zam) ∧ accessTable memK (.amoswapC 6 5 7 false false) = some (5, 0, 16, .atomic, .strict) ∧
  accessTable memK (.lrC 6 5 false false) = some (5, 0, 16, .load, .strict) ∧ accessTable memK (.scC 6 5 7 false false) = some (5, 0, 16, .store, .strict) ∧
  accessTable memK (.cmPush 4 0) = some (2, 0 - 16, 16, .store, .strict) ∧ accessTable leg64 (.cmPopret 15 3) = some (2, 152, 8, .load, .plain) := by
  and_intros <;> decide +kernel
theorem witness_access_ready : memK.ready (.lw 6 5 0) ∧ memK.ready (.scC 6 5 7 false false) ∧ memK.ready (.cmPopret 15 3) ∧ memQ.ready (.fld 6 5 8) := by
  refine ⟨⟨?_, ?_, ?_⟩, ⟨?_, ?_, ?_⟩, ⟨?_, ?_, ?_⟩, ⟨?_, ?_, ?_⟩⟩ <;> decide +kernel
def watched (k : Acc) (d : Bool) : State := { memK with triggers := [trig 0x80010000 k d] }
theorem witness_access_faults : ((watched .load true).haltHit .load (memK.authEa 5 0).2 = true ∧ (watched .store true).haltHit .atomic (memK.authEa 5 0).2 = true) ∧
  ((watched .load false).haltHit .load (memK.authEa 5 0).2 = false ∧ (watched .load false).bpHit .load (memK.authEa 5 0).2 = true ∧
    (watched .store false).bpHit .store (memK.authEa 5 0).2 = true) ∧ memK.bpHit .load (memK.authEa 5 0).2 = false ∧
  ((regs memK [(5, { capA with tag := false })]).authEa 5 0).1.tag = false ∧
  (((regs memK [(5, cap true 0x000700000C080000 0x80010000)]).authEa 5 0).1.tag = true ∧ ((regs memK [(5, cap true 0x000700000C080000 0x80010000)]).authEa 5 0).1.s p64 = true) ∧
  ((((regs memK [(5, cap true 0x0002000004080000 0x80010000)]).authEa 5 0).1.perms p64).r = false ∧
    (((regs memK [(5, cap true 0x0004000004080000 0x80010000)]).authEa 5 0).1.perms p64).w = false) ∧
  (memK.covers (memK.authEa 5 29).1 (memK.authEa 5 29).2 4 = false ∧ memK.covers (memK.authEa 5 28).1 (memK.authEa 5 28).2 4 = true) := by
  and_intros <;> decide +kernel
theorem test_access_faults : on (watched .load true) 0x0002A303 (fun t => t.debug && t.rc 6 == int 0) = true ∧
  on (watched .store true) 0x0072A32F (fun t => t.debug && t.mem == memK.mem) = true ∧ traps (watched .load false) 0x0002A303 3 0x80010000 = true ∧
  traps (watched .store false) 0x0072A32F 3 0x80010000 = true := by decide +kernel
def skew : State := { memK with cfg := { misalignedIntOk := true } }
theorem witness_alignment_faults : memK.permits (memK.authEa 5 1).1 (memK.authEa 5 1).2 4 .load ∧ memK.permits (memK.authEa 5 1).1 (memK.authEa 5 1).2 4 .store ∧
  (memK.authEa 5 1).2.toNat % 4 ≠ 0 ∧ memK.cfg.misalignedIntOk = false ∧ skew.cfg.misalignedIntOk = true :=
  ⟨permits_of _ _ _ _ _ (by decide +kernel), permits_of _ _ _ _ _ (by decide +kernel), by decide +kernel, rfl, rfl⟩
def edge : State := regs cap64 [(5, inf64 0x80100000), (7, inf64 1)]
/-- A misaligned access whose last bytes are vacant: the exception reports the address of the access, not of the byte (R369). -/
def edge2 : State := regs { cap64 with cfg := { misalignedIntOk := true } } [(5, inf64 0x800FFFFE), (7, inf64 1)]
theorem witness_vacant : edge.permits (edge.authEa 5 0).1 (edge.authEa 5 0).2 4 .load ∧ edge.permits (edge.authEa 5 0).1 (edge.authEa 5 0).2 4 .store ∧
  (edge.authEa 5 0).2.toNat % 4 = 0 ∧ edge.translate .load (edge.authEa 5 0).2 = .ok ⟨0x80100000, none⟩ ∧ 0x80100003 ∈ span 0x80100000 4 ∧
  Params.isMapped edge.cfg 0x80100003 = false ∧
  ((edge2.authEa 5 0).2.toNat % 4 ≠ 0 ∧ edge2.translateBytes .store (edge2.authEa 5 0).2 0 4 = .exc ⟨7, 0x800FFFFE⟩) :=
  ⟨permits_of _ _ _ _ _ (by decide +kernel), permits_of _ _ _ _ _ (by decide +kernel), by decide +kernel, by decide +kernel, by decide +kernel, by decide +kernel,
    by decide +kernel, by decide +kernel⟩
/-- S-mode under Sv39 with an address that is not valid, a root table that is not there, and an entry that is not valid. -/
def sv39Data (root a : Nat) : State := regs (sv39 root 0 0x80000000) [(5, int a)]
theorem witness_page_faults : ((sv39Data 0x80001 0x8000000000).svMode (sv39Data 0x80001 0x8000000000).effPriv = some (⟨3, 9, 8⟩, 0x80001000) ∧
    (⟨3, 9, 8⟩ : SvMode).valid ((sv39Data 0x80001 0x8000000000).authEa 5 0).2 = false) ∧
  (sv39Data 0x80001 0x80000000).permits ((sv39Data 0x80001 0x80000000).authEa 5 0).1 ((sv39Data 0x80001 0x80000000).authEa 5 0).2 4 .load ∧
  (rootEntry ⟨3, 9, 8⟩ 0x1000 ((sv39Data 0x80001 0x80000000).authEa 5 0).2).all (Params.isMapped p64) = false ∧
  (rootEntry ⟨3, 9, 8⟩ 0x80001000 ((sv39Data 0x80001 0x80000000).authEa 5 0).2).all (Params.isMapped p64) = true ∧
  ((sv39Data 0x80001 0x80000000).entryAt (rootEntry ⟨3, 9, 8⟩ 0x80001000 0x80000000)).getLsbD 0 = false ∧
  (sv39Data 0x80001 0x80000000).cachedLeaf ⟨3, 9, 8⟩ ((sv39Data 0x80001 0x80000000).authEa 5 0).2 = none :=
  ⟨by decide +kernel, permits_of _ _ _ _ _ (by decide +kernel), by decide +kernel, by decide +kernel, by decide +kernel, by decide +kernel⟩
theorem test_page_faults : traps (sv39Data 0x80001 0x8000000000) 0x0002A303 13 0x8000000000 = true ∧ traps (sv39Data 0x80001 0x80000000) 0x0072A023 15 0x80000000 = true ∧
  traps (sv39Data 0x80001 0x80000000) 0x0072A32F 15 0x80000000 = true ∧ traps (sv39Data 0x00001 0x80000000) 0x0002A303 5 0x80000000 = true ∧
  traps edge2 0x0072A023 7 0x800FFFFE = true := by decide +kernel
/-- A device: what it reads as is free, a write to it goes on without effect (R111; log 13). -/
def dev : State := regs { cap64 with cfg := { regions := [⟨0x80000000, 0x100000, .main, true⟩, ⟨0x10000000, 0x1000, .device, false⟩] } } [(5, inf64 0x10000000), (7, inf64 9)]
theorem test_device : on dev 0x0002C303 (fun t => t.pc == 0x80000004) = true ∧ on dev 0x0072C023 (fun t => t.pc == 0x80000004 && t.mem.tags == []) = true := by decide +kernel
/-- At the end of a 32-bit address space a misaligned access goes on at address 0 (R96). -/
def wrap32 : State := bytes { csrs { sup64 with cfg := { mxlWritable := true, misalignedIntOk := true, regions := [⟨0, 0x100000000, .main, true⟩] } }
  ({ · with mxl := 1, mstatus := 0x500000000 }) with regs := sup64.regs.set 5 (int 0xFFFFFFFE), priv := .machine } 0 2 0x8765
theorem test_wrap : gives6 wrap32 0x0002A303 (int 0xFFFFFFFF87650000) = true ∧
  traps { wrap32 with ddc := (inf64 0x80000000).setBounds p64 0x180000000 true } 0x0002A303 28 0x10003 = true := by decide +kernel
def memL : State := regs memL1 [(5, capA), (7, inf64 9)]
theorem witness_cap_loads : capLoadTable memL.cfg (.lc 6 5 16) = some (6, 5, 16, 4, true) ∧ memL.cheriRegsDisabled = false ∧
  memL.canAccess (memL.authEa 5 16).1 (memL.authEa 5 16).2 memL.cfg.capBytes .load .strict (span 0x80010010 16) ∧
  memL.translate .load (memL.authEa 5 16).2 = .ok ⟨0x80010010, none⟩ ∧
  (memL.permits (memL.authEa 5 15).1 (memL.authEa 5 15).2 memL.cfg.capBytes .load ∧ (memL.authEa 5 15).2.toNat % memL.cfg.capBytes ≠ 0) :=
  ⟨by decide +kernel, by decide +kernel, canAccess_of _ _ _ _ _ _ _ (by decide +kernel), by decide +kernel, permits_of _ _ _ _ _ (by decide +kernel), by decide +kernel⟩
theorem witness_cap_stores : capStoreTable memL.cfg (.sc 7 5 16) = some (7, 5, 16, 4, true) ∧ memL.cheriRegsDisabled = false ∧ memL.mem.wf = true ∧
  memL.canStoreCap (memL.authEa 5 16).1 (memL.authEa 5 16).2 (memL.rc 7) .store 0x80010010 ∧
  (memL.permits (memL.authEa 5 15).1 (memL.authEa 5 15).2 memL.cfg.capBytes .store ∧ (memL.authEa 5 15).2.toNat % memL.cfg.capBytes ≠ 0) :=
  ⟨by decide +kernel, by decide +kernel, by decide +kernel, canStoreCap_of _ _ _ _ _ _ (by decide +kernel), permits_of _ _ _ _ _ (by decide +kernel), by decide +kernel⟩
/-- Memory taggable from 0x80010000 on, and the implementation that faults (R110). -/
def noTag (s : State) : State := { s with cfg := { s.cfg with taggedToUntaggable := .raiseFault, regions := [⟨0x80000000, 0x10000, .main, false⟩, ⟨0x80010000, 0xF0000, .main, true⟩] } }
theorem untaggable_of (s : State) (auth : Cap) (ea : Word) (v : Cap) (kind : Acc) (pa : Nat)
    (h : (s.bpHit kind ea = false ∧ s.checkData auth ea s.cfg.capBytes kind = .ok ()) ∧ ea.toNat % s.cfg.capBytes = 0 ∧ s.translate kind ea = .ok ⟨pa, none⟩ ∧
      (span pa s.cfg.capBytes).all (Params.isMapped s.cfg) = true ∧ s.cfg.taggedToUntaggable = .raiseFault ∧ Params.isTaggable s.cfg pa = false ∧
      (v.tag && (auth.perms s.cfg).w && (auth.perms s.cfg).c) = true) : s.untaggable auth ea v kind pa := by
  obtain ⟨h1, h2, h3, h4, h5⟩ := h
  exact ⟨permits_of _ _ _ _ _ h1, h2, ⟨_, h3, rfl, .inr (.inl rfl)⟩, List.all_eq_true.1 h4, h5⟩
def untag : State := { regs (noTag cap64) [(5, inf64 0x80008000), (7, inf64 9)] with resv := some (0x80008000, 16) }
theorem witness_untaggable : untag.untaggable (untag.authEa 5 0).1 (untag.authEa 5 0).2 (untag.rc 7) .store 0x80008000 ∧
  untag.untaggable (untag.authEa 5 0).1 (untag.authEa 5 0).2 (untag.rc 7) .atomic 0x80008000 ∧ untag.resv = some (0x80008000, untag.cfg.capBytes) ∧ untag.mem.wf = true ∧
  untag.cheriRegsDisabled = false :=
  ⟨untaggable_of _ _ _ _ _ _ (by decide +kernel), untaggable_of _ _ _ _ _ _ (by decide +kernel), by decide +kernel, by decide +kernel, by decide +kernel⟩
theorem test_untaggable : traps untag 0x0072C023 7 0x80008000 = true ∧ traps untag 0x0872C32F 7 0x80008000 = true ∧ traps untag 0x1872C32F 7 0x80008000 = true := by decide +kernel
/-- S-mode, Capability mode, Sv39 with one gigapage at its own address, the leaf's flag bits given. -/
def paged (flags : Nat) (p : Params) : State :=
  let s : State := { sup64 with cfg := p, pcc := cap true 0x01FF800000000000 0x80000000 }
  regs (bytes (csrs s ({ · with satp := 0x8000000000080001, menvcfg := 0x30000000 })) 0x80001010 8 (0x80000 * 1024 + flags)) [(5, inf64 0x80010000), (7, inf64 9), (1, inf64 9), (2, inf64 0x80010010), (8, inf64 9), (9, inf64 0x80010000)]
def pteOf (flags : Nat) : Word := BitVec.ofNat 64 (0x80000 * 1024 + flags)
/-- What O36 asks before its clauses, of an instruction of its table, and the last premise of its last case. -/
def pagedOk (i : Instr) (b a : Reg) (off : Word) (kind : Acc) (flags : Nat) (p : Params) : Bool :=
  let s := paged flags p
  let auth := (s.authEa a off).1
  let ea := (s.authEa a off).2
  decide (capWriteTable s i = some (b, a, off)) && !s.cheriRegsDisabled && !s.debug && !s.bpHit kind ea && decide (s.checkData auth ea p.capBytes kind = .ok ()) &&
    decide (ea.toNat % p.capBytes = 0) && decide (s.translate kind ea = .ok ⟨0x80010000, some (0x80001010, pteOf flags)⟩) && s.cwPages &&
    (span 0x80010000 p.capBytes).all (Params.isMapped p) && (auth.perms p).w && (auth.perms p).c && (s.rc b).tag && decide (s.uncached.translate kind ea = s.translate kind ea)
/-- SC, C.SC, SC.C, AMOSWAP.C, CM.PUSH. -/
def pagedAll (flags : Nat) (p : Params) : Bool := pagedOk (.sc 7 5 0) 7 5 0 .store flags p && pagedOk (.cSc 0 1 0) 8 9 0 .store flags p && pagedOk (.scC 6 5 7 true false) 7 5 0 .store flags p && pagedOk (.amoswapC 6 5 7 false true) 7 5 0 .atomic flags p &&
  pagedOk (.cmPush 4 3) 1 2 (0 - 16) .store flags p
def hwCd : Params := { hasPteCd := true, cdeConfigurable := false, cdHwUpdate := true }
theorem witness_page_rules : (pagedAll 0xC7 {} = true ∧ (pteOf 0xC7).getLsbD 59 = false ∧ ({} : Params).cwClear = .raiseFault) ∧
  (pagedAll 0xC7 { cwClear := .strip } = true ∧ ({ cwClear := .strip } : Params).cwClear = .strip) ∧
  (pagedAll (2 ^ 59 + 0xC7) { hasPteCd := true, cdeConfigurable := false } = true ∧ (pteOf (2 ^ 59 + 0xC7)).getLsbD 59 = true ∧ (pteOf (2 ^ 59 + 0xC7)).getLsbD 60 = false ∧
    (paged (2 ^ 59 + 0xC7) { hasPteCd := true, cdeConfigurable := false }).cde = true) ∧
  (pagedAll (2 ^ 59 + 0xC7) hwCd = true ∧ Params.isTaggable hwCd 0x80010000 = true) ∧ (paged 0xC7 {}).resv ≠ some (0x80010000, (paged 0xC7 {}).cfg.capBytes) ∧
  ({ paged 0xC7 {} with resv := some (0x80010000, 16) }).resv = some (0x80010000, (paged 0xC7 {}).cfg.capBytes) := by decide +kernel
/-- The rules themselves, run: the fault, the stripped tag, and CD set by hardware (R120). -/
theorem test_page_rules : traps (paged 0xC7 {}) 0x0072C023 15 0x80010000 = true ∧ on (paged 0xC7 { cwClear := .strip }) 0x0072C023 (fun t => t.mem.tags == [] && memIs t 0x80010000 8 9) = true ∧
  on (paged (2 ^ 59 + 0xC7) {}) 0x0072C023 (fun t => t.mem.tags == [0x80010000 / 16]) = true ∧
  on (paged (2 ^ 59 + 0xC7) { hasPteCd := true, cdeConfigurable := false, cdHwUpdate := true }) 0x0072C023
    (fun t => t.mem.tags == [0x80010000 / 16] && memIs t 0x80001010 8 (0x80000 * 1024 + 2 ^ 60 + 2 ^ 59 + 0xC7)) = true ∧
  traps (paged (2 ^ 59 + 0xC7) { hasPteCd := true, cdeConfigurable := false }) 0x0072C023 15 0x80010000 = true := by decide +kernel
/-- SC.C, AMOSWAP.C and CM.PUSH of one register under hardware updating; SC.C to a reserved granule that holds its own leaf entry fails (R120, R250, R256). -/
theorem test_page_atomics : on (paged (2 ^ 59 + 0xC7) hwCd) 0x1872C32F (fun t => t.rc 6 == int 1 && memIs t 0x80001010 8 (0x80000 * 1024 + 2 ^ 60 + 2 ^ 59 + 0xC7)) = true ∧
  on (paged (2 ^ 59 + 0xC7) hwCd) 0x0872C32F (fun t => t.rc 6 == int 0 && t.mem.tags == [0x80010000 / 16] && memIs t 0x80001010 8 (0x80000 * 1024 + 2 ^ 60 + 2 ^ 59 + 0xC7)) = true ∧
  on (paged (2 ^ 59 + 0xC7) hwCd) 0xB842 (fun t => t.mem.tags == [0x80010000 / 16] && memIs t 0x80001010 8 (0x80000 * 1024 + 2 ^ 60 + 2 ^ 59 + 0xC7)) = true ∧
  on { regs (paged (2 ^ 59 + 0xC7) hwCd) [(5, inf64 0x80001010)] with resv := some (0x80001010, 16) } 0x1872C32F (fun t => t.rc 6 == int 1 && t.resv == none) = true := by
  decide +kernel
theorem witness_round_trip : leg64.mem.wf = true ∧ truncX leg64.cfg capA.md = capA.md ∧ truncX leg64.cfg capA.addr = capA.addr ∧ Params.isTaggable leg64.cfg 0x800FFFF0 = true ∧
  0x800FFFFF ∈ span 0x800FFFFC 4 ∧ 0x800FFFFF / leg64.cfg.capBytes = 0x800FFFF0 / leg64.cfg.capBytes := by decide +kernel
theorem witness_fp : fpLoadTable (.fld 31 5 24) = some (31, 5, 24, 8, 4) ∧ fpStoreTable (.fsd 31 5 24) = some (31, 5, 24, 8, 4) ∧ memK.csr.mstatus.toNat / 2 ^ 13 % 4 = 0 ∧
  memQ.csr.mstatus.toNat / 2 ^ 13 % 4 ≠ 0 ∧ memQ.mem.wf = true ∧ memQ.canAccess (memQ.authEa 5 24).1 (memQ.authEa 5 24).2 8 .load .plain (span 0x80010018 8) ∧
  memQ.canAccess (memQ.authEa 5 24).1 (memQ.authEa 5 24).2 8 .store .plain (span 0x80010018 8) :=
  ⟨by decide, by decide, by decide +kernel, by decide +kernel, by decide +kernel, canAccess_of _ _ _ _ _ _ _ (by decide +kernel), canAccess_of _ _ _ _ _ _ _ (by decide +kernel)⟩

/-- Operations of every kind, an assigned and a reserved rounding mode, dynamic rounding with frm 0, and operands that are NaNs. -/
theorem witness_fp_compute : memQ.csr.mstatus.toNat / 2 ^ 13 % 4 ≠ 0 ∧ (FpOp.add.rounds = true ∧ 4 < (5#3).toNat) ∧ (FpOp.madd.rounds = true ∧ memQ.csr.fcsr.toNat / 32 ≤ 4) ∧
  ([.le, .lt, .eq, .class, .cvtToInt .lu, .mvToX] : List FpOp).all (·.toX) = true ∧
  ([.sqrt, .nmadd, .sgnj, .sgnjn, .sgnjx, .min, .cvtFrom .half, .cvtFromInt .w, .mvFromX] : List FpOp).all (!·.toX) = true ∧
  (memQ.fpVal .single 5).isNan = true ∧ memQ.cfg.hasD = true := by decide +kernel
/-- Register f6, or x6, and the flags, after a word on f5, f7 and x5 (IEEE 754; the encodings of the ratified ISA). -/
def floats (w a b r fl : Nat) : Bool :=
  let s := regs { memQ with fregs := (memQ.fregs.set 5 (BitVec.ofNat 64 a)).set 7 (BitVec.ofNat 64 b) } [(5, int a)]
  match decodeFp s.ctx (encOf w) with
  | some i => after (execFp i s) fun t => (if i.op.toX then t.rc 6 == int r else t.rf 6 == BitVec.ofNat 64 r) && t.csr.fcsr == BitVec.ofNat 8 fl && t.pc == s.pc + 4
  | none => false
/-- A NaN-boxed single. -/
def sgl (n : Nat) : Nat := 0xFFFFFFFF00000000 + n
theorem test_fp_arithmetic : ([(0x00728353, sgl 0x3F800000, sgl 0x40000000, sgl 0x40400000, 0), (0x00728353, sgl 0x7F7FFFFF, sgl 0x7F7FFFFF, sgl 0x7F800000, 5),
    (0x0A72F353, 0x4008000000000000, 0x3FF0000000000000, 0x4000000000000000, 0), (0x10728353, sgl 0x00800000, sgl 0x3F000001, sgl 0x00400000, 3),
    (0x18728353, sgl 0x3F800000, sgl 0x40400000, sgl 0x3EAAAAAB, 1), (0x18728353, sgl 0x3F800000, sgl 0x80000000, sgl 0xFF800000, 8),
    (0x58028353, sgl 0x40800000, 0, sgl 0x40000000, 0), (0x58028353, sgl 0xBF800000, 0, sgl 0x7FC00000, 16), (0x00728353, 0x3F800000, sgl 0x3F800000, sgl 0x7FC00000, 0),
    (0x42728343, 0x3FF0000000000000, 0x4000000000000000, 0x4000000000000000, 0)].all fun x => floats x.1 x.2.1 x.2.2.1 x.2.2.2.1 x.2.2.2.2) = true := by decide +kernel
theorem test_fp_others : ([(0x20729353, sgl 0x3F800000, sgl 0x40000000, sgl 0xBF800000, 0), (0x28728353, sgl 0x00000000, sgl 0x80000000, sgl 0x80000000, 0),
    (0x28728353, sgl 0x7FC00000, sgl 0x40000000, sgl 0x40000000, 0), (0xA072A353, sgl 0x00000000, sgl 0x80000000, 1, 0), (0xA0729353, sgl 0x7FC00000, sgl 0x40000000, 0, 16),
    (0xE0029353, sgl 0xFF800000, 0, 1, 0), (0xE0028353, sgl 0x80000001, 0, 0xFFFFFFFF80000001, 0), (0xF0028353, 0x12345678, 0, sgl 0x12345678, 0),
    (0xC0029353, sgl 0x4F000000, 0, 0x7FFFFFFF, 16), (0xC0029353, sgl 0xBFC00000, 0, 0xFFFFFFFFFFFFFFFF, 1), (0xD0028353, 0xFFFFFFFF, 0, sgl 0xBF800000, 0),
    (0x42028353, sgl 0x3F800000, 0, 0x3FF0000000000000, 0), (0x40128353, 0x3FF0000000000001, 0, sgl 0x3F800000, 1)].all
  fun x => floats x.1 x.2.1 x.2.2.1 x.2.2.2.1 x.2.2.2.2) = true := by decide +kernel
/-- What is not assigned: the registers x16 to x31 of RV32E and RV64E, a reserved rounding mode, an absent format, and ZEXT.H's RV64 word at XLEN 32 (R139, R140, R231). -/
theorem test_fp_unassigned : decodeFp embCtx (.word 0xA072A853) = none ∧ decodeFp tableCtx (.word 0xA072A853) = some ⟨.eq, .single, 16, 5, 7, 20, 2⟩ ∧
  decodeFp tableCtx (.word 0x0072D353) = none ∧ decodeFp { tableCtx with cfg := { hasD := false } } (.word 0x0A72F353) = none ∧ decodeFp legacy32Ctx (.word 0xE2028353) = none ∧
  decodeExt legacy32Ctx (.word 0x0802C33B) = none ∧ decodeExt legacy32Ctx (.word 0x0802C333) = some ⟨.zextH, 6, 5, .reg 0, .std⟩ := by decide +kernel

/-- Zfhmin without Zfh: FLH, FMV.X.H, FMV.H.X and the conversions between formats, no FADD.H and no FCLASS.H; without both, not even FLH (R276, R280). -/
def halfCtx (b : Bool) : Ctx := { tableCtx with cfg := { hasZfh := false, hasZfhmin := b } }
theorem test_zfhmin : decodesTo (halfCtx true) [(0x00029307, .flh 6 5 0), (0x00729027, .fsh 7 5 0)] = true ∧
  decodesNone (halfCtx false) [0x00029307, 0x00729027] = true ∧
  ([0xE4028353, 0xF4028353, 0x40228353, 0x44028353].all fun w => (decodeFp (halfCtx true) (.word w)).isSome && (decodeFp (halfCtx false) (.word w)).isNone) = true ∧
  ([0x04728353, 0xE4029353].all fun w => (decodeFp (halfCtx true) (.word w)).isNone && (decodeFp tableCtx (.word w)).isSome) = true := by decide +kernel

/-! ### Atomics -/

def skewK : State := regs memK [(5, { capA with addr := 0x80010017 })]
theorem witness_amo : amoTable (.amoaddD 6 5 7 true true) = some (6, 5, 7, 8, fun m r => m + r) ∧ memK.mem.wf = true ∧
  memK.canAccess (memK.authEa 5 0).1 (memK.authEa 5 0).2 8 .atomic .zam (span 0x80010000 8) ∧
  (skewK.permits (skewK.authEa 5 0).1 (skewK.authEa 5 0).2 8 .atomic ∧ (skewK.authEa 5 0).2.toNat % 8 ≠ 0) :=
  ⟨rfl, by decide +kernel, canAccess_of _ _ _ _ _ _ _ (by decide +kernel), permits_of _ _ _ _ _ (by decide +kernel), by decide +kernel⟩
theorem witness_lr : lrTable (.lrB 6 5 true true) = some (6, 5, 1) ∧ memK.canAccess (memK.authEa 5 0).1 (memK.authEa 5 0).2 1 .load .zam [0x80010000] ∧
  memK.translate .load (memK.authEa 5 0).2 = .ok ⟨0x80010000, none⟩ ∧
  (memK.cheriRegsDisabled = false ∧ memK.canAccess (memK.authEa 5 0).1 (memK.authEa 5 0).2 memK.cfg.capBytes .load .strict (span 0x80010000 16)) :=
  ⟨by decide, canAccess_of _ _ _ _ _ _ _ (by decide +kernel), by decide +kernel, by decide +kernel, canAccess_of _ _ _ _ _ _ _ (by decide +kernel)⟩
theorem witness_sc : scTable (.scW 6 5 7 true true) = some (6, 5, 7, 4) ∧ (∃ t, exec (.scW 6 5 7 true true) memK = .next t) ∧
  (reserved 4).canAccess ((reserved 4).authEa 5 0).1 ((reserved 4).authEa 5 0).2 4 .store .zam (span 0x80010000 4) ∧
  (reserved 4).translate .store ((reserved 4).authEa 5 0).2 = .ok ⟨0x80010000, none⟩ ∧ (reserved 4).mem.wf = true ∧ (reserved 4).resv = some (0x80010000, 4) ∧
  (reserved 8).resv ≠ some (0x80010000, 4) :=
  ⟨by decide, next_of _ (by decide +kernel), canAccess_of _ _ _ _ _ _ _ (by decide +kernel), by decide +kernel, by decide +kernel, by decide +kernel, by decide +kernel⟩
def resC : State := regs (reserved 16) [(7, inf64 9)]
theorem witness_cap_atomics : resC.cheriRegsDisabled = false ∧ resC.mem.wf = true ∧ resC.canStoreCap (resC.authEa 5 0).1 (resC.authEa 5 0).2 (resC.rc 7) .atomic 0x80010000 ∧
  resC.canStoreCap (resC.authEa 5 0).1 (resC.authEa 5 0).2 (resC.rc 7) .store 0x80010000 ∧ resC.resv = some (0x80010000, resC.cfg.capBytes) ∧
  (reserved 8).resv ≠ some (0x80010000, resC.cfg.capBytes) :=
  ⟨by decide +kernel, by decide +kernel, canStoreCap_of _ _ _ _ _ _ (by decide +kernel), canStoreCap_of _ _ _ _ _ _ (by decide +kernel), by decide +kernel, by decide +kernel⟩

/-! ### Control flow, computation -/

theorem witness_direct_jumps : leg64.debug = false ∧ ({ debug64 with cfg := { debugPcrelIllegal := false } }).cfg.debugPcrelIllegal = false ∧
  (pccAt cap64 small).minLen = 2 ∧ directJumpTable (.jal 1 3) = some (1, 6, 4) ∧ ((pccAt cap64 small).targetAt ((pccAt cap64 small).pc + 6)).toNat % 2 = 0 ∧
  (pccAt cap64 small).pcc.inBounds p64 ((pccAt cap64 small).targetAt ((pccAt cap64 small).pc + 6)) 2 = true := by decide +kernel
def jumper (k : Cap) : State := regs cap64 [(5, k)]
theorem witness_indirect_jumps : indirectJumpTable true (.jalr 1 5 0) = some (1, 5, 0, 4, true) ∧ indirectJumpTable true (.jalrMode 1 5) = some (1, 5, 0, 4, false) ∧
  cap64.capMode = true ∧ cap64.cheriRegsDisabled = false ∧
  ((jumper (cap true 0x01FF800008000000 0x80000041)).targetAt ((0x80000041 + 0) &&& ~~~1#64)).toNat % cap64.minLen = 0 ∧
  (cap true 0x01FF800008000000 0x80000041).tag = true ∧ ((cap true 0x01FF800008000000 0x80000041).perms p64).x = true ∧
  (cap true 0x01FF800008000000 0x80000041).inBounds p64 0x80000040 2 = true ∧ cap64.pcc.inBounds p64 (cap64.targetAt ((0x80000041 + 0) &&& ~~~1#64)) 2 = true := by
  and_intros <;> decide +kernel
theorem witness_branches : branchTable leg64 (.beq 5 6 4) = some (true, 8, 4) ∧ branchTable leg64 (.bne 5 6 0xFFE) = some (false, 0xFFFFFFFFFFFFFFFC, 4) ∧
  (leg64.targetAt (leg64.pc + 8)).toNat % leg64.minLen = 0 ∧ leg64.pcc.inBounds p64 (leg64.targetAt (leg64.pc + 8)) leg64.minLen = true := by decide +kernel
def wide4 : State := csrs leg64 ({ · with misaC := false })
theorem witness_jump_faults : (pcrelTable (.cmPopretz 15 3) = true ∧ pcrelTable (.jalrMode 1 5) = true ∧ debug64.debug = true ∧ debug64.cfg.debugPcrelIllegal = true) ∧
  (directJumpTable (.jal 1 3) = some (1, 6, 4) ∧ branchTable wide4 (.beq 0 0 3) = some (true, 6, 4) ∧ (wide4.targetAt (wide4.pc + 6)).toNat % wide4.minLen ≠ 0) ∧
  (((pccAt cap64 small).targetAt ((pccAt cap64 small).pc + 8)).toNat % 2 = 0 ∧ (pccAt cap64 small).pcc.inBounds p64 ((pccAt cap64 small).targetAt ((pccAt cap64 small).pc + 8)) 2 = false) ∧
  (indirectJumpTable cap64.capMode (.jalr 1 5 4) = some (1, 5, 4, 4, true) ∧ (cap false 0 0).tag = false ∧ (cap true 0x01FF800008000000 0).s p64 = true ∧ (4 : Word) ≠ 0 ∧
    ((cap true 0x0007800000000000 0x80000040).perms p64).x = false ∧ (cap true 0x01FF800004400000 0x800000FC).inBounds p64 0x80000100 2 = false) ∧
  (indirectJumpTable (pccAt cap64 small).capMode (.jalrMode 1 5) = some (1, 5, 0, 4, false) ∧ (pccAt cap64 small).cheriRegsDisabled = false ∧
    indirectJumpTable wide4.capMode (.cJr 5) = some (0, 5, 0, 2, false) ∧ (wide4.targetAt ((wide4.rx 5 + 0 + 2) &&& ~~~1#64)).toNat % wide4.minLen ≠ 0 ∧
    (pccAt cap64 small).pcc.inBounds p64 ((pccAt cap64 small).targetAt ((0 + 0) &&& ~~~1#64)) 2 = false) ∧
  indirectJumpTable wide4.capMode (.jalrMode 1 5) = some (1, 5, 0, 4, true) ∧ (wide4.targetAt ((2 + 0) &&& ~~~1#64)).toNat % wide4.minLen ≠ 0 := by
  and_intros <;> decide +kernel
/-- The faults of jumps through integers: code 0 with the target, TYPE 2 with CAUSE 3; JALR.MODE in debug mode is illegal (R200, R203, R205). -/
theorem test_integer_jump_faults : traps (regs wide4 [(5, int 0x80000042)]) 0x000280E7 0 0x80000042 = true ∧ traps (regs (pccAt cap64 small) [(5, int 0x80001000)]) 0x000290E7 28 0x20003 = true ∧
  on debug64 0x000290E7 (fun t => t.cmdErr) = true := by decide +kernel
theorem witness_auipc : leg64.debug = false ∧ ({ debug64 with cfg := { debugPcrelIllegal := false } }).cfg.debugPcrelIllegal = false := by decide
theorem witness_compute : ([.lui .std 6 0x80000, .addi .comp 6 6 0x800, .slti 6 5 0, .sltiu 6 5 0, .xori .std 6 5 0, .ori 6 5 0, .andi .comp 8 8 0xFF, .slli .std 6 5 63, .slli .comp 6 6 1,
  .slli .uw 6 5 63, .slli .compUw 6 6 1, .srli .std 6 5 63, .srai .comp 8 8 63, .add .std 6 5 7, .add .comp 6 6 7, .add .uw 6 5 7, .add .compUw 8 8 0, .sub .std 6 5 7, .sll 6 5 7,
  .slt 6 5 7, .sltu 6 5 7, .xor .comp 8 8 9, .srl 6 5 7, .sra 6 5 7, .or .std 6 5 7, .and .std 6 5 7, .addiw .std 6 5 1, .slliw 6 5 31, .srliw 6 5 31, .sraiw 6 5 31,
  .addw .std 6 5 7, .subw .comp 8 8 9, .sllw 6 5 7, .srlw 6 5 7, .sraw 0 31 31] : List Instr).all (fun i => (computeTable leg32 i).isSome) = true := by decide +kernel
/-- The second table has a row for each of these; words of the ratified ISA's encodings and hand-calculated results. -/
theorem witness_extensions : ([.mul, .mulh, .mulhsu, .mulhu, .div, .divu, .rem, .remu, .mulw, .divw, .divuw, .remw, .remuw, .czeroEqz, .czeroNez, .andn, .orn, .xnor, .min, .minu, .max, .maxu,
  .sextB, .sextH, .zextH, .bclr, .bext, .binv, .bset] : List ExtOp).all (fun o => (extTable leg64 o 5 0).isSome) = true := by decide +kernel
/-- Register 6 after a word without a row of the table, on registers 5 and 7. -/
def extends_ (s : State) (w a b r : Nat) : Bool := match decodeExt s.ctx (encOf w) with
  | some x => after (execExt x (regs s [(5, int a), (7, int b)])) fun t => t.rc 6 == int r && t.pc == s.pc + 4
  | none => false
theorem test_extensions64 : ([(0x02728333, 0xFFFFFFFFFFFFFFFF, 3, 0xFFFFFFFFFFFFFFFD), (0x02729333, 0xFFFFFFFFFFFFFFFF, 3, 0xFFFFFFFFFFFFFFFF),
    (0x0272B333, 0xFFFFFFFFFFFFFFFF, 3, 2), (0x0272C333, 0x8000000000000000, 0xFFFFFFFFFFFFFFFF, 0x8000000000000000), (0x0272C333, 7, 0, 0xFFFFFFFFFFFFFFFF),
    (0x0272C333, 0xFFFFFFFFFFFFFFF9, 2, 0xFFFFFFFFFFFFFFFD), (0x0272E333, 0xFFFFFFFFFFFFFFF9, 2, 0xFFFFFFFFFFFFFFFF), (0x0272F333, 7, 0, 7),
    (0x0272C33B, 0x180000000, 0xFFFFFFFF, 0xFFFFFFFF80000000), (0x0E72D333, 5, 0, 0), (0x0E72F333, 5, 0, 5), (0x4072F333, 0xF, 3, 0xC),
    (0x60029313, 1, 0, 63), (0x60129313, 0, 0, 64), (0x60229313, 0xFF, 0, 8), (0x60429313, 0x80, 0, 0xFFFFFFFFFFFFFF80), (0x0802C33B, 0xFFFFFFFF, 0, 0xFFFF),
    (0x6B82D313, 0x0102030405060708, 0, 0x0807060504030201), (0x2872D313, 0x100000020000, 0, 0xFF0000FF0000), (0x60729333, 0x8000000000000001, 4, 0x18),
    (0x6012D313, 1, 0, 0x8000000000000000), (0x48729333, 0xFF, 4, 0xEF), (0x4872D333, 0x10, 4, 1), (0x28729333, 0, 63, 0x8000000000000000),
    (0x0A729333, 3, 3, 5), (0x0872C333, 0x100000002, 0x300000004, 0x400000002), (0x6872D313, 0x0180, 0, 0x8001)].all
  fun x => extends_ leg64 x.1 x.2.1 x.2.2.1 x.2.2.2) = true := by decide +kernel
theorem test_extensions32 : ([(0x02729333, 0x80000000, 2, 0xFFFFFFFF), (0x02728333, 0x10001, 0x10001, 0x20001), (0x6982D313, 0x01020304, 0, 0x04030201), (0x0802C333, 0x12345678, 0, 0x5678),
    (0x08F29313, 0x0000FFFF, 0, 0x55555555), (0x08F2D313, 0x55555555, 0, 0x0000FFFF)].all
  fun x => extends_ (pccAt leg32 (inf32 0)) x.1 x.2.1 x.2.2.1 x.2.2.2) = true ∧
  decodeExt tableCtx (.half 0x9C45) = some ⟨.mul, 8, 8, .reg 9, .comp⟩ ∧ decodeExt { tableCtx with cfg := { hasM := false } } (.word 0x02728333) = none := by decide +kernel
theorem witness_pointers : ([.sh1add 6 5 7, .sh2add 6 5 7, .sh3add 6 5 7, .sh4add 6 5 7, .sh1addUw 6 5 7, .sh2addUw 6 5 7, .sh3addUw 6 5 7, .sh4addUw 0 5 7, .cAddi16sp 0x20,
  .cAddi4spn 7 255] : List Instr).all (fun i => (pointerTable cap64 i).isSome) = true := by decide +kernel
theorem witness_moves : moveTable (.cMv 31 1) = some ((31, 1), none) ∧ moveTable (.cmMvsa01 0 7) = some ((8, 10), some (23, 11)) ∧
  moveTable (.cmMva01s 2 1) = some ((10, 18), some (11, 9)) := by decide

/-! ### CSRs -/

theorem csrAllowed_of (s : State) (n : BitVec 12) (w : Bool) (r : CsrRef) (h : s.csrCheck n w = .ok r) : s.csrAllowed n w r := (csrCheck_eq_ok s n w r).1 h
theorem witness_csr_swap : leg64.csrAllowed 0x760 true (.wide .mscratchc) ∧ leg64.csrAllowed 0x340 true (.alias_ .mscratchc) ∧ leg64.csrAllowed 0x300 true (.plain .mstatus) ∧
  debug64.csrAllowed 0x7bd true (.wide .dinfc) ∧
  (leg64.debug = false ∧ leg64.priv = .machine ∧ (leg64.pcc.perms leg64.cfg).asr = true ∧ leg64.cheriRegsDisabled = false) :=
  ⟨csrAllowed_of _ _ _ _ (by decide +kernel), csrAllowed_of _ _ _ _ (by decide +kernel), csrAllowed_of _ _ _ _ (by decide +kernel), csrAllowed_of _ _ _ _ (by decide +kernel),
    by decide +kernel⟩
theorem witness_csr_modify : (csrTable leg64 (.csrrs 6 0 0x301) = some (fun o v => o ||| v, 6, 0, 0x301, true, false) ∧ leg64.csrAllowed 0x301 false (.plain .misa)) ∧
  (csrTable leg64 (.csrrwi 0 31 0x340) = some (fun _ v => v, 0, 31, 0x340, false, true) ∧ leg64.csrAllowed 0x340 true (.alias_ .mscratchc)) ∧
  (csrTable leg64 (.csrrci 6 1 0x765) = some (fun o v => o &&& ~~~v, 6, 1, 0x765, true, true) ∧ leg64.csrAllowed 0x765 true (.wide .mtvecc)) :=
  ⟨⟨rfl, csrAllowed_of _ _ _ _ (by decide +kernel)⟩, ⟨rfl, csrAllowed_of _ _ _ _ (by decide +kernel)⟩, rfl, csrAllowed_of _ _ _ _ (by decide +kernel)⟩
theorem witness_csr_faults : csrAccess (.csrrw 6 5 0x7a5) = some (0x7a5, true) ∧ leg64.csrRef 0x7a5 = none ∧
  (user64.csrRef 0x300 = some (.plain .mstatus) ∧ user64.privNum < (0x300#12).toNat / 256 % 4) ∧
  (leg64.csrRef 0x7b0 = some (.plain .dcsr) ∧ (0x7b0#12).toNat / 16 = 0x7b ∧ leg64.debug = false) ∧
  (leg64.csrRef 0xf14 = some (.plain .machineInfo) ∧ csrAccess (.csrrwi 0 0 0xf14) = some (0xf14, true) ∧ (0xf14#12).toNat / 1024 = 3) ∧
  (sup64.csrRef 0x540 = some (.wide .sscratchc) ∧ sup64.cheriRegsDisabled = true) ∧
  (leg64.csrRef 0x003 = some (.plain .fcsr) ∧ leg64.csrBaseOk 0x003 (.plain .fcsr) = false) ∧
  ((noAsr leg64).csrRef 0x300 = some (.plain .mstatus) ∧ (noAsr leg64).asrOk = false ∧ (0x300#12).toNat / 256 % 4 ≠ 0 ∧ (0x300#12).toNat / 256 % 4 ≤ (noAsr leg64).privNum ∧
    (noAsr leg64).csrBaseOk 0x300 (.plain .mstatus) = true) := by decide +kernel
/-- The trigger CSRs (R95; layouts of the debug specification, log 37): M-mode sets a breakpoint on a load, cannot ask for debug-mode entry, and cannot write a trigger
that has dmode set; a trigger watches the modes it names. -/
def trigger0 (s : State) (v a : Nat) : State := (s.writeX .tdata1 (BitVec.ofNat 64 v)).writeX .tdata2 (BitVec.ofNat 64 a)
theorem test_triggers : (trigger0 leg64 0x6000000000001041 0x80).triggers = [{ addr := 0x80, enabled := true, m := true, load := true }, {}] ∧
  (trigger0 leg64 0x6000000000001041 0x80).readX .tdata1 = 0x6000000000000041 ∧ (trigger0 debug64 0x6800000000001041 0x80).readX .tdata1 = 0x6800000000001041 ∧
  trigger0 { leg64 with triggers := [trig 0x40 .load true] } 0x6000000000000041 0x80 = { leg64 with triggers := [trig 0x40 .load true] } ∧
  leg64.readX .tdata1 = 0xF000000000000000 ∧ leg64.readX .tinfo = 0x8040 ∧ (leg64.writeX .tselect 1).csr.tselect = 1 ∧ (leg64.writeX .tselect 2).csr.tselect = 0 ∧
  traps (trigger0 leg64 0x6000000000000041 0x80) 0x08002303 3 0x80 = true ∧ (trigger0 leg64 0x6000000000000018 0x80).bpHit .load 0x80 = false := by decide +kernel
theorem witness_trigger_fields : leg64.triggers[leg64.csr.tselect.toNat]? = some {} ∧ leg64.debug = false ∧ ({} : Trigger).dmode = false ∧
  ({ leg64 with triggers := [trig 0x40 .load true] }).triggers[leg64.csr.tselect.toNat]? = some (trig 0x40 .load true) ∧ (trig 0x40 .load true).dmode = true ∧
  debug64.triggers[debug64.csr.tselect.toNat]? = some {} ∧ debug64.debug = true := by decide +kernel
/-- misa.C, clear, stays clear when 0 is written, also in debug mode, whose pcc can have any address; C is kept while the next instruction would be misaligned (R63; log 21). -/
theorem test_misa_c : ({ csrs leg64 ({ · with misaC := false }) with debug := true, pcc := inf64 2 }.writeX .misa 0).csr.misaC = false ∧
  ((pccAt leg64 (inf64 0x80000002)).writeX .misa 0).csr.misaC = true ∧ (leg64.writeX .misa 0).csr.misaC = false := by decide +kernel
theorem witness_csr_fields : leg64.csr.menvcfg.getLsbD 29 = false ∧ leg64.cfg.hasPteCd = false ∧
  (({ hasPteCd := true, cdeConfigurable := false } : Params).hasPte = true ∧ ({ hasPteCd := true, cdeConfigurable := false } : Params).cdeConfigurable = false) ∧
  (wide4.csr.misaC = false ∧ (csrs wide4 ({ · with mepcc := cap true 0x01FF000008000000 2 })).csr.mepcc.addr.getLsbD 1 = true ∧
    (csrs wide4 ({ · with mepcc := cap true 0x01FF000008000000 2 })).csr.mepcc.s p64 = true) ∧
  ((cap true 0x01FF000008000000 0).dropReserved leg64.cfg).s leg64.cfg = true ∧
  (leg64.cfg.xlWritable = false ∧ leg64.csr.mstatus.toNat / 2 ^ 32 % 4 ≤ leg64.csr.mstatus.toNat / 2 ^ 34 % 4 ∧ leg64.csr.mstatus.toNat / 2 ^ 34 % 4 ≤ leg64.csr.mxl.toNat ∧
    leg64.cfg.beWritable = false ∧ leg64.cfg.mxlWritable = false) ∧
  (({ mxlWritable := true, beWritable := true } : Params).mxlWritable = true ∧ ({ mxlWritable := true, beWritable := true } : Params).hasLegacy = true ∧ leg64.csr.mxl ≠ 3 ∧
    (2 ^ 62 : Nat) / 2 ^ 62 % 4 = 1) ∧ leg64.x64Of .supervisor = true := by decide +kernel
/-- jvtc's mode takes 0 alone (R78). -/
theorem test_jvtc : on (regs leg64 [(5, int 0x80008045)]) 0x01729073 (fun t => t.csr.jvtc == inf64 0x80008040) = true ∧
  on (regs leg64 [(5, inf64 0x8000803F)]) 0x41729073 (fun t => t.csr.jvtc == inf64 0x80008000) = true := by decide +kernel
/-- MXL lowered to 1 lowers SXL and UXL with it; mstatush then has no XLEN fields (R64, R65). -/
def narrow : State := (regs { leg64 with cfg := { mxlWritable := true } } [(5, int (2 ^ 62))])
theorem test_mxl : on narrow 0x30129073 (fun t => t.csr.mxl == 1 && t.csr.mstatus == 0x500000000 && !t.cur64 && t.readX .mstatush == 0) = true := by decide +kernel

/-! ### Frames, table jumps, cache blocks -/

theorem frameOk_of (s : State) (kind : Acc) (top : Word) (n : Nat) (h : s.svMode s.effPriv = none ∧ ∀ i < n,
    (s.bpHit kind (s.slotAddr top i) = false ∧ s.checkData s.frameAuth (s.slotAddr top i) s.slot kind = .ok ()) ∧ (s.slotAddr top i).toNat % s.slot = 0 ∧
      ∀ a ∈ span (s.slotAddr top i).toNat s.slot, Params.isMapped s.cfg a = true) : s.frameOk kind top n :=
  ⟨h.1, fun i hi => ⟨permits_of _ _ _ _ _ (h.2 i hi).1, (h.2 i hi).2⟩⟩
/-- A frame of one register, and of all thirteen: the last slot at the base of the stack's bounds. -/
def stkCap : State := regs cap64 [(2, cap true 0x01FF800000018004 0x800100D0), (1, inf64 1)]
theorem witness_push : (4 ≤ (15#4).toNat ∧ stkCap.mem.wf = true ∧ stkCap.frameOk .store 0 (rlistCount 15) ∧ stkCap.cfg.taggedToUntaggable = .strip) ∧
  stk.frameOk .store 0 (rlistCount 4) ∧ rlistCount 15 = 13 ∧ rlistCount 4 = 1 :=
  ⟨⟨by decide, by decide +kernel, frameOk_of _ _ _ _ (by decide +kernel), rfl⟩, frameOk_of _ _ _ _ (by decide +kernel), by decide, by decide⟩
theorem witness_pop : 4 ≤ (15#4).toNat ∧ stkCap.frameOk .load (BitVec.ofNat 64 ((13 * stkCap.slot + 15) / 16 * 16 + 16 * 3)) (rlistCount 15) ∧
  stk.frameOk .load (BitVec.ofNat 64 ((1 * stk.slot + 15) / 16 * 16 + 0)) (rlistCount 4) :=
  ⟨by decide, frameOk_of _ _ _ _ (by decide +kernel), frameOk_of _ _ _ _ (by decide +kernel)⟩
def retCap : State := regs (tagAt (bytes cap64 0x800100F0 16 0x01FF8000080000000000000080000041) 0x800100F0) [(2, inf64 0x800100F0)]
theorem witness_popret : (stkRet.frameOk .load 16 (rlistCount 4) ∧ stkRet.debug = false ∧ (stkRet.slotValue (stkRet.slotAddr 16 0)).addr = 0x80000020 ∧
    (stkRet.toX (0x80000020 &&& ~~~1#64)).toNat % stkRet.minLen = 0 ∧ stkRet.capMode = false ∧ stkRet.pcc.inBounds p32 (stkRet.toX (0x80000020 &&& ~~~1#64)) 2 = true) ∧
  (retCap.frameOk .load 16 (rlistCount 4) ∧ retCap.capMode = true ∧ retCap.slotValue (retCap.slotAddr 16 0) = cap true 0x01FF800008000000 0x80000041 ∧
    ((cap true 0x01FF800008000000 0x80000041).perms p64).x = true ∧ (cap true 0x01FF800008000000 0x80000041).inBounds p64 0x80000040 2 = true) :=
  ⟨⟨frameOk_of _ _ _ _ (by decide +kernel), by decide +kernel, by decide +kernel, by decide +kernel, by decide +kernel, by decide +kernel⟩,
    frameOk_of _ _ _ _ (by decide +kernel), by decide +kernel, by decide +kernel, by decide +kernel, by decide +kernel⟩
/-- The jump of CM.POPRET in Capability mode takes the loaded capability, unsealed (R326). -/
theorem test_popret_cap : on retCap 0xBE42 (fun t => t.pcc == cap true 0x01FF800000000000 0x80000040 && t.rc 1 == cap true 0x01FF800008000000 0x80000041 && t.rc 2 == inf64 0x80010100) = true :=
  by decide +kernel
/-- A push whose second, or third, access raises: a trigger on its slot, memory that ends, bounds that end, memory that is not taggable (log 22). -/
def stk2 (d : Bool) : State := { stk with triggers := [trig 0x800100F8 .store d, trig 0x800100F8 .load d] }
def stkLow : State := regs stk [(2, int 0x80000004)]
def stkShort : State := regs cap32 [(2, { (cap true 0xFE000000 0x800100F0).setBounds p32 0x10 true with addr := 0x80010100 }), (1, inf32 1), (8, inf32 8), (9, inf32 9)]
def stkNoTag : State := regs (noTag cap64) [(2, inf64 0x80010010), (1, inf64 1), (8, inf64 8)]
theorem witness_push_faults : ((stk2 true).frameOk .store 0 1 ∧ (stk2 true).haltHit .store ((stk2 true).slotAddr 0 1) = true ∧ 1 < rlistCount 6) ∧
  ((stk2 false).frameOk .store 0 1 ∧ (stk2 false).slotFault .store ((stk2 false).slotAddr 0 1) ⟨3, 0x800100F8⟩) ∧
  (stkShort.frameOk .store 0 2 ∧ stkShort.slotFault .store (stkShort.slotAddr 0 2) ⟨28, 0x10003⟩ ∧ stkShort.cfg.taggedToUntaggable = .strip) ∧
  (stkLow.frameOk .store 0 1 ∧ stkLow.slotFault .store (stkLow.slotAddr 0 1) ⟨7, 0x80000000 - 4⟩) ∧
  stkNoTag.frameOk .store 0 1 ∧ (∀ i < 1, Params.isTaggable stkNoTag.cfg (stkNoTag.slotAddr 0 i).toNat = true) ∧ (rlistDown 5)[1]? = some 1 ∧ stkNoTag.capMode = true ∧
    stkNoTag.untaggable stkNoTag.frameAuth (stkNoTag.slotAddr 0 1) (stkNoTag.rc 1) .store (stkNoTag.slotAddr 0 1).toNat := by
  refine ⟨⟨frameOk_of _ _ _ _ ?_, ?_, ?_⟩, ⟨frameOk_of _ _ _ _ ?_, .inl ?_⟩, ⟨frameOk_of _ _ _ _ ?_, .inr (.inl ?_), ?_⟩,
    ⟨frameOk_of _ _ _ _ ?_, .inr (.inr ⟨permits_of _ _ _ _ _ ?_, ?_⟩)⟩, frameOk_of _ _ _ _ ?_, ?_, ?_, ?_, untaggable_of _ _ _ _ _ _ ?_⟩ <;> decide +kernel
theorem witness_pop_faults : ((stk2 true).frameOk .load 0 1 ∧ (stk2 true).haltHit .load ((stk2 true).slotAddr 0 1) = true) ∧
  ((stk2 false).frameOk .load 0 1 ∧ (stk2 false).slotFault .load ((stk2 false).slotAddr 0 1) ⟨3, 0x800100F8⟩) ∧
  (stkShort.frameOk .load 0 2 ∧ stkShort.slotFault .load (stkShort.slotAddr 0 2) ⟨28, 0x10003⟩) ∧
  stkLow.frameOk .load 0 1 ∧ stkLow.slotFault .load (stkLow.slotAddr 0 1) ⟨5, 0x80000000 - 4⟩ := by
  refine ⟨⟨frameOk_of _ _ _ _ ?_, ?_⟩, ⟨frameOk_of _ _ _ _ ?_, .inl ?_⟩, ⟨frameOk_of _ _ _ _ ?_, .inr (.inl ?_)⟩, frameOk_of _ _ _ _ ?_, .inr (.inr ⟨permits_of _ _ _ _ _ ?_, ?_⟩)⟩ <;> decide +kernel
/-- The accesses before stay made, the stack pointer stays (R323). -/
theorem test_later_slots : on (stk2 false) 0xB866 (fun t => t.csr.mcause == 3 && memIs t 0x800100FC 4 0x99 && memIs t 0x800100F8 4 0 && t.rc 2 == int 0x80010100) = true ∧
  on (stk2 true) 0xB866 (fun t => t.debug && memIs t 0x800100FC 4 0x99 && t.csr.dpcc == stk.pcc) = true ∧
  on stkNoTag 0xB852 (fun t => t.csr.mcause == 7 && t.mem.tags == [0x8001000] && t.csr.mtval == 0x8000FFF0 && t.rc 2 == inf64 0x80010010) = true ∧
  on (regs { stk with triggers := [trig 0x800100E8 .load false] } [(2, int 0x800100E0)]) 0xBA62 (fun t => t.csr.mcause == 3 && t.rc 9 == int 0 && t.rc 1 == int 0x11 && t.rc 2 == int 0x800100E0) = true := by
  decide +kernel
/-- CM.POPRET where the loaded target faults: misaligned, untagged, not executable, out of its bounds; outside pcc in Legacy mode (R203, R326). -/
def retTo (k : Cap) : State := (regs cap64 [(2, inf64 0x800100F0)]).writeCap 0x800100F0 k
theorem witness_popret_faults : ((csrs stkRet ({ · with misaC := false })).frameOk .load 16 (rlistCount 4) ∧ (csrs (regs stkRet [(2, int 0x800100F2)]) ({ · with misaC := false })).minLen = 4) ∧
  ([(cap false 0 0x80000040), cap true 0x0007800000000000 0x80000040, cap true 0x01FF800004400000 0x800000FC].all fun k => (retTo k).slotValue 0x800100F0 == k) = true ∧
  ((cap true 0x0007800000000000 0x80000040).perms p64).x = false ∧ (cap true 0x01FF800004400000 0x80000100).inBounds p64 0x80000100 2 = false ∧
  (retTo nullCap).frameOk .load 16 (rlistCount 4) ∧ (pccAt stkRet (cap true 0xFC0C0000 0x80001000)).pcc.inBounds p32 0x80000020 2 = false ∧
  (pccAt stkRet (cap true 0xFC0C0000 0x80001000)).frameOk .load 16 (rlistCount 4) := by
  refine ⟨⟨frameOk_of _ _ _ _ ?_, ?_⟩, ?_, ?_, ?_, frameOk_of _ _ _ _ ?_, ?_, frameOk_of _ _ _ _ ?_⟩ <;> decide +kernel
theorem test_popret_faults : ([(cap false 0 0x80000040, 0x20000), (cap true 0x0007800000000000 0x80000040, 0x20002), (cap true 0x01FF800004400000 0x80001000, 0x20003)].all fun x =>
    on (retTo x.1) 0xBE42 fun t => t.csr.mcause == 28 && t.csr.mtval == BitVec.ofNat 64 x.2 && t.rc 1 == x.1 && t.rc 2 == inf64 0x800100F0) = true ∧
  on (pccAt stkRet (cap true 0xFC0C0000 0x80001000)) 0xBC42 (fun t => t.csr.mtval == 0x20003 && t.rc 1 == int 0x80000020 && t.rc 10 == int 7 && t.rc 2 == int 0x800100F0) = true ∧
  after (exec (.cmPopretz 4 0) (csrs (bytes stkRet 0x800100FC 4 0x80000022) ({ · with misaC := false }))) (fun t => t.csr.mcause == 0 && t.csr.mtval == 0x80000022) = true := by
  decide +kernel
theorem witness_table_jumps : (tbl (inf64 0x80008000)).debug = false ∧ (cap false 0 0x80008000).tag = false ∧ (cap true 0x01FF000008000000 0x80008000).s p64 = true ∧
  ((cap true 0x0007000000000000 0x80008000).perms p64).x = false ∧ (cap true 0x01FF000004060000 0x80008000).inBounds p64 0x80008018 8 = false ∧
  ((inf64 0x80008000).inBounds p64 0x80008018 8 = true ∧ (tbl (inf64 0x80008000)).translateAs .machine .fetch 0x80008018 = .ok ⟨0x80008018, none⟩ ∧
    (span 0x80008018 8).all (Params.isMapped p64) = true ∧ leNat ((tbl (inf64 0x80008000)).mem.readList (span 0x80008018 8)) = 0x80000100 ∧
    (tbl (inf64 0x80008000)).pcc.inBounds p64 0x80000100 2 = true) ∧
  (Params.isMapped p64 0x70000000 = false ∧ (csrs wide4 ({ · with misaC := false })).minLen = 4 ∧ (0x80000102 : Nat) % 4 ≠ 0 ∧
    (cap true 0x01FF800004400000 0x800000F8).inBounds p64 0x80001000 2 = false) := by decide +kernel
/-- A target outside pcc, and a vacant table (R330, R331). -/
theorem test_table_faults : traps (pccAt (tbl (inf64 0x80008000)) (cap true 0x01FF000004400000 0x800000F8)) 0xA082 28 0x20003 = true ∧
  traps (csrs leg64 ({ · with jvtc := inf64 0x70000000 })) 0xA00E 1 0x70000018 = true := by decide +kernel
def blk1 : State := blk (cap true 0x0007800004101000 0x8001103F)
theorem witness_cbo_zero : user64.cboOn (·.getLsbD 7) = false ∧ blk1.cboOn (·.getLsbD 7) = true ∧ blk1.bpHit .store (blk1.authEa 5 0).2 = false ∧ (blk1.authEa 5 0).1.tag = true ∧
  (blk1.authEa 5 0).1.s p64 = false ∧ ((blk1.authEa 5 0).1.perms p64).w = true ∧ blk1.covers (blk1.authEa 5 0).1 (blk1.blockOf (blk1.authEa 5 0).2) 64 = true ∧
  blk1.translate .store (blk1.authEa 5 0).2 = .ok ⟨0x8001103F, none⟩ ∧ blk1.mem.wf = true ∧
  (∀ a ∈ span (0x8001103F / blk1.cfg.blockSize * blk1.cfg.blockSize) blk1.cfg.blockSize, Params.isMapped blk1.cfg a = true) := by decide +kernel
theorem witness_cbo_block : blk1.blockAt (blk1.authEa 5 0).2 (span 0x80011000 64) := .inl ⟨by decide, ⟨0x8001103F, none⟩, by decide +kernel, by decide +kernel⟩
/-- A block of two pages. -/
def bigBlk : State := regs (tagAt (bytes { cap64 with cfg := { blockBits := 13 } } 0x80011000 1 1) 0x80011000) [(5, inf64 0x80011000)]
theorem witness_cbo_big : bigBlk.blockAt (bigBlk.authEa 5 0).2 (span 0x80010000 4096 ++ span 0x80011000 4096) := by
  refine .inr ⟨by decide, by simp [span, bigBlk, regs, tagAt, bytes, cap64, withCme, leg64, State.reset, State.resetWith, Params.blockSize, Params.blockLog, State.wc], fun j hj => ?_⟩
  have : j = 0 ∨ j = 1 := by
    have : bigBlk.cfg.blockLog - 12 = 1 := by decide
    rw [this] at hj; omega
  rcases this with rfl | rfl
  · refine ⟨⟨0x80010000, none⟩, by decide +kernel, ?_⟩
    simp [span]
  · refine ⟨⟨0x80011000, none⟩, by decide +kernel, ?_⟩
    simp [span]
def blk2 : State := blk (cap true 0x0004800004081010 0x80011010)
theorem witness_cbo_manage : user64.cboOn (·.getLsbD 6) = false ∧ user64.cboOn (fun v => decide (v.toNat / 16 % 4 ≠ 0)) = false ∧
  ((noAsr leg64).cboOn (fun v => decide (v.toNat / 16 % 4 ≠ 0)) = true ∧ (noAsr leg64).asrOk = false) ∧
  (blk2.cboOn (·.getLsbD 6) = true ∧ ((blk2.authEa 5 0).1.perms p64).r = true ∧ (blk2.authEa 5 0).1.malformed p64 = false ∧ (blk2.authEa 5 0).1.base p64 = 0x80011010 ∧
    (blk2.authEa 5 0).1.top p64 = 0x80011020 ∧ blk2.blockOf (blk2.authEa 5 0).2 = 0x80011000) ∧
  (blk1.cboOn (fun v => decide (v.toNat / 16 % 4 ≠ 0)) = true ∧ blk1.asrOk = true ∧ ((blk1.authEa 5 0).1.perms p64).r = true ∧ ((blk1.authEa 5 0).1.perms p64).w = true) ∧
  (((blk nullCap).authEa 5 0).1.tag = false ∧ ((blk (cap true 0x0007800008000000 0)).authEa 5 0).1.s p64 = true ∧
    (((blk (cap true 0x0008800004101000 0x80011010)).authEa 5 0).1.perms p64).w = false ∧
    blk1.covers ((blk (cap true 0x0007800004101010 0x80011010)).authEa 5 0).1 0x80011000 64 = false ∧ Params.isMapped p64 0x70000000 = false) ∧
  (({ blk1 with triggers := [trig 0x8001103F .store true] }).haltHit .store (blk1.authEa 5 0).2 = true ∧
    ({ blk1 with triggers := [trig 0x8001103F .store false] }).haltHit .store (blk1.authEa 5 0).2 = false ∧
    ({ blk1 with triggers := [trig 0x8001103F .store false] }).bpHit .store (blk1.authEa 5 0).2 = true) := by decide +kernel
theorem test_cbo_faults : traps (blk (inf64 0x70000000)) 0x0042A00F 7 0x70000000 = true ∧ traps (blk (inf64 0x70000000)) 0x0012A00F 7 0x70000000 = true ∧
  traps (blk nullCap) 0x0002A00F 28 0x10000 = true := by decide +kernel
end Sys2Proof.Tests
end

section
/-!
PROOFS. Registers: what reads and writes of c0 and of the others give (10_state R38).
-/
namespace Sys2Proof.Machine
open Sys2Proof

/-! ## Register 0 -/

@[simp] theorem wc_zero (s : State) (k : Cap) : s.wc 0 k = s := rfl

@[simp] theorem rx_zero (s : State) : s.rx 0 = 0 := by
  unfold State.rx
  split <;> rfl

theorem rc_wc_same (s : State) (i : Reg) (k : Cap) (h : i ≠ 0) : (s.wc i k).rc i = k := by
  rw [rc_wc, if_pos ⟨rfl, h⟩]

theorem rc_wc_of_ne (s : State) (i j : Reg) (k : Cap) (h : i ≠ j) : (s.wc i k).rc j = s.rc j := by
  rw [rc_wc, if_neg fun e => h e.1.symm]

/-- Settles O30: each part is one of the laws of reading and writing a register. -/
theorem registerZeroIsNull : Obligations.RegisterZeroIsNull := by
  intro s k i j
  exact ⟨rc_zero s, rx_zero s, wc_zero s k, rc_zero _, rc_wc_same s i k, rc_wc_of_ne s i j k⟩

end Sys2Proof.Machine
end

section
/-!
PROOFS. The instructions without effect (20_memory R122, R124, 43_base_integer R232, 49_cbo_prefetch_zba R341, 60_exceptions R403).
-/
namespace Sys2Proof.Machine
open Sys2Proof

/-! ## Outcomes and privilege -/

@[simp] theorem Res.run_ok (s t : State) : Res.run s (.ok t) = .next t := rfl
@[simp] theorem Res.run_exc (s : State) (e : Exc) : Res.run s (.exc e) = .next (takeException s e) := rfl
@[simp] theorem Res.check_true (e : Exc) : Res.check true e = .ok () := rfl
@[simp] theorem Res.check_false (e : Exc) : Res.check false e = .exc e := rfl

theorem atLeast_machine (s : State) : s.atLeast .machine = true ↔ s.debug = true ∨ s.priv = .machine := by
  unfold State.atLeast
  cases s.priv <;> simp [Priv.num]

theorem atLeast_supervisor (s : State) : s.atLeast .supervisor = true ↔ s.debug = true ∨ s.priv ≠ .user := by
  unfold State.atLeast
  cases s.priv <;> simp [Priv.num]

/-! ## Fences and prefetches -/

theorem exec_fence (s : State) (a b : Reg) (i : BitVec 12) : exec (.fence a b i) s = .next (s.advance 4) := rfl
theorem exec_fenceI (s : State) (a b : Reg) (i : BitVec 12) : exec (.fenceI a b i) s = .next (s.advance 4) := rfl
theorem exec_prefetchI (s : State) (a : Reg) (o : BitVec 7) : exec (.prefetchI a o) s = .next (s.advance 4) := rfl
theorem exec_prefetchR (s : State) (a : Reg) (o : BitVec 7) : exec (.prefetchR a o) s = .next (s.advance 4) := rfl
theorem exec_prefetchW (s : State) (a : Reg) (o : BitVec 7) : exec (.prefetchW a o) s = .next (s.advance 4) := rfl

/-! ## WFI -/

theorem exec_wfi (s : State) : exec .wfi s = s.wfi.run s := rfl

/-- WFI goes on where its check passes: at M-mode's privilege, with TW clear, or without S-mode. -/
theorem exec_wfi_allowed (s : State) (h : s.debug = true ∨ s.priv = .machine ∨ s.st 21 = false ∨ s.cfg.hasS = false) :
    exec .wfi s = .next (s.advance 4) := by
  have check : (s.atLeast .machine || !s.st 21 || !s.cfg.hasS) = true := by
    simp only [Bool.or_eq_true, Bool.not_eq_true', atLeast_machine]
    tauto
  simp [exec_wfi, State.wfi, check]

theorem exec_wfi_illegal (s : State) (hd : s.debug = false) (hp : s.priv ≠ .machine) (htw : s.st 21 = true) (hS : s.cfg.hasS = true) :
    exec .wfi s = .next (takeException s ⟨2, 0⟩) := by
  have low : s.atLeast .machine = false := by simp [Bool.eq_false_iff, atLeast_machine, hd, hp]
  simp [exec_wfi, State.wfi, low, htw, hS, illegal]

/-! ## SFENCE.VMA -/

theorem exec_sfenceVma (s : State) (a b : Reg) : exec (.sfenceVma a b) s = (s.sfence a b).run s := rfl

/-- The check of SFENCE.VMA: S-mode's privilege, and TVM clear where the mode is S itself. -/
theorem sfence_check (s : State) :
    (s.atLeast .supervisor && (s.debug || !(s.priv == .supervisor && s.st 20))) = true ↔
      s.debug = true ∨ s.priv = .machine ∨ (s.priv = .supervisor ∧ s.st 20 = false) := by
  rw [Bool.and_eq_true, atLeast_supervisor]
  cases s.debug <;> cases s.priv <;> simp

theorem exec_sfenceVma_allowed (s : State) (a b : Reg)
    (h : s.debug = true ∨ s.priv = .machine ∨ (s.priv = .supervisor ∧ s.st 20 = false)) :
    exec (.sfenceVma a b) s = .next ((s.flush a b).advance 4) := by
  rw [exec_sfenceVma, State.sfence, (sfence_check s).2 h, Res.check_true, Res.bind_ok, Res.run_ok]

theorem exec_sfenceVma_illegal (s : State) (a b : Reg) (hd : s.debug = false)
    (h : s.priv = .user ∨ (s.priv = .supervisor ∧ s.st 20 = true)) :
    exec (.sfenceVma a b) s = .next (takeException s ⟨2, 0⟩) := by
  have refused : (s.atLeast .supervisor && (s.debug || !(s.priv == .supervisor && s.st 20))) = false := by
    rw [Bool.eq_false_iff, ne_eq, sfence_check]
    rcases h with hp | ⟨hp, htvm⟩ <;> simp_all
  rw [exec_sfenceVma, State.sfence, refused, Res.check_false, Res.bind_exc, Res.run_exc, illegal]

/-- What a cached translation is kept by: a page that rs1's address does not lie in, or a global one or another address space than rs2's. -/
theorem survives_iff (s : State) (a b : Reg) (c : CachedLeaf) :
    s.survives a b c = true ↔
      (a ≠ 0 ∧ (c.mode.valid (s.cutX (s.rx a)) = false ∨ c.covers (s.cutX (s.rx a)) = false)) ∨
        (b ≠ 0 ∧ (c.leaf.global = true ∨ c.asid ≠ (s.rx b).toNat % 2 ^ s.asidBits)) := by
  simp [State.survives, bitsOf, ← Bool.not_eq_true]

/-- Settles O23: the meaning of each instruction where it is allowed, and where WFI and SFENCE.VMA are not. -/
theorem instructionsWithoutEffect : Obligations.InstructionsWithoutEffect := by
  intro s a b i o
  refine ⟨exec_fence s a b i, exec_fenceI s a b i, exec_prefetchI s a o, exec_prefetchR s a o, exec_prefetchW s a o,
    exec_wfi_allowed s, exec_wfi_illegal s, fun allowed => ?_, exec_sfenceVma_illegal s a b⟩
  refine ⟨_, exec_sfenceVma_allowed s a b allowed, rfl, fun c => ?_⟩
  rw [advance_tlb, mem_flush_tlb, survives_iff]

end Sys2Proof.Machine
end

section
/-!
PROOFS. The checks on pcc (10_state R42), and what a step outside and in debug mode comes to (60_exceptions R371, R395, R396).
-/
namespace Sys2Proof.Machine
open Sys2Proof

/-! ## The fetch -/

/-- Without a breakpoint a fetch goes on to the checks on pcc. -/
theorem fetch_bpCheck (s : State) (h : s.bpHit .fetch s.fetchAddr = false) : s.bpCheck .fetch s.fetchAddr = .ok () :=
  (bpCheck_eq_ok s .fetch s.fetchAddr ()).2 h

theorem pccCheck_untagged (s : State) (ht : s.pcc.tag = false) : s.pccCheck = .exc ⟨28, 0⟩ := by
  simp [State.pccCheck, ht, cheri]

theorem pccCheck_sealed (s : State) (ht : s.pcc.tag = true) (hs : s.pcc.s s.cfg = true) : s.pccCheck = .exc ⟨28, 1⟩ := by
  simp [State.pccCheck, ht, hs, cheri]

theorem pccCheck_notExecutable (s : State) (ht : s.pcc.tag = true) (hs : s.pcc.s s.cfg = false) (hx : (s.pcc.perms s.cfg).x = false) :
    s.pccCheck = .exc ⟨28, 2⟩ := by
  simp [State.pccCheck, ht, hs, hx, cheri]

theorem pccCheck_executable (s : State) (ht : s.pcc.tag = true) (hs : s.pcc.s s.cfg = false) (hx : (s.pcc.perms s.cfg).x = true) :
    s.pccCheck = .ok () := by
  simp [State.pccCheck, ht, hs, hx]

theorem pccLength_eq_ok (s : State) (n : Nat) (h : s.pcc.inBounds s.cfg s.pcc.addr n = true) : s.pccLength n = .ok () := by
  simp [State.pccLength, h]

theorem pccLength_eq_exc (s : State) (n : Nat) (h : s.pcc.inBounds s.cfg s.pcc.addr n = false) : s.pccLength n = .exc ⟨28, 3⟩ := by
  simp [State.pccLength, h, cheri]

theorem fetch_of_pccCheck_exc (s : State) (e : Exc) (hb : s.bpHit .fetch s.fetchAddr = false) (h : s.pccCheck = .exc e) :
    s.fetch = .exc e := by
  simp [State.fetch, fetch_bpCheck s hb, h]

/-- The first parcel out of pcc's bounds. -/
theorem fetch_of_short (s : State) (hb : s.bpHit .fetch s.fetchAddr = false) (hc : s.pccCheck = .ok ())
    (h2 : s.pcc.inBounds s.cfg s.pcc.addr 2 = false) : s.fetch = .exc ⟨28, 3⟩ := by
  simp [State.fetch, fetch_bpCheck s hb, hc, pccLength_eq_exc s 2 h2]

/-- The first parcel in pcc's bounds begins a 32-bit instruction that is not. -/
theorem fetch_of_shortWord (s : State) (hb : s.bpHit .fetch s.fetchAddr = false) (hc : s.pccCheck = .ok ())
    (h2 : s.pcc.inBounds s.cfg s.pcc.addr 2 = true) (p : BitVec 16) (hp : s.parcel s.fetchAddr = .ok p) (hh : isHalf p = false)
    (hl : p.extractLsb' 2 3 ≠ 7) (h4 : s.pcc.inBounds s.cfg s.pcc.addr 4 = false) : s.fetch = .exc ⟨28, 3⟩ := by
  simp only [State.fetch, fetch_bpCheck s hb, hc, pccLength_eq_ok s 2 h2, hp, Res.bind_ok]
  rw [if_neg (by simp [hh]), if_neg hl, pccLength_eq_exc s 4 h4, Res.bind_exc]

/-! ## A step outside debug mode -/

@[simp] theorem afterStep_false (o : Host.Outcome State Fault Refusal) : afterStep false o = o := by
  cases o <;> rfl

/-- With no halt request, no interrupt to take and no single step, a step runs the next instruction. -/
theorem step_eq_runNext (s : State) (hd : s.debug = false) (hr : (s.haltReq && s.cfg.hasSdext) = false)
    (hi : s.holdsInterrupts = true ∨ s.interrupt = none) (hs : s.stepping = false) : step s = s.runNext := by
  have none_taken : (if s.holdsInterrupts then none else s.interrupt) = none := by
    rcases hi with hi | hi <;> simp [hi]
  simp [step, hd, hr, State.runHart, none_taken, hs]

theorem runNext_of_exc (s : State) (e : Exc) (h : s.fetch = .exc e) : s.runNext = .next (takeException s e).tick := by
  simp [State.runNext, h, tickNext]

/-! ## A step in debug mode -/

theorem tickNext_eq_ticked (o : Host.Outcome State Fault Refusal) : tickNext o = ticked o := by
  cases o <;> rfl

theorem step_of_debug (s : State) (hd : s.debug = true) : step s = s.runBuffer := by
  simp [step, hd]

theorem runEnc_of_decode (s : State) (e : Enc) (i : Instr) (h : decodeEnc s.ctx e = .ok i) : s.runEnc e = exec i s := by
  simp [State.runEnc, h]

/-- In debug mode pcc does not bear on how an instruction decodes. -/
theorem ctx_of_debug (s : State) (hd : s.debug = true) (k : Cap) : ({ s with pcc := k } : State).ctx = s.ctx := by
  simp [State.ctx, State.capMode, State.cur64, hd]

theorem runBuffer_half (s : State) (p : BitVec 16) (rest : List (BitVec 16)) (hb : s.progBuf = p :: rest) (hp : isHalf p = true) :
    s.runBuffer = ticked (({ s with progBuf := rest } : State).runEnc (.half p)) := by
  simp [State.runBuffer, hb, hp, tickNext_eq_ticked]

theorem runBuffer_word (s : State) (p q : BitVec 16) (rest : List (BitVec 16)) (hb : s.progBuf = p :: q :: rest) (hp : isHalf p = false) :
    s.runBuffer = ticked (({ s with progBuf := rest } : State).runEnc (.word (q ++ p))) := by
  simp [State.runBuffer, hb, hp, tickNext_eq_ticked]

/-- In debug mode a step runs the next instruction of the program buffer: a 16-bit one. -/
theorem step_buffer_half (s : State) (p : BitVec 16) (rest : List (BitVec 16)) (i : Instr) (hd : s.debug = true)
    (hb : s.progBuf = p :: rest) (hp : isHalf p = true) (hi : decodeEnc s.ctx (.half p) = .ok i) :
    step s = ticked (exec i { s with progBuf := rest }) := by
  rw [step_of_debug s hd, runBuffer_half s p rest hb hp, runEnc_of_decode { s with progBuf := rest } _ i hi]

/-- And a 32-bit one. -/
theorem step_buffer_word (s : State) (p q : BitVec 16) (rest : List (BitVec 16)) (i : Instr) (hd : s.debug = true)
    (hb : s.progBuf = p :: q :: rest) (hp : isHalf p = false) (hi : decodeEnc s.ctx (.word (q ++ p)) = .ok i) :
    step s = ticked (exec i { s with progBuf := rest }) := by
  rw [step_of_debug s hd, runBuffer_word s p q rest hb hp, runEnc_of_decode { s with progBuf := rest } _ i hi]

/-- Settles O7: the checks on pcc in their order, the exception a step takes, and debug mode, which makes none of the checks. -/
theorem pccChecksFault : Obligations.PccChecksFault := by
  refine ⟨fun s hb => ⟨?untagged, ?sealed, ?notExecutable, ?short, ?shortWord⟩, ?taken, ?bufferHalf, ?bufferWord⟩
  case untagged => exact fun ht => fetch_of_pccCheck_exc s _ hb (pccCheck_untagged s ht)
  case sealed => exact fun ht hs => fetch_of_pccCheck_exc s _ hb (pccCheck_sealed s ht hs)
  case notExecutable => exact fun ht hs hx => fetch_of_pccCheck_exc s _ hb (pccCheck_notExecutable s ht hs hx)
  case short => exact fun ht hs hx => fetch_of_short s hb (pccCheck_executable s ht hs hx)
  case shortWord => exact fun ht hs hx => fetch_of_shortWord s hb (pccCheck_executable s ht hs hx)
  case taken => exact fun s e hd hr hi hs he => (step_eq_runNext s hd hr hi hs).trans (runNext_of_exc s e he)
  case bufferHalf =>
    exact fun s k p rest i hd hb hp hi => step_buffer_half { s with pcc := k } p rest i hd hb hp (by rwa [ctx_of_debug s hd])
  case bufferWord =>
    exact fun s k p q rest i hd hb hp hi => step_buffer_word { s with pcc := k } p q rest i hd hb hp (by rwa [ctx_of_debug s hd])

end Sys2Proof.Machine
end

section
/-!
PROOFS. Which bits of the metadata word the bounds and the permissions depend on (10_state R20, R21, R26, R27).
-/
namespace Sys2Proof.Machine
open Sys2Proof

/-! ## Fields as bits -/

theorem testBit_bitsOf (v : Word) (lo w j : Nat) : (bitsOf v lo w).testBit j = (decide (j < w) && v.getLsbD (lo + j)) := by
  simp [bitsOf, BitVec.testBit_toNat]

theorem bitsOf_congr (u v : Word) (lo w : Nat) (h : ∀ j, lo ≤ j → j < lo + w → u.getLsbD j = v.getLsbD j) :
    bitsOf u lo w = bitsOf v lo w := by
  apply Nat.eq_of_testBit_eq
  intro j
  rw [testBit_bitsOf, testBit_bitsOf]
  by_cases hj : j < w
  · rw [h (lo + j) (by omega) (by omega)]
  · simp [hj]

theorem bitsOf_ofNat (n lo w : Nat) (hn : n < 2 ^ 64) : bitsOf (BitVec.ofNat 64 n) lo w = n / 2 ^ lo % 2 ^ w := by
  rw [bitsOf, BitVec.toNat_ofNat, Nat.mod_eq_of_lt hn, Nat.shiftRight_eq_div_pow]

/-- The bounds depend on the bits up to EF alone. -/
theorem decodeBounds_congr (p : Params) (k k' : Cap) (a : Word) (h : ∀ j ≤ efBit p, k.md.getLsbD j = k'.md.getLsbD j) :
    k.decodeBounds p a = k'.decodeBounds p a := by
  have field (lo w : Nat) (hw : lo + w ≤ efBit p) : bitsOf k.md lo w = bitsOf k'.md lo w :=
    bitsOf_congr _ _ _ _ fun j _ hj => h j (by omega)
  have hef : k.ef p = k'.ef p := h _ le_rfl
  have ht8 : k.t8 p = k'.t8 p := by
    unfold Cap.t8; split
    · rfl
    · exact field _ _ (by simp_all [efBit])
  have htmid : k.tmid p = k'.tmid p := by unfold Cap.tmid; split <;> exact field _ _ (by simp_all [efBit])
  have hte : k.te p = k'.te p := by unfold Cap.te; split <;> exact field _ _ (by simp_all [efBit])
  have hbmid : k.bmid p = k'.bmid p := by unfold Cap.bmid; split <;> exact field _ _ (by simp_all [efBit])
  have hbe : k.be p = k'.be p := by unfold Cap.be; split <;> exact field _ _ (by simp_all [efBit])
  have hexp : k.exp p = k'.exp p := by rw [Cap.exp, Cap.exp, Cap.expField, Cap.expField, hef, ht8, hte, hbe]
  have hb : k.bMant p = k'.bMant p := by rw [Cap.bMant, Cap.bMant, hef, hbmid, hbe]
  have ht : k.tLow p = k'.tLow p := by rw [Cap.tLow, Cap.tLow, hef, htmid, hte]
  have htop : k.tMant p = k'.tMant p := by rw [Cap.tMant, Cap.tMant, hef, ht8, hb, ht]
  rw [Cap.decodeBounds, Cap.decodeBounds, hexp, hb, htop]

/-- The permissions depend on bits above M alone. -/
theorem perms_congr (p : Params) (k k' : Cap) (h : ∀ j, mBit p < j → k.md.getLsbD j = k'.md.getLsbD j) : k.perms p = k'.perms p := by
  have hap : k.ap p = k'.ap p := by
    unfold Cap.ap
    split <;> exact bitsOf_congr _ _ _ _ fun j hj _ => h j (by simp_all [mBit]; omega)
  simp only [Cap.perms, hap]

/-! ## Permission sets -/

theorem Perms.le_refl (q : Perms) : q.le q = true := by simp [Perms.le]

theorem Perms.le_trans {q r t : Perms} (h : q.le r = true) (h' : r.le t = true) : q.le t = true := by
  simp only [Perms.le, Bool.and_eq_true, Bool.or_eq_true, Bool.not_eq_true'] at *
  grind

theorem Perms.none_le (q : Perms) : (Perms.mk false false false false false).le q = true := rfl

/-- The permissions a mask leaves. -/
theorem Perms.masked_le (q : Perms) (c w r x asr : Bool) : (Perms.mk (q.c && c) (q.w && w) (q.r && r) (q.x && x) (q.asr && asr)).le q = true := by
  cases q
  simp only [Perms.le, Bool.and_eq_true, Bool.or_eq_true, Bool.not_eq_true', Bool.and_eq_false_iff]
  grind

theorem decodeAP64_bits (q : Perms) : decodeAP64 q.bits = q := by
  obtain ⟨c, w, r, x, asr⟩ := q
  revert c w r x asr
  decide

theorem Perms.bits_lt (q : Perms) : q.bits < 32 := by
  obtain ⟨c, w, r, x, asr⟩ := q
  revert c w r x asr
  decide

/-- The AP value with XLENMAX = 32: one that decodes to the set, or 0, which decodes to none. -/
theorem encodeAP_cases (p : Params) (q : Perms) (hx : p.xlenmax64 = false) :
    encodeAP p q < 16 ∧ (decodeAP32 (encodeAP p q) = q ∨ encodeAP p q = 0) := by
  simp only [encodeAP, hx, Bool.false_eq_true, if_false]
  cases hf : (List.range 16).find? fun n => n != 1 && decodeAP32 n == q with
  | none => exact ⟨by simp, .inr rfl⟩
  | some n =>
    have hn := List.mem_range.1 (List.mem_of_find?_eq_some hf)
    have hq := List.find?_some hf
    simp only [Bool.and_eq_true, beq_iff_eq] at hq
    exact ⟨hn, .inl hq.2⟩

/-- What AP is after AP and SDP are replaced. -/
theorem ap_withPerms (p : Params) (k : Cap) (ap sdp : Nat) (ha : ap < if p.xlenmax64 then 32 else 16)
    (hs : sdp < if p.xlenmax64 then 16 else 4) : (k.withPerms p ap sdp).ap p = ap := by
  unfold Cap.ap Cap.withPerms
  cases hx : p.xlenmax64
  · have mask : ∀ j < 30, 26 ≤ j → (apMask p ||| sdpMask p).getLsbD j = true := by
      simp only [apMask, sdpMask, hx, Bool.false_eq_true, if_false]; decide
    simp only [hx, Bool.false_eq_true, if_false] at ha hs ⊢
    rw [bitsOf_congr _ (BitVec.ofNat 64 (ap * 2 ^ 26 + sdp * 2 ^ 30)) _ _ fun j hl hj => by
      rw [getLsbD_putMask, if_pos (mask j (by omega) hl)], bitsOf_ofNat _ _ _ (by omega)]
    omega
  · have mask : ∀ j < 53, 48 ≤ j → (apMask p ||| sdpMask p).getLsbD j = true := by
      simp only [apMask, sdpMask, hx, if_true]; decide
    simp only [hx, if_true] at ha hs ⊢
    rw [bitsOf_congr _ (BitVec.ofNat 64 (ap * 2 ^ 48 + sdp * 2 ^ 53)) _ _ fun j hl hj => by
      rw [getLsbD_putMask, if_pos (mask j (by omega) hl)], bitsOf_ofNat _ _ _ (by omega)]
    omega

/-- SDP has 4 bits, or 2. -/
theorem sdp_lt (p : Params) (k : Cap) : k.sdp p < if p.xlenmax64 then 16 else 4 := by
  unfold Cap.sdp bitsOf
  split <;> exact Nat.mod_lt _ (by decide)

/-- The permissions written are those asked for, or fewer where XLENMAX = 32 has no row for them (41_cap_manipulate R175). -/
theorem perms_withPerms_le (p : Params) (k : Cap) (q : Perms) (sdp : Nat) (hs : sdp < if p.xlenmax64 then 16 else 4) :
    ((k.withPerms p (encodeAP p q) sdp).perms p).le q = true := by
  cases hx : p.xlenmax64
  · obtain ⟨hlt, hap⟩ := encodeAP_cases p q hx
    rw [Cap.perms, ap_withPerms p k _ _ (by simpa [hx] using hlt) hs, hx]
    rcases hap with hap | hap <;> simp only [Bool.false_eq_true, if_false, hap]
    · exact q.le_refl
    · exact q.none_le
  · have hap : encodeAP p q = q.bits := by simp [encodeAP, hx]
    rw [Cap.perms, ap_withPerms p k _ _ (by simpa [hx, hap] using q.bits_lt) hs, hx, if_pos rfl, hap, decodeAP64_bits]
    exact q.le_refl

/-! ## Updates that leave the bounds, or the permissions, alone -/

/-- AP and SDP are no part of the bounds. -/
theorem decodeBounds_withPerms (p : Params) (k : Cap) (ap sdp : Nat) (a : Word) :
    (k.withPerms p ap sdp).decodeBounds p a = k.decodeBounds p a := by
  apply decodeBounds_congr
  intro j hj
  have mask : (apMask p ||| sdpMask p).getLsbD j = false := by
    have below64 : ∀ j ≤ 26, (0x001F000000000000 ||| 0x01E0000000000000 : Word).getLsbD j = false := by decide
    have below32 : ∀ j ≤ 19, (0x3C000000 ||| 0xC0000000 : Word).getLsbD j = false := by decide
    cases hx : p.xlenmax64 <;> simp only [efBit, apMask, sdpMask, hx, Bool.false_eq_true, if_false, if_true] at hj ⊢
    · exact below32 j hj
    · exact below64 j hj
  rw [Cap.withPerms, getLsbD_putMask, mask]
  rfl

/-- A bit above EF is no part of the bounds. -/
theorem decodeBounds_putBit (p : Params) (t : Bool) (md a c : Word) (i : Nat) (b : Bool) (hi : efBit p < i) (h64 : i < 64) :
    (Cap.mk t (putBit md i b) a).decodeBounds p c = (Cap.mk t md a).decodeBounds p c := by
  apply decodeBounds_congr
  intro j hj
  rw [getLsbD_putBit _ _ _ _ h64, if_neg (by omega)]

/-- A bit up to M is no part of the permissions. -/
theorem perms_putBit (p : Params) (t : Bool) (md a : Word) (i : Nat) (b : Bool) (hi : i ≤ mBit p) :
    (Cap.mk t (putBit md i b) a).perms p = (Cap.mk t md a).perms p := by
  apply perms_congr
  intro j hj
  have : mBit p ≤ 47 := by unfold mBit; split <;> omega
  rw [getLsbD_putBit _ _ _ _ (by omega), if_neg (by omega)]

theorem getLsbD_boundsMask (p : Params) (j : Nat) : (boundsMask p).getLsbD j = decide (j ≤ efBit p) := by
  have below64 : ∀ j < 64, (0x07FFFFFF : Word).getLsbD j = decide (j ≤ 26) := by decide
  have below32 : ∀ j < 64, (0x000FFFFF : Word).getLsbD j = decide (j ≤ 19) := by decide
  by_cases hj : j < 64
  · cases hx : p.xlenmax64 <;> simp only [efBit, boundsMask, hx, Bool.false_eq_true, if_false, if_true]
    · exact below32 j hj
    · exact below64 j hj
  · have : efBit p ≤ 26 := by unfold efBit; split <;> omega
    rw [BitVec.getLsbD_of_ge _ _ (by omega), eq_comm, decide_eq_false_iff_not]
    omega

/-- The bounds set are read back from the bits of the encoding alone. -/
theorem decodeBounds_setBounds_bits (p : Params) (k : Cap) (len : Nat) (ex : Bool) (c : Word) :
    (k.setBounds p len ex).decodeBounds p c = (Cap.mk true (encodeBounds p k.addr.toNat len).bits k.addr).decodeBounds p c := by
  apply decodeBounds_congr
  intro j hj
  simp [Cap.setBounds, getLsbD_putMask, getLsbD_boundsMask, hj]

/-- Setting bounds leaves the permissions. -/
theorem perms_setBounds (p : Params) (k : Cap) (len : Nat) (ex : Bool) : (k.setBounds p len ex).perms p = k.perms p := by
  apply perms_congr
  intro j hj
  have : efBit p ≤ mBit p := by unfold efBit mBit; split <;> omega
  simp [Cap.setBounds, getLsbD_putMask, getLsbD_boundsMask, show ¬j ≤ efBit p by omega]

end Sys2Proof.Machine
end

section
/-!
PROOFS. Encoding bounds and decoding them agree (10_state R27, 41_cap_manipulate R181): each bound has the mantissa that `encodeBounds` writes, and the two are less
than half a window apart, so that the corrections of tables 8 and 9 find both from any address between them.
-/
namespace Sys2Proof.Machine
open Sys2Proof

/-! ## Multiples -/

theorem floorTo_le (g x : Nat) : floorTo g x ≤ x := Nat.div_mul_le_self x g

theorem dvd_floorTo (g x : Nat) : g ∣ floorTo g x := Nat.dvd_mul_left _ _

theorem dvd_ceilTo (g x : Nat) : g ∣ ceilTo g x := Nat.dvd_mul_left _ _

theorem le_floorTo (g x y : Nat) (hy : g ∣ y) (h : y ≤ x) : y ≤ floorTo g x := by
  rw [floorTo, ← Nat.div_mul_cancel hy]
  exact Nat.mul_le_mul_right _ (Nat.div_le_div_right h)

theorem le_ceilTo (g x : Nat) (hg : 0 < g) : x ≤ ceilTo g x := by
  have := Nat.lt_div_mul_add (a := x + g - 1) hg
  unfold ceilTo
  omega

theorem ceilTo_le (g x y : Nat) (hg : 0 < g) (hy : g ∣ y) (h : x ≤ y) : ceilTo g x ≤ y := by
  obtain ⟨c, rfl⟩ := hy
  have : (x + g - 1) / g ≤ c := by
    rw [← Nat.lt_succ_iff, Nat.div_lt_iff_lt_mul hg, Nat.succ_mul, Nat.mul_comm c g]
    omega
  rw [ceilTo, Nat.mul_comm g c]
  exact Nat.mul_le_mul_right _ this

/-! ## The exponent -/

/-- The least exponent that fits, or the last one looked at. -/
theorem findExp_spec (p : Params) (base top fuel e : Nat) :
    e ≤ findExp p base top fuel e ∧ findExp p base top fuel e ≤ e + fuel ∧
      (findExp p base top fuel e < e + fuel → expFits p base top (findExp p base top fuel e) = true) ∧
      (e < findExp p base top fuel e → expFits p base top (findExp p base top fuel e - 1) = false) := by
  induction fuel generalizing e with
  | zero => simp [findExp]
  | succ fuel ih =>
    unfold findExp
    split
    · next fits => exact ⟨le_rfl, by omega, fun _ => fits, fun h => absurd h (lt_irrefl e)⟩
    · next short =>
      obtain ⟨hlo, hhi, hfit, hleast⟩ := ih (e + 1)
      refine ⟨by omega, by omega, fun h => hfit (by omega), fun _ => ?_⟩
      rcases Nat.eq_or_lt_of_le hlo with h | h
      · rw [← h, Nat.add_sub_cancel]
        exact Bool.eq_false_iff.2 short
      · exact hleast h

/-- The exponent of the internal-exponent format for a request. -/
def requestExp (p : Params) (base len : Nat) : Nat := findExp p base (base + len) (capMaxE p) 0

theorem requestExp_le (p : Params) (base len : Nat) : requestExp p base len ≤ capMaxE p := by
  have := (findExp_spec p base (base + len) (capMaxE p) 0).2.1
  simpa [requestExp] using this

theorem capMaxE_add_mw (p : Params) : capMaxE p + mw p = p.xlenmax + 2 := by
  unfold capMaxE mw Params.xlenmax
  split <;> rfl

theorem capMaxE_add_hw_le (p : Params) : capMaxE p + hw p ≤ p.xlenmax := by
  unfold capMaxE hw Params.xlenmax
  split <;> omega

/-- The bounds of a request at an exponent. -/
def baseAt (p : Params) (base e : Nat) : Nat := floorTo (2 ^ (e + hw p)) base
def topAt (p : Params) (top e : Nat) : Nat := ceilTo (2 ^ (e + hw p)) top

theorem expFits_iff (p : Params) (base top e : Nat) : expFits p base top e = true ↔ topAt p top e - baseAt p base e < 2 ^ (e + mw p - 1) := by
  simp [expFits, topAt, baseAt]

/-- Bounds within the address space stay within it. -/
theorem topAt_le (p : Params) (top e : Nat) (he : e ≤ capMaxE p) (h : top ≤ 2 ^ p.xlenmax) : topAt p top e ≤ 2 ^ p.xlenmax := by
  have := capMaxE_add_hw_le p
  exact ceilTo_le _ _ _ (Nat.two_pow_pos _) (Nat.pow_dvd_pow 2 (by omega)) h

/-- The exponent chosen fits, the last one because the whole address space does. -/
theorem length_lt_of_requestExp (p : Params) (base len : Nat) (h : base + len ≤ 2 ^ p.xlenmax) :
    topAt p (base + len) (requestExp p base len) - baseAt p base (requestExp p base len) < 2 ^ (requestExp p base len + mw p - 1) := by
  have spec := findExp_spec p base (base + len) (capMaxE p) 0
  rw [Nat.zero_add] at spec
  rcases Nat.eq_or_lt_of_le (requestExp_le p base len) with he | he
  · have hsum := capMaxE_add_mw p
    have htop := topAt_le p (base + len) (requestExp p base len) he.le h
    have : 2 ^ p.xlenmax < 2 ^ (requestExp p base len + mw p - 1) := Nat.pow_lt_pow_right (by decide) (by omega)
    omega
  · exact (expFits_iff _ _ _ _).1 (spec.2.2.1 he)

theorem smallLen_iff (p : Params) (len : Nat) : smallLen p len = true ↔ len < if p.xlenmax64 then 4096 else 512 := by
  unfold smallLen
  split <;> simp

/-- And the one before it did not, so that the length takes the whole mantissa: its top bit is the one the format implies. -/
theorem length_ge_of_requestExp (p : Params) (base len : Nat) (hs : smallLen p len = false) :
    2 ^ (requestExp p base len + mw p - 2) ≤ topAt p (base + len) (requestExp p base len) - baseAt p base (requestExp p base len) := by
  have spec := (findExp_spec p base (base + len) (capMaxE p) 0).2.2.2
  change 0 < requestExp p base len → expFits p base (base + len) (requestExp p base len - 1) = false at spec
  have hlow := floorTo_le (2 ^ (requestExp p base len + hw p)) base
  have hhigh := le_ceilTo (2 ^ (requestExp p base len + hw p)) (base + len) (Nat.two_pow_pos _)
  have hmw : 10 ≤ mw p := by unfold mw; split <;> omega
  cases he : requestExp p base len with
  | zero =>
    have hlen : 2 ^ (mw p - 2) ≤ len := by
      have := mt (smallLen_iff p len).2 (by simp [hs])
      unfold mw
      cases hx : p.xlenmax64 <;> simp only [hx, Bool.false_eq_true, if_false, if_true] at this ⊢ <;> omega
    rw [he] at hlow hhigh
    rw [Nat.zero_add]
    unfold topAt baseAt
    omega
  | succ e =>
    rw [he] at spec
    have short : 2 ^ (e + mw p - 1) ≤ topAt p (base + len) e - baseAt p base e := by
      have noFit := spec (by omega)
      rw [Nat.add_sub_cancel] at noFit
      exact Nat.not_lt.1 fun h => by simp [(expFits_iff _ _ _ _).2 h] at noFit
    have step : 2 ^ (e + hw p) ∣ 2 ^ (e + 1 + hw p) := Nat.pow_dvd_pow 2 (by omega)
    have hbase : baseAt p base (e + 1) ≤ baseAt p base e := le_floorTo _ _ _ (step.trans (dvd_floorTo _ _)) (floorTo_le _ _)
    have htop : topAt p (base + len) e ≤ topAt p (base + len) (e + 1) :=
      ceilTo_le _ _ _ (Nat.two_pow_pos _) (step.trans (dvd_ceilTo _ _)) (le_ceilTo _ _ (Nat.two_pow_pos _))
    rw [show e + 1 + mw p - 2 = e + mw p - 1 by omega]
    omega

/-! ## The two most significant bits of T (10_state R27) -/

/-- B, the low bits of T and the top bit of the length give T. -/
theorem topMantissa_eq (p : Params) (b t l : Nat) (hl : l ≤ 1) (h : b ≤ t) (hlo : l * 2 ^ (mw p - 2) ≤ t - b)
    (hhi : t - b < (l + 1) * 2 ^ (mw p - 2)) :
    ((b % 2 ^ mw p / 2 ^ (mw p - 2) + (if t % 2 ^ (mw p - 2) < b % 2 ^ mw p % 2 ^ (mw p - 2) then 1 else 0) + l) % 4) * 2 ^ (mw p - 2) +
      t % 2 ^ (mw p - 2) = t % 2 ^ mw p := by
  unfold mw at *
  cases hx : p.xlenmax64 <;> simp only [hx, Bool.false_eq_true, if_false, if_true] at * <;> norm_num at * <;>
    obtain rfl | rfl : l = 0 ∨ l = 1 := by omega
  all_goals split <;> omega

/-! ## The fields that are written -/

/-- The fields of an encoding are those it was made of. -/
theorem fields_of_boundsBits (p : Params) (k : Cap) (ef : Bool) (t8 tmid te bmid be : Nat) (hk : k.md = boundsBits p ef t8 tmid te bmid be)
    (h8 : t8 ≤ if p.xlenmax64 then 0 else 1) (htmid : tmid < 2 ^ (mw p - 2 - hw p)) (hte : te < 2 ^ hw p)
    (hbmid : bmid < 2 ^ (mw p - hw p)) (hbe : be < 2 ^ hw p) :
    k.ef p = ef ∧ k.t8 p = t8 ∧ k.tmid p = tmid ∧ k.te p = te ∧ k.bmid p = bmid ∧ k.be p = be := by
  have hbit : ef.toNat ≤ 1 := by cases ef <;> decide
  have hef : ef = decide (ef.toNat = 1) := by cases ef <;> rfl
  simp only [Cap.ef, Cap.t8, Cap.tmid, Cap.te, Cap.bmid, Cap.be, hk, boundsBits, efBit]
  cases hx : p.xlenmax64 <;> simp only [hx, mw, hw, Bool.false_eq_true, if_false, if_true] at * <;> norm_num at h8 htmid hte hbmid hbe
  · refine ⟨?_, ?_, ?_, ?_, ?_, ?_⟩
    · rw [BitVec.getLsbD_ofNat, Nat.testBit_eq_decide_div_mod_eq, hef]
      simp only [show 19 < 64 by decide, decide_true, Bool.true_and, decide_eq_decide]
      simp only [← hef]
      omega
    all_goals rw [bitsOf_ofNat _ _ _ (by omega)]; omega
  · refine ⟨?_, ?_, ?_, ?_, ?_, ?_⟩
    · rw [BitVec.getLsbD_ofNat, Nat.testBit_eq_decide_div_mod_eq, hef]
      simp only [show 26 < 64 by decide, decide_true, Bool.true_and, decide_eq_decide]
      simp only [← hef]
      omega
    · exact h8.symm
    all_goals rw [bitsOf_ofNat _ _ _ (by omega)]; omega

/-! ## Decoding finds both bounds -/

/-- Tables 8 and 9, in eighths of a window: seen from an address in the window that starts an eighth below the base, the correction gives the window's part a bound
is in. -/
theorem boundCorrection_window (a x b : Nat) (ha : b ≤ a) (ha' : a < b + 7) (hx : b ≤ x) (hx' : x < b + 7) :
    ((a / 8 : Nat) : Int) + boundCorrection (a % 8) (x % 8) ((b % 8 + 7) % 8) = ((x / 8 : Nat) : Int) := by
  unfold boundCorrection
  split
  · omega
  · split <;> omega

theorem mantissa_div (e m x : Nat) (hm : 3 ≤ m) : x / 2 ^ e % 2 ^ m / 2 ^ (m - 3) = x / 2 ^ (e + m - 3) % 8 := by
  rw [show 2 ^ m = 2 ^ (m - 3) * 8 by rw [show (8 : Nat) = 2 ^ 3 by rfl, ← pow_add]; congr 1; omega, Nat.mod_mul_right_div_self,
    Nat.div_div_eq_div_mul, ← pow_add]
  congr 3
  omega

theorem mantissa_mul (e m x : Nat) (h : 2 ^ e ∣ x) : x / 2 ^ e % 2 ^ m * 2 ^ e = x % 2 ^ (e + m) := by
  obtain ⟨y, rfl⟩ := h
  rw [Nat.mul_div_cancel_left _ (Nat.two_pow_pos e), pow_add, Nat.mul_mod_mul_left, Nat.mul_comm]

/-- One bound, from its mantissa and an address of the same window. -/
theorem bound_of_mantissa (e m a x b : Nat) (hm : 3 ≤ m) (hx : 2 ^ e ∣ x) (ha : b / 2 ^ (e + m - 3) ≤ a / 2 ^ (e + m - 3))
    (ha' : a / 2 ^ (e + m - 3) < b / 2 ^ (e + m - 3) + 7) (hxb : b / 2 ^ (e + m - 3) ≤ x / 2 ^ (e + m - 3))
    (hxb' : x / 2 ^ (e + m - 3) < b / 2 ^ (e + m - 3) + 7) :
    (((a >>> (e + m) : Nat) : Int) + boundCorrection ((a >>> (e + m - 3)) % 8) (x / 2 ^ e % 2 ^ m / 2 ^ (m - 3))
      ((b / 2 ^ e % 2 ^ m / 2 ^ (m - 3) + 7) % 8)) * ((2 ^ (e + m) : Nat) : Int) + ((x / 2 ^ e % 2 ^ m * 2 ^ e : Nat) : Int) = (x : Int) := by
  have eighths (y : Nat) : y / 2 ^ (e + m) = y / 2 ^ (e + m - 3) / 8 := by
    rw [Nat.div_div_eq_div_mul, show (8 : Nat) = 2 ^ 3 by rfl, ← pow_add]
    congr 2
    omega
  rw [mantissa_div e m x hm, mantissa_div e m b hm, mantissa_mul e m x hx, Nat.shiftRight_eq_div_pow, Nat.shiftRight_eq_div_pow,
    eighths, boundCorrection_window _ _ _ ha ha' hxb hxb', ← eighths]
  exact_mod_cast Nat.div_add_mod' x (2 ^ (e + m))

/-- Bounds less than half the address space apart need no turn of the top's most significant bit. -/
theorem topBits_le (h b t : Nat) (hbt : b ≤ t) (hl : t - b < h) : (t / h + 4 - b / h) % 4 ≤ 1 := by
  have hh : 0 < h := by omega
  have h1 : b / h ≤ t / h := Nat.div_le_div_right hbt
  have h2 : t / h ≤ b / h + 1 := by
    rw [← Nat.lt_succ_iff, Nat.div_lt_iff_lt_mul hh]
    have := Nat.lt_div_mul_add (a := b) hh
    rw [Nat.succ_mul, Nat.add_mul, Nat.one_mul]
    omega
  omega

theorem truncX_toNat_lt (p : Params) (a : Word) : (truncX p a).toNat < 2 ^ p.xlenmax := by
  unfold truncX Params.xlenmax
  split
  · exact a.isLt
  · simp only [BitVec.toNat_setWidth]
    omega

/-- The bounds `b` and `t` are decoded from their mantissas against any address from the one to the other. -/
theorem decodeBounds_of_mantissas (p : Params) (k : Cap) (a : Word) (e b t : Nat) (he : k.exp p = e) (hb : 2 ^ e ∣ b) (ht : 2 ^ e ∣ t)
    (hbm : k.bMant p = b / 2 ^ e % 2 ^ mw p) (htm : k.tMant p = t / 2 ^ e % 2 ^ mw p) (hba : b ≤ (truncX p a).toNat)
    (hat : (truncX p a).toNat ≤ t) (hlen : t - b < 2 ^ (e + mw p - 1)) (htop : t ≤ 2 ^ p.xlenmax) : k.decodeBounds p a = (b, t) := by
  have hmw : 3 ≤ mw p := by unfold mw; split <;> omega
  have ha := truncX_toNat_lt p a
  have hQ : 2 ^ (e + mw p - 1) = 4 * 2 ^ (e + mw p - 3) := by
    rw [show e + mw p - 1 = 2 + (e + mw p - 3) by omega, pow_add]
    rfl
  have near (y : Nat) (hy : y ≤ t) : y / 2 ^ (e + mw p - 3) < b / 2 ^ (e + mw p - 3) + 7 := by
    rw [Nat.div_lt_iff_lt_mul (Nat.two_pow_pos _), Nat.add_mul]
    have := Nat.lt_div_mul_add (a := b) (Nat.two_pow_pos (e + mw p - 3))
    omega
  have hbound (x : Nat) (hx : 2 ^ e ∣ x) (hbx : b ≤ x) (hxt : x ≤ t) :=
    bound_of_mantissa e (mw p) (truncX p a).toNat x b hmw hx (Nat.div_le_div_right hba) (near _ hat) (Nat.div_le_div_right hbx) (near _ hxt)
  have hmodb : ((b : Int) % ((2 ^ p.xlenmax : Nat) : Int)).toNat = b := by
    rw [← Int.natCast_mod, Int.toNat_natCast, Nat.mod_eq_of_lt (by omega)]
  have hmodt : ((t : Int) % ((2 ^ (p.xlenmax + 1) : Nat) : Int)).toNat = t := by
    rw [← Int.natCast_mod, Int.toNat_natCast, Nat.mod_eq_of_lt (by rw [pow_succ]; omega)]
  have hflip : ¬(e + 1 < capMaxE p ∧ 1 < (t / 2 ^ (p.xlenmax - 1) + 4 - b / 2 ^ (p.xlenmax - 1)) % 4) := by
    rintro ⟨hlt, hturn⟩
    have hsum := capMaxE_add_mw p
    have hhalf : 2 ^ (e + mw p - 1) ≤ 2 ^ (p.xlenmax - 1) := Nat.pow_le_pow_right (by decide) (by omega)
    have := topBits_le (2 ^ (p.xlenmax - 1)) b t (by omega) (by omega)
    omega
  simp only [Cap.decodeBounds, he, hbm, htm, hbound b hb le_rfl (by omega), hbound t ht (by omega) le_rfl, hmodb, hmodt, if_neg hflip]

end Sys2Proof.Machine
end

section
/-!
PROOFS. The fields `encodeBounds` writes decode to the bounds it names (41_cap_manipulate R179, R181).
-/
namespace Sys2Proof.Machine
open Sys2Proof

/-! ## Mantissas -/

/-- A mantissa's low bits are 0 where the format stores the exponent in their place. -/
theorem mantissa_mid (e h m x : Nat) (hx : 2 ^ (e + h) ∣ x) (hm : h ≤ m) : x / 2 ^ e % 2 ^ m / 2 ^ h * 2 ^ h = x / 2 ^ e % 2 ^ m := by
  obtain ⟨c, rfl⟩ := hx
  apply Nat.div_mul_cancel
  rw [Nat.dvd_mod_iff (Nat.pow_dvd_pow 2 hm), pow_add, Nat.mul_assoc, Nat.mul_div_cancel_left _ (Nat.two_pow_pos e)]
  exact Nat.dvd_mul_right _ _

theorem mantissa_mid_lt (m h x : Nat) (hm : h ≤ m) : x % 2 ^ m / 2 ^ h < 2 ^ (m - h) := by
  apply Nat.div_lt_of_lt_mul
  rw [← pow_add, Nat.add_sub_cancel' hm]
  exact Nat.mod_lt _ (Nat.two_pow_pos m)

/-- A length in units of the exponent. -/
theorem two_pow_le_mantissa_sub (e n x y : Nat) (hx : 2 ^ e ∣ x) (hy : 2 ^ e ∣ y) : 2 ^ n ≤ x / 2 ^ e - y / 2 ^ e ↔ 2 ^ (e + n) ≤ x - y := by
  obtain ⟨c, rfl⟩ := hx
  obtain ⟨d, rfl⟩ := hy
  rw [Nat.mul_div_cancel_left _ (Nat.two_pow_pos e), Nat.mul_div_cancel_left _ (Nat.two_pow_pos e), ← Nat.mul_sub, pow_add,
    Nat.mul_le_mul_left_iff (Nat.two_pow_pos e)]

theorem hw_le (p : Params) : hw p + 2 ≤ mw p := by
  unfold hw mw
  split <;> omega

/-! ## The exponent-zero format -/

/-- The bit that the exponent-zero format stores with XLENMAX = 32: the length has the bit below the two most significant of T. -/
def lengthBit (p : Params) (base top : Nat) : Nat :=
  if p.xlenmax64 then 0
  else (top % 2 ^ mw p / 2 ^ (mw p - 2) + 8 - base % 2 ^ mw p / 2 ^ (mw p - 2) -
    (if top % 2 ^ mw p % 2 ^ (mw p - 2) < base % 2 ^ mw p % 2 ^ (mw p - 2) then 1 else 0)) % 4 % 2

theorem encodeBounds_of_small (p : Params) (base len : Nat) (hs : smallLen p len = true) :
    encodeBounds p base len =
      { bits := boundsBits p true (lengthBit p base (base + len)) ((base + len) % 2 ^ mw p % 2 ^ (mw p - 2) / 2 ^ hw p)
          ((base + len) % 2 ^ mw p % 2 ^ (mw p - 2) % 2 ^ hw p) (base % 2 ^ mw p / 2 ^ hw p) (base % 2 ^ mw p % 2 ^ hw p)
        exact := true, base := base, top := base + len, ef := true, exp := 0 } := by
  unfold encodeBounds
  rw [if_pos hs]
  rfl

/-- For a small length that bit is what is left of it above the low bits of T. -/
theorem lengthBit_spec (p : Params) (base len : Nat) (hs : smallLen p len = true) :
    lengthBit p base (base + len) ≤ (if p.xlenmax64 then 0 else 1) ∧ lengthBit p base (base + len) * 2 ^ (mw p - 2) ≤ len ∧
      len < (lengthBit p base (base + len) + 1) * 2 ^ (mw p - 2) := by
  rw [smallLen_iff] at hs
  unfold lengthBit mw
  cases hx : p.xlenmax64 <;> simp only [hx, Bool.false_eq_true, if_false, if_true] at hs ⊢ <;> norm_num
  · split <;> omega
  · exact hs

/-- The fields of the exponent-zero format. -/
theorem fields_of_small (p : Params) (k : Cap) (base len : Nat) (hs : smallLen p len = true) (hk : k.md = (encodeBounds p base len).bits) :
    k.ef p = true ∧ k.t8 p = lengthBit p base (base + len) ∧ k.bMant p = base % 2 ^ mw p ∧ k.tLow p = (base + len) % 2 ^ (mw p - 2) := by
  rw [encodeBounds_of_small p _ _ hs] at hk
  have hmw := hw_le p
  have room := Nat.two_pow_pos (hw p)
  obtain ⟨hef, ht8, htmid, hte, hbmid, hbe⟩ := fields_of_boundsBits p k _ _ _ _ _ _ hk (lengthBit_spec p base len hs).1
    (mantissa_mid_lt _ _ _ (by omega)) (Nat.mod_lt _ room) (mantissa_mid_lt _ _ _ (by omega)) (Nat.mod_lt _ room)
  refine ⟨hef, ht8, ?_, ?_⟩
  · rw [Cap.bMant, hef, hbmid, hbe, if_pos rfl, Nat.div_add_mod']
  · rw [Cap.tLow, hef, htmid, hte, if_pos rfl, Nat.div_add_mod', Nat.mod_mod_of_dvd _ (Nat.pow_dvd_pow 2 (by omega))]

theorem decodeBounds_of_small (p : Params) (k : Cap) (a : Word) (len : Nat) (ha : truncX p a = a) (hl : a.toNat + len ≤ 2 ^ p.xlenmax)
    (hs : smallLen p len = true) (hk : k.md = (encodeBounds p a.toNat len).bits) : k.decodeBounds p a = (a.toNat, a.toNat + len) := by
  obtain ⟨hef, ht8, hbm, htl⟩ := fields_of_small p k a.toNat len hs hk
  obtain ⟨hbit, hlo, hhi⟩ := lengthBit_spec p a.toNat len hs
  have hbit1 : lengthBit p a.toNat (a.toNat + len) ≤ 1 := hbit.trans (by split <;> decide)
  have hmw := hw_le p
  have htm : k.tMant p = (a.toNat + len) % 2 ^ mw p := by
    rw [Cap.tMant, hef, ht8, hbm, htl, if_pos rfl]
    exact topMantissa_eq p a.toNat (a.toNat + len) _ hbit1 (by omega) (by omega) (by omega)
  have hhalf : len < 2 ^ (0 + mw p - 1) := by
    rw [show 0 + mw p - 1 = mw p - 2 + 1 by omega, pow_succ']
    exact hhi.trans_le (Nat.mul_le_mul_right _ (by omega))
  exact decodeBounds_of_mantissas p k a 0 _ _ (by rw [Cap.exp, hef, if_pos rfl]) (one_dvd _) (one_dvd _) (by rw [hbm, pow_zero, Nat.div_one])
    (by rw [htm, pow_zero, Nat.div_one]) (by rw [ha]) (by rw [ha]; omega) (by omega) hl

/-! ## The internal-exponent format -/

/-- Where the stored exponent stands: T8, TE and BE. -/
def expHigh (p : Params) (f : Nat) : Nat := if p.xlenmax64 then 0 else f / 16
def expMid (p : Params) (f : Nat) : Nat := if p.xlenmax64 then f / 8 else f / 4 % 4
def expLow (p : Params) (f : Nat) : Nat := if p.xlenmax64 then f % 8 else f % 4

theorem encodeBounds_of_large (p : Params) (base len : Nat) (hs : smallLen p len = false) :
    encodeBounds p base len =
      let e := requestExp p base len
      let b := baseAt p base e
      let t := topAt p (base + len) e
      { bits := boundsBits p false (expHigh p (capMaxE p - e)) (t / 2 ^ e % 2 ^ (mw p - 2) / 2 ^ hw p) (expMid p (capMaxE p - e))
          (b / 2 ^ e % 2 ^ mw p / 2 ^ hw p) (expLow p (capMaxE p - e))
        exact := b == base && t == base + len, base := b, top := t, ef := false, exp := e } := by
  unfold encodeBounds
  rw [if_neg (by simp [hs])]
  cases hx : p.xlenmax64 <;>
    simp only [expHigh, expMid, expLow, requestExp, baseAt, topAt, Nat.shiftRight_eq_div_pow, hx, Bool.false_eq_true, if_false, if_true]

/-- The three parts have the room they need, and together are the exponent. -/
theorem expParts_spec (p : Params) (f : Nat) (hf : f ≤ capMaxE p) :
    expHigh p f ≤ (if p.xlenmax64 then 0 else 1) ∧ expMid p f < 2 ^ hw p ∧ expLow p f < 2 ^ hw p ∧
      (if p.xlenmax64 then expMid p f * 8 + expLow p f else expHigh p f * 16 + expMid p f * 4 + expLow p f) = f := by
  unfold expHigh expMid expLow hw
  unfold capMaxE at hf
  cases hx : p.xlenmax64 <;> simp only [hx, Bool.false_eq_true, if_false, if_true] at hf ⊢ <;> norm_num <;> omega

/-- The fields of the internal-exponent format. -/
theorem fields_of_large (p : Params) (k : Cap) (base len e : Nat) (hs : smallLen p len = false) (he : requestExp p base len = e)
    (hk : k.md = (encodeBounds p base len).bits) :
    k.ef p = false ∧ k.exp p = e ∧ k.bMant p = baseAt p base e / 2 ^ e % 2 ^ mw p ∧
      k.tLow p = topAt p (base + len) e / 2 ^ e % 2 ^ (mw p - 2) := by
  have hmax := requestExp_le p base len
  rw [encodeBounds_of_large p _ _ hs, he] at hk
  rw [he] at hmax
  have hmw := hw_le p
  obtain ⟨hhigh, hmid, hlow, hsum⟩ := expParts_spec p (capMaxE p - e) (Nat.sub_le _ _)
  obtain ⟨hef, ht8, htmid, hte, hbmid, hbe⟩ := fields_of_boundsBits p k _ _ _ _ _ _ hk hhigh (mantissa_mid_lt _ _ _ (by omega)) hmid
    (mantissa_mid_lt _ _ _ (by omega)) hlow
  refine ⟨hef, ?_, ?_, ?_⟩
  · rw [Cap.exp, Cap.expField, hef, ht8, hte, hbe, hsum, if_neg (by decide)]
    omega
  · rw [Cap.bMant, hef, hbmid, if_neg (by decide), Nat.add_zero]
    exact mantissa_mid _ _ _ _ (dvd_floorTo _ _) (by omega)
  · rw [Cap.tLow, hef, htmid, if_neg (by decide), Nat.add_zero]
    exact mantissa_mid _ _ _ _ (dvd_ceilTo _ _) (by omega)

theorem decodeBounds_of_large (p : Params) (k : Cap) (a : Word) (len e : Nat) (ha : truncX p a = a) (hl : a.toNat + len ≤ 2 ^ p.xlenmax)
    (hs : smallLen p len = false) (he : requestExp p a.toNat len = e) (hk : k.md = (encodeBounds p a.toNat len).bits) :
    k.decodeBounds p a = (baseAt p a.toNat e, topAt p (a.toNat + len) e) := by
  obtain ⟨hef, hexp, hbm, htl⟩ := fields_of_large p k a.toNat len e hs he hk
  have hlt := length_lt_of_requestExp p a.toNat len hl
  have hge := length_ge_of_requestExp p a.toNat len hs
  have hmax := requestExp_le p a.toNat len
  rw [he] at hlt hge hmax
  have hmw := hw_le p
  have hble : baseAt p a.toNat e ≤ a.toNat := floorTo_le _ _
  have htle : a.toNat + len ≤ topAt p (a.toNat + len) e := le_ceilTo _ _ (Nat.two_pow_pos _)
  have unit : 2 ^ e ∣ 2 ^ (e + hw p) := Nat.pow_dvd_pow 2 (by omega)
  have hbdvd : 2 ^ e ∣ baseAt p a.toNat e := unit.trans (dvd_floorTo _ _)
  have htdvd : 2 ^ e ∣ topAt p (a.toNat + len) e := unit.trans (dvd_ceilTo _ _)
  have longer := (two_pow_le_mantissa_sub e (mw p - 2) _ _ htdvd hbdvd).2 (by rwa [← Nat.add_sub_assoc (by omega)])
  have shorter := mt (two_pow_le_mantissa_sub e (mw p - 2 + 1) _ _ htdvd hbdvd).1
    (by rw [show e + (mw p - 2 + 1) = e + mw p - 1 by omega]; omega)
  rw [pow_succ'] at shorter
  have htm : k.tMant p = topAt p (a.toNat + len) e / 2 ^ e % 2 ^ mw p := by
    simp only [Cap.tMant, hef, hbm, htl, Bool.false_eq_true, if_false]
    have hle : baseAt p a.toNat e / 2 ^ e ≤ topAt p (a.toNat + len) e / 2 ^ e := Nat.div_le_div_right (by omega)
    exact topMantissa_eq p _ _ 1 le_rfl hle (by omega) (by omega)
  exact decodeBounds_of_mantissas p k a e _ _ hexp hbdvd htdvd hbm htm (by rwa [ha]) (by rw [ha]; omega) hlt (topAt_le p _ e hmax hl)

/-! ## Setting bounds -/

/-- The encoder's bounds contain the request. -/
theorem encodeBounds_contains (p : Params) (base len : Nat) :
    (encodeBounds p base len).base ≤ base ∧ base + len ≤ (encodeBounds p base len).top := by
  cases hs : smallLen p len
  · rw [encodeBounds_of_large p _ _ hs]
    exact ⟨floorTo_le _ _, le_ceilTo _ _ (Nat.two_pow_pos _)⟩
  · rw [encodeBounds_of_small p _ _ hs]
    exact ⟨le_rfl, le_rfl⟩

theorem decodeBounds_encodeBounds (p : Params) (k : Cap) (a : Word) (len : Nat) (ha : truncX p a = a)
    (hl : a.toNat + len ≤ 2 ^ p.xlenmax) (hk : k.md = (encodeBounds p a.toNat len).bits) :
    k.decodeBounds p a = ((encodeBounds p a.toNat len).base, (encodeBounds p a.toNat len).top) := by
  cases hs : smallLen p len
  · rw [decodeBounds_of_large p k a len _ ha hl hs rfl hk, encodeBounds_of_large p _ _ hs]
  · rw [decodeBounds_of_small p k a len ha hl hs hk, encodeBounds_of_small p _ _ hs]

/-- Bounds that are set decode to those the encoder chose, for a request within the address space. -/
theorem decodeBounds_setBounds (p : Params) (k : Cap) (len : Nat) (ex : Bool) (ha : truncX p k.addr = k.addr)
    (hl : k.addr.toNat + len ≤ 2 ^ p.xlenmax) :
    (k.setBounds p len ex).decodeBounds p k.addr = ((encodeBounds p k.addr.toNat len).base, (encodeBounds p k.addr.toNat len).top) :=
  (decodeBounds_setBounds_bits p k len ex k.addr).trans (decodeBounds_encodeBounds p _ k.addr len ha hl rfl)

end Sys2Proof.Machine
end

section
/-!
PROOFS. No result of a manipulation instruction grants more than its source (10_state R48, 41_cap_manipulate R170 to R183).
-/
namespace Sys2Proof.Machine
open Sys2Proof

/-- A tagged result `r` grants no more than its source `k`: the source is tagged and has every permission of the result, and, where its address fits and its top is
within the address space, its bounds contain the result's. -/
def Cap.Narrows (p : Params) (r k : Cap) : Prop :=
  k.tag = true ∧ (r.perms p).le (k.perms p) = true ∧
    (truncX p k.addr = k.addr → k.top p ≤ 2 ^ p.xlenmax →
      k.base p ≤ r.base p ∧ r.top p ≤ k.top p ∧ (k.base p ≤ k.top p → r.base p ≤ r.top p))

/-- A result with the bounds of its source. -/
theorem narrows_of_sameBounds (p : Params) (r k : Cap) (ht : k.tag = true) (hp : (r.perms p).le (k.perms p) = true)
    (hb : r.decodeBounds p r.addr = k.decodeBounds p k.addr) : r.Narrows p k := by
  have hbase : r.base p = k.base p := congrArg Prod.fst hb
  have htop : r.top p = k.top p := congrArg Prod.snd hb
  exact ⟨ht, hp, fun _ _ => ⟨hbase.ge, htop.le, fun h => by rwa [hbase, htop]⟩⟩

/-- Another address in the representable range (CADD, CADDI, SCADDR). -/
theorem narrows_withAddress (p : Params) (k : Cap) (a : Word) (h : (withAddress p k a).tag = true) : (withAddress p k a).Narrows p k := by
  simp only [withAddress, Cap.representable, Bool.and_eq_true, decide_eq_true_eq] at h
  obtain ⟨⟨ht, -⟩, -, hb⟩ := h
  exact narrows_of_sameBounds p _ k ht (Perms.le_refl _) hb.symm

/-- Permissions within the source's, written in place of its own (ACPERM). -/
theorem narrows_withPerms (p : Params) (k : Cap) (q : Perms) (sdp : Nat) (t : Bool) (hq : q.le (k.perms p) = true)
    (hs : sdp < if p.xlenmax64 then 16 else 4) (ht : k.tag = true) :
    ({ k.withPerms p (encodeAP p q) sdp with tag := t } : Cap).Narrows p k :=
  narrows_of_sameBounds p _ k ht (Perms.le_trans (perms_withPerms_le p k q sdp hs) hq) (decodeBounds_withPerms p k _ _ k.addr)

/-- A metadata bit between EF and M replaced (SENTRY, SCMODE). -/
theorem narrows_putBit (p : Params) (k : Cap) (t : Bool) (i : Nat) (b : Bool) (hlo : efBit p < i) (hhi : i ≤ mBit p) (ht : k.tag = true) :
    (Cap.mk t (putBit k.md i b) k.addr).Narrows p k := by
  have : mBit p < 64 := by unfold mBit; split <;> omega
  refine narrows_of_sameBounds p _ k ht ?_ (decodeBounds_putBit p t k.md k.addr k.addr i b hlo (by omega))
  rw [perms_putBit p t k.md k.addr i b hhi]
  exact Perms.le_refl _

/-- A capability that the source contains (CBLD). -/
theorem narrows_of_isCapSubset (p : Params) (k r : Cap) (t : Bool) (ht : k.tag = true) (hd : r.derivable p = true)
    (hsub : isCapSubset p r k = true) : (Cap.mk t r.md r.addr).Narrows p k := by
  simp only [isCapSubset, Bool.and_eq_true, decide_eq_true_eq] at hsub
  simp only [Cap.derivable, Bool.and_eq_true, decide_eq_true_eq] at hd
  obtain ⟨⟨⟨⟨-, hbase⟩, htop⟩, hperms⟩, -⟩ := hsub
  obtain ⟨⟨-, horder⟩, -⟩ := hd
  exact ⟨ht, hperms, fun _ _ => ⟨hbase, htop, fun _ => horder⟩⟩

/-- New bounds, which keep the tag only within the source's (SCBNDS, SCBNDSI, SCBNDSR). -/
theorem narrows_setBounds (p : Params) (k : Cap) (len : Nat) (ex : Bool) (h : (k.setBounds p len ex).tag = true) :
    (k.setBounds p len ex).Narrows p k := by
  have checks := h
  simp only [Cap.setBounds, Bool.and_eq_true, decide_eq_true_eq] at checks
  obtain ⟨⟨⟨⟨⟨ht, -⟩, -⟩, hbase⟩, htop⟩, -⟩ := checks
  refine ⟨ht, by rw [perms_setBounds]; exact Perms.le_refl _, fun ha hspace => ?_⟩
  obtain ⟨hlow, hhigh⟩ := encodeBounds_contains p k.addr.toNat len
  have hb := decodeBounds_setBounds p k len ex ha (by omega)
  have hrbase : (k.setBounds p len ex).base p = _ := congrArg Prod.fst hb
  have hrtop : (k.setBounds p len ex).top p = _ := congrArg Prod.snd hb
  rw [hrbase, hrtop]
  exact ⟨hbase, htop, fun _ => by omega⟩

/-- The bits of SDP that a mask leaves. -/
theorem sdp_and_lt (p : Params) (k : Cap) (m : Nat) : k.sdp p &&& m < if p.xlenmax64 then 16 else 4 :=
  Nat.lt_of_le_of_lt Nat.and_le_left (sdp_lt p k)

/-- The tag is lost of a sealed source, and never gained. -/
theorem unsealed_tag {t b : Bool} (h : (t && !b) = true) : t = true := (Bool.and_eq_true_iff.1 h).1

/-- Settles O28: each instruction's result narrows its source, by the lemma for the part of the capability it replaces; the cases in the order of the statement. -/
theorem resultsNeverWiden : Obligations.ResultsNeverWiden := by
  intro i s rd k src hk hi htag
  have sBit_range : efBit s.cfg < sBit s.cfg ∧ sBit s.cfg ≤ mBit s.cfg := by
    unfold efBit sBit mBit; split <;> omega
  have mBit_range : efBit s.cfg < mBit s.cfg := by unfold efBit mBit; split <;> omega
  change k.Narrows s.cfg (s.rc src)
  rcases hi with ⟨d, rfl⟩ | ⟨d, b, rfl⟩ | ⟨d, m, rfl⟩ | ⟨d, b, rfl⟩ | ⟨d, b, rfl⟩ | ⟨d, b, rfl⟩ | ⟨d, rfl⟩ | ⟨d, b, rfl⟩ | ⟨d, b, rfl⟩ |
    ⟨d, h, m, rfl⟩ | ⟨d, b, rfl⟩ | ⟨d, b, rfl⟩ <;> cases hk
  · exact narrows_of_sameBounds _ _ _ htag (Perms.le_refl _) rfl
  · exact narrows_withAddress _ _ _ htag
  · exact narrows_withAddress _ _ _ htag
  · exact narrows_withAddress _ _ _ htag
  · exact narrows_withPerms _ _ _ _ _ (Perms.masked_le _ _ _ _ _ _) (sdp_and_lt _ _ _) (unsealed_tag htag)
  · exact absurd htag Bool.false_ne_true
  · exact narrows_putBit _ _ _ _ true sBit_range.1 sBit_range.2 (unsealed_tag htag)
  · obtain ⟨⟨⟨ht, -⟩, hd⟩, hsub⟩ : ((_ ∧ _) ∧ _) ∧ _ := by simpa only [Bool.and_eq_true] using htag
    exact narrows_of_isCapSubset _ _ _ _ ht hd hsub
  · exact narrows_setBounds _ _ _ _ htag
  · exact narrows_setBounds _ _ _ _ htag
  · exact narrows_setBounds _ _ _ _ htag
  · exact narrows_putBit _ _ _ _ _ mBit_range le_rfl (unsealed_tag htag)

end Sys2Proof.Machine
end

section
/-!
PROOFS. Disabled CHERI register access (11_csrs R90; log 17).
-/
namespace Sys2Proof.Machine
open Sys2Proof

/-- What comes after the check of CHERI register access is not reached while that is disabled. -/
theorem run_cheriOk_bind_disabled (s : State) (h : s.cheriRegsDisabled = true) (f : Unit → Res State) :
    (s.cheriOk.bind f).run s = .next (takeException s ⟨2, 0⟩) := by
  rw [State.cheriOk, h, Bool.not_true, Res.check_false, Res.bind_exc, Res.run_exc, illegal]

/-- SC.C asks before it becomes a store-conditional, so that the reservation stands (log 29). -/
theorem exec_scC_disabled (s : State) (rd rs1 rs2 : Reg) (aq rl : Bool) (h : s.cheriRegsDisabled = true) :
    exec (.scC rd rs1 rs2 aq rl) s = .next (takeException s ⟨2, 0⟩) := if_pos h

/-- Settles O27: every instruction of the table but SC.C is the check followed by its meaning. -/
theorem cheriDisabledIsIllegal : Obligations.CheriDisabledIsIllegal := by
  intro i s hi hs
  cases i with
  | gctag | gcperm | gchi | gcbase | gclen | cram | sceq | scss | cmv | cadd | caddi | scaddr | acperm | schi | sentry | cbld | scbnds
  | scbndsi | scbndsr | scmode | modesw | cModesw | lc | sc | jalrMode | amoswapC | lrC => exact run_cheriOk_bind_disabled s hs _
  | scC => exact exec_scC_disabled s _ _ _ _ _ hs
  | _ => cases hi

end Sys2Proof.Machine
end

section
/-!
PROOFS. The fields of the CSRs: what reads show, and what writes leave of mstatus, misa, satp and the triggers (11_csrs R63 to R89, R95).
-/
namespace Sys2Proof.Machine
open Sys2Proof

/-! ## Bits and fields -/

theorem bitsOf_eq_div_mod (v : Word) (lo w : Nat) : bitsOf v lo w = v.toNat / 2 ^ lo % 2 ^ w := by
  rw [bitsOf, Nat.shiftRight_eq_div_pow]

/-- Fields of two and of four bits, in the spelling of the obligation. -/
theorem bitsOf_two (v : Word) (lo : Nat) : bitsOf v lo 2 = v.toNat / 2 ^ lo % 4 := bitsOf_eq_div_mod v lo 2
theorem bitsOf_four (v : Word) (lo : Nat) : bitsOf v lo 4 = v.toNat / 2 ^ lo % 16 := bitsOf_eq_div_mod v lo 4

/-- SXL and UXL side by side. -/
theorem bitsOf_xl (v : Word) : bitsOf v 32 4 = 4 * bitsOf v 34 2 + bitsOf v 32 2 := by
  rw [bitsOf_four, bitsOf_two, bitsOf_two]
  omega

theorem getLsbD_ite_zero (c : Prop) [Decidable c] (m : Word) (j : Nat) : (if c then m else 0).getLsbD j = (decide c && m.getLsbD j) := by
  split <;> simp [*]

/-- The bits of a literal: those found by looking at each of the 64. -/
theorem getLsbD_eq_decide (m : Word) (P : Nat → Prop) [DecidablePred P] (h : ∀ j < 64, m.getLsbD j = decide (P j)) (hP : ∀ j, P j → j < 64)
    (j : Nat) : m.getLsbD j = decide (P j) := by
  by_cases hj : j < 64
  · exact h j hj
  · rw [BitVec.getLsbD_of_ge _ _ (by omega), decide_eq_false (fun hp => hj (hP j hp))]

/-- UXL and SXL, bits 33:32 and 35:34. -/
theorem getLsbD_xlMask (j : Nat) : (0xF00000000#64).getLsbD j = decide (32 ≤ j ∧ j < 36) :=
  getLsbD_eq_decide 0xF00000000 (fun j => 32 ≤ j ∧ j < 36) (by decide) (by omega) j

/-- MPP, bits 12:11. -/
theorem getLsbD_mppMask (j : Nat) : (0x1800#64).getLsbD j = decide (j = 11 ∨ j = 12) :=
  getLsbD_eq_decide 0x1800 (fun j => j = 11 ∨ j = 12) (by decide) (by omega) j

/-- What a write of mstatus reaches where MXLEN is 64, or 32. -/
theorem getLsbD_widthMask (x64 : Bool) (j : Nat) (hj : j < 64) :
    (if x64 then BitVec.allOnes 64 else 0xFFFFFFFF : Word).getLsbD j = (x64 || decide (j < 32)) := by
  cases x64
  · exact getLsbD_eq_decide 0xFFFFFFFF (· < 32) (by decide) (by omega) j
  · exact (BitVec.getLsbD_allOnes).trans (decide_eq_true hj)

/-- A word whose six lowest bits are clear. -/
theorem and_63_eq_zero (v : Word) (h : ∀ j < 6, v.getLsbD j = false) : v &&& 63 = 0 := by
  refine BitVec.eq_of_getLsbD_eq fun j _ => ?_
  rw [BitVec.getLsbD_and, getLsbD_eq_decide 63 (· < 6) (by decide) (by omega) j, BitVec.ofNat_eq_ofNat, BitVec.getLsbD_zero]
  by_cases h6 : j < 6 <;> simp [h6, h]

/-! ## senvcfg, menvcfg, medeleg, satp -/

/-- senvcfg.CRE is zero while menvcfg.CRE is (R89). -/
theorem senvcfg_cre (s : State) (h : s.csr.menvcfg.getLsbD 29 = false) : (s.readX .senvcfg).getLsbD 29 = false := by
  change s.senvcfgVal.getLsbD 29 = false
  rw [State.senvcfgVal, h, if_neg Bool.false_ne_true, getLsbD_putBit _ _ _ _ (by decide), if_pos rfl]

/-- menvcfg.CDE as read is `cde` (R87). -/
theorem menvcfg_cde (s : State) : (s.readX .menvcfg).getLsbD 61 = s.cde := by
  change s.menvcfgVal.getLsbD 61 = s.cde
  rw [State.menvcfgVal, getLsbD_putBit _ _ _ _ (by decide), if_pos rfl]

theorem cde_of_absent (s : State) (h : s.cfg.hasPte = false ∨ s.cfg.hasPteCd = false) : s.cde = false := by
  rcases h with h | h <;> simp [State.cde, h]
theorem cde_of_fixed (s : State) (hpte : s.cfg.hasPte = true) (hcd : s.cfg.hasPteCd = true) (hfix : s.cfg.cdeConfigurable = false) :
    s.cde = true := by simp [State.cde, hpte, hcd, hfix]

/-- medeleg takes CHERI faults, and environment calls from M-mode not (R71, 60_exceptions R372). -/
theorem writeX_medeleg_28 (s : State) (v : Word) : (s.writeX .medeleg v).csr.medeleg.getLsbD 28 = v.getLsbD 28 :=
  (BitVec.getLsbD_and ..).trans (Bool.and_true _)
theorem writeX_medeleg_11 (s : State) (v : Word) : (s.writeX .medeleg v).csr.medeleg.getLsbD 11 = false :=
  (BitVec.getLsbD_and ..).trans (Bool.and_false _)

/-- A write of satp takes a MODE the implementation has, where SXLEN is 64 (log 18). -/
theorem satpWrite_of_x64 (s : State) (v : Word) (h : s.x64Of .supervisor = true) : s.satpWrite v =
    if bitsOf v 60 4 = 0 ∨ (bitsOf v 60 4 = 8 ∧ s.cfg.hasSv39 = true) ∨ (bitsOf v 60 4 = 9 ∧ s.cfg.hasSv48 = true) ∨
      (bitsOf v 60 4 = 10 ∧ s.cfg.hasSv57 = true) then v else s.csr.satp := if_pos h

/-! ## Capability CSRs -/

/-- mepcc and sepcc read with bit 1 clear while IALIGN is 32 (R69). -/
theorem readEpcc_bit1 (s : State) (k : Cap) (h : s.csr.misaC = false) : (s.readEpcc k).addr.getLsbD 1 = false := by
  rw [State.readEpcc, State.ialign16, h, Bool.and_false, if_neg Bool.false_ne_true]
  split
  · rw [Cap.setAddr, getLsbD_putBit _ _ _ _ (by decide), if_pos rfl]
  · next h1 => exact Bool.eq_false_iff.2 h1

/-- A sealed capability loses its tag when its address is set (10_state R32). -/
theorem setAddr_tag_of_sealed (p : Params) (k : Cap) (a : Word) (h : k.s p = true) : (k.setAddr p a).tag = false := by
  simp [Cap.setAddr, h]

theorem readEpcc_tag_of_sealed (s : State) (k : Cap) (hc : s.csr.misaC = false) (h1 : k.addr.getLsbD 1 = true) (hs : k.s s.cfg = true) :
    (s.readEpcc k).tag = false := by
  rw [State.readEpcc, State.ialign16, hc, Bool.and_false, if_neg Bool.false_ne_true, if_pos h1, setAddr_tag_of_sealed _ _ _ hs]

/-- The address of jvtc after any write has its mode bits clear (R78; log 20). -/
theorem legalAddr_jvtc (s : State) (a : Word) : s.legalAddr .jvtc a &&& 63 = 0 := by
  change Params.heldAddr s.cfg .jvtc (a &&& ~~~63#64) &&& 63 = 0
  refine and_63_eq_zero _ fun j hj => ?_
  have low : ∀ j < 6, (~~~63#64).getLsbD j = false := by decide
  rw [heldAddr_low _ _ _ _ hj, BitVec.getLsbD_and, low j hj, Bool.and_false]

theorem xlenValue_jvtc_addr (s : State) (v : Word) : (s.xlenValue .jvtc v).addr = s.legalAddr .jvtc (s.toX v) := rfl

theorem clenValue_jvtc_addr (s : State) (k : Cap) : (s.clenValue .jvtc k).addr = s.legalAddr .jvtc (k.dropReserved s.cfg).addr := by
  change Cap.addr (ite (s.legalAddr .jvtc (k.dropReserved s.cfg).addr = (k.dropReserved s.cfg).addr) _ _) = _
  split
  · next h => exact h.symm
  · rfl

/-- A sealed capability loses its tag in a trap vector, whose address is always set (R67). -/
theorem clenValue_mtvecc_tag_of_sealed (s : State) (k : Cap) (h : (k.dropReserved s.cfg).s s.cfg = true) :
    (s.clenValue .mtvecc k).tag = false := by
  change (tvecValue s.cfg (k.dropReserved s.cfg) _).tag = false
  rw [tvecValue, Cap.keepTag, setAddr_tag_of_sealed _ _ _ h, Bool.false_and]

/-! ## XLEN settings (R63 to R65) -/

theorem legalXl_le (bound old new : Nat) : legalXl bound old new ≤ bound := by
  unfold legalXl
  split
  · split <;> omega
  · omega

theorem legalXl_of_legal (bound old new : Nat) (h : new = 1 ∨ new = 2) (hb : new ≤ bound) : legalXl bound old new = new := by
  rw [legalXl, if_pos h, if_pos hb]
theorem legalXl_of_illegal (bound old new : Nat) (h : ¬(new = 1 ∨ new = 2)) (hb : old ≤ bound) : legalXl bound old new = old := by
  rw [legalXl, if_neg h, Nat.min_eq_left hb]
theorem legalXl_self (bound old : Nat) (hb : old ≤ bound) : legalXl bound old old = old := by
  by_cases h : old = 1 ∨ old = 2
  · exact legalXl_of_legal _ _ _ h hb
  · exact legalXl_of_illegal _ _ _ h hb

/-- Two XLEN settings where SXL and UXL stand, and nothing else. -/
theorem uxl_of_fields (sx ux : Nat) (hs : sx ≤ 3) (hu : ux ≤ 3) : bitsOf (BitVec.ofNat 64 (sx * 2 ^ 34 + ux * 2 ^ 32)) 32 2 = ux := by
  rw [bitsOf_ofNat _ _ _ (by omega)]
  omega
theorem sxl_of_fields (sx ux : Nat) (hs : sx ≤ 3) (hu : ux ≤ 3) : bitsOf (BitVec.ofNat 64 (sx * 2 ^ 34 + ux * 2 ^ 32)) 34 2 = sx := by
  rw [bitsOf_ofNat _ _ _ (by omega)]
  omega

/-- SXL is at most MXL, and UXL at most SXL, after a write of mstatus or misa (R65). -/
theorem xlFields_ordered (s : State) (mx : Nat) (new : Word) (h64 : s.cfg.xlenmax64 = true) (hleg : s.cfg.hasLegacy = true) (hmx : mx ≤ 3) :
    bitsOf (s.xlFields mx new) 32 2 ≤ bitsOf (s.xlFields mx new) 34 2 ∧ bitsOf (s.xlFields mx new) 34 2 ≤ mx := by
  unfold State.xlFields
  split
  · next raised =>
    obtain rfl : mx = 2 := by simp_all
    decide
  · simp only [h64, hleg, Bool.and_self, if_true]
    have sx_le (n : Nat) : legalXl mx (bitsOf s.csr.mstatus 34 2) n ≤ mx := legalXl_le _ _ _
    have ux_le (sx n : Nat) : legalXl sx (bitsOf s.csr.mstatus 32 2) n ≤ sx := legalXl_le _ _ _
    rw [uxl_of_fields _ _ ((sx_le _).trans hmx) ((ux_le _ _).trans ((sx_le _).trans hmx)),
      sxl_of_fields _ _ ((sx_le _).trans hmx) ((ux_le _ _).trans ((sx_le _).trans hmx))]
    exact ⟨ux_le _ _, sx_le _⟩

/-- Where they are read-only, a write of mstatus leaves SXL and UXL as they are, if they are in order (R65). -/
theorem xlFields_readOnly (s : State) (new : Word) (hro : s.cfg.xlWritable = false)
    (hu : bitsOf s.csr.mstatus 32 2 ≤ bitsOf s.csr.mstatus 34 2) (hs : bitsOf s.csr.mstatus 34 2 ≤ s.csr.mxl.toNat) :
    bitsOf (s.xlFields s.csr.mxl.toNat new) 32 2 = bitsOf s.csr.mstatus 32 2 ∧
      bitsOf (s.xlFields s.csr.mxl.toNat new) 34 2 = bitsOf s.csr.mstatus 34 2 := by
  have hmxl := s.csr.mxl.isLt
  have notRaised : ∀ b : BitVec 2, (b == 1 && b.toNat == 2) = false := by decide
  unfold State.xlFields
  split
  · next raised =>
    rw [Bool.and_assoc, notRaised, Bool.and_false] at raised
    exact absurd raised Bool.false_ne_true
  · split
    · simp only [hro, Bool.false_eq_true, if_false, legalXl_self _ _ hs, legalXl_self _ _ hu]
      exact ⟨uxl_of_fields _ _ (by omega) (by omega), sxl_of_fields _ _ (by omega) (by omega)⟩
    · exact ⟨rfl, rfl⟩

/-! ## mstatus after a write -/

/-- Which bits of mstatus software may write, apart from MPP, UXL and SXL. -/
theorem getLsbD_mstatusWritable (p : Params) (j : Nat) :
    (mstatusWritable p).getLsbD j = ((0x88#64).getLsbD j || (p.hasS && (0x5C0122#64).getLsbD j) || (p.hasF && (0x6000#64).getLsbD j) ||
      (p.belowM && (0x220000#64).getLsbD j) || (p.hasLegacy && p.beWritable &&
        ((0x2000000000#64).getLsbD j || (p.hasS && (0x1000000000#64).getLsbD j) || (p.hasU && (0x40#64).getLsbD j)))) := by
  simp only [mstatusWritable, BitVec.getLsbD_or, getLsbD_ite_zero, Bool.decide_eq_true]
  rfl

theorem mstatusWritable_mpp (p : Params) (j : Nat) (h : j = 11 ∨ j = 12) : (mstatusWritable p).getLsbD j = false := by
  rw [getLsbD_mstatusWritable]
  rcases h with rfl | rfl <;> simp

/-- The byte-order fields UBE, SBE and MBE, where they are not implemented (R64). -/
theorem mstatusWritable_byteOrder (p : Params) (h : p.hasLegacy = false ∨ p.beWritable = false) (j : Nat) (hj : j = 6 ∨ j = 36 ∨ j = 37) :
    (mstatusWritable p).getLsbD j = false := by
  have hbe : (p.hasLegacy && p.beWritable) = false := by rcases h with h | h <;> simp [h]
  rw [getLsbD_mstatusWritable, hbe]
  rcases hj with rfl | rfl | rfl <;> simp

/-- What a bit of mstatus becomes when software writes the bits of `mask`. -/
theorem getLsbD_mstatusWrite (s : State) (mask new : Word) (j : Nat) :
    (s.mstatusWrite mask new).getLsbD j =
      if 32 ≤ j ∧ j < 36 then (s.xlFields s.csr.mxl.toNat (putMask s.csr.mstatus mask new)).getLsbD j
      else if ((privExists s.cfg (bitsOf new 11 2) = true ∧ (j = 11 ∨ j = 12)) ∨ (mstatusWritable s.cfg).getLsbD j = true) ∧
        mask.getLsbD j = true then new.getLsbD j else s.csr.mstatus.getLsbD j := by
  simp only [State.mstatusWrite, getLsbD_putMask, BitVec.ofNat_eq_ofNat, getLsbD_xlMask, decide_eq_true_eq]
  refine if_congr Iff.rfl rfl ?_
  by_cases hp : privExists s.cfg (bitsOf new 11 2) = true
  · simp only [hp, if_true, getLsbD_putMask, BitVec.getLsbD_and, getLsbD_mppMask, Bool.and_eq_true, decide_eq_true_eq]
    grind
  · simp [hp, getLsbD_putMask, BitVec.getLsbD_and]

/-- MXL after a write of misa. -/
theorem misaWrite_mxl (s : State) (v : Word) : (s.misaWrite v).csr.mxl.toNat =
    if s.cfg.mxlWritable && s.cfg.hasLegacy && s.cfg.xlenmax64 then
      legalXl 2 s.csr.mxl.toNat (bitsOf v (if s.x64Of .machine then 62 else 30) 2) else s.csr.mxl.toNat := by
  have := s.csr.mxl.isLt
  have := legalXl_le 2 s.csr.mxl.toNat (bitsOf v (if s.x64Of .machine then 62 else 30) 2)
  exact Nat.mod_eq_of_lt (by split <;> omega)

theorem misaWrite_mstatus (s : State) (v : Word) : (s.misaWrite v).csr.mstatus =
    putMask s.csr.mstatus 0xF00000000 (s.xlFields (s.misaWrite v).csr.mxl.toNat s.csr.mstatus) := by
  rw [misaWrite_mxl]
  rfl

/-- The CSRs whose write reaches mstatus: itself, its high half, its view, and misa through MXL. -/
def XCsr.writesStatus (x : XCsr) : Prop := x = .mstatus ∨ x = .mstatush ∨ x = .sstatus ∨ x = .misa

/-- A write of one of them but misa is `mstatusWrite`, for bits that MPP is among in mstatus alone. -/
theorem writeX_eq_mstatusWrite (s : State) (v : Word) (x : XCsr) (hx : x.writesStatus) (hm : x ≠ .misa) :
    ∃ mask new, s.writeX x v = { s with csr := { s.csr with mstatus := s.mstatusWrite mask new } } ∧
      (x ≠ .mstatus → mask.getLsbD 11 = false ∧ mask.getLsbD 12 = false) := by
  rcases hx with rfl | rfl | rfl | rfl
  · exact ⟨_, _, rfl, fun h => absurd rfl h⟩
  · exact ⟨_, _, rfl, fun _ => by decide⟩
  · have shown : sstatusMask.getLsbD 11 = false ∧ sstatusMask.getLsbD 12 = false := by decide
    refine ⟨_, _, rfl, fun _ => ?_⟩
    rw [BitVec.getLsbD_and, BitVec.getLsbD_and, shown.1, shown.2, Bool.false_and, Bool.false_and]
    exact ⟨rfl, rfl⟩
  · exact absurd rfl hm

/-- SXL and UXL after a write are set for the MXL that stands then. -/
theorem writeX_mstatus_xl (s : State) (v : Word) (x : XCsr) (hx : x.writesStatus) :
    ∃ new, ∀ j, 32 ≤ j → j < 36 →
      (s.writeX x v).csr.mstatus.getLsbD j = (s.xlFields (s.writeX x v).csr.mxl.toNat new).getLsbD j := by
  by_cases hm : x = .misa
  · subst hm
    refine ⟨s.csr.mstatus, fun j hl hh => ?_⟩
    change (s.misaWrite v).csr.mstatus.getLsbD j = _
    rw [misaWrite_mstatus, getLsbD_putMask, BitVec.ofNat_eq_ofNat, getLsbD_xlMask, if_pos (decide_eq_true ⟨hl, hh⟩)]
    rfl
  · obtain ⟨mask, new, h, -⟩ := writeX_eq_mstatusWrite s v x hx hm
    refine ⟨putMask s.csr.mstatus mask new, fun j hl hh => ?_⟩
    rw [h, getLsbD_mstatusWrite, if_pos ⟨hl, hh⟩]

/-- The other bits that are not writable stay, MPP too unless mstatus itself is written. -/
theorem writeX_mstatus_kept (s : State) (v : Word) (x : XCsr) (hx : x.writesStatus) (j : Nat) (hj : ¬(32 ≤ j ∧ j < 36))
    (hw : (mstatusWritable s.cfg).getLsbD j = false) (hmpp : j = 11 ∨ j = 12 → x ≠ .mstatus) :
    (s.writeX x v).csr.mstatus.getLsbD j = s.csr.mstatus.getLsbD j := by
  by_cases hm : x = .misa
  · subst hm
    change (s.misaWrite v).csr.mstatus.getLsbD j = _
    rw [misaWrite_mstatus, getLsbD_putMask, BitVec.ofNat_eq_ofNat, getLsbD_xlMask, if_neg (by simpa using hj)]
  · obtain ⟨mask, new, h, hmask⟩ := writeX_eq_mstatusWrite s v x hx hm
    rw [h, getLsbD_mstatusWrite, if_neg hj, if_neg]
    rintro ⟨⟨-, hp⟩ | hp, hb⟩
    · obtain ⟨h11, h12⟩ := hmask (hmpp hp)
      rcases hp with rfl | rfl <;> simp_all
    · simp [hw] at hp

/-- No XLEN setting ends above the next-higher mode's (R65). -/
theorem writeX_xl_ordered (s : State) (v : Word) (x : XCsr) (hx : x.writesStatus) (h64 : s.cfg.xlenmax64 = true) (hleg : s.cfg.hasLegacy = true) :
    bitsOf (s.writeX x v).csr.mstatus 32 2 ≤ bitsOf (s.writeX x v).csr.mstatus 34 2 ∧
      bitsOf (s.writeX x v).csr.mstatus 34 2 ≤ (s.writeX x v).csr.mxl.toNat := by
  obtain ⟨new, hxl⟩ := writeX_mstatus_xl s v x hx
  rw [bitsOf_congr _ _ 32 2 fun j _ _ => hxl j (by omega) (by omega), bitsOf_congr _ _ 34 2 fun j _ _ => hxl j (by omega) (by omega)]
  exact xlFields_ordered s _ new h64 hleg (Nat.le_of_lt_succ (s.writeX x v).csr.mxl.isLt)

/-- The XLEN settings stay where they are read-only and in order (R65). -/
theorem writeX_xl_readOnly (s : State) (v : Word) (x : XCsr) (hx : x.writesStatus) (hm : x ≠ .misa) (hro : s.cfg.xlWritable = false)
    (hu : bitsOf s.csr.mstatus 32 2 ≤ bitsOf s.csr.mstatus 34 2) (hs : bitsOf s.csr.mstatus 34 2 ≤ s.csr.mxl.toNat) :
    bitsOf (s.writeX x v).csr.mstatus 32 2 = bitsOf s.csr.mstatus 32 2 ∧
      bitsOf (s.writeX x v).csr.mstatus 34 2 = bitsOf s.csr.mstatus 34 2 := by
  have hmxl : (s.writeX x v).csr.mxl = s.csr.mxl := by
    obtain ⟨mask, new, h, -⟩ := writeX_eq_mstatusWrite s v x hx hm
    rw [h]
  obtain ⟨new, hxl⟩ := writeX_mstatus_xl s v x hx
  rw [hmxl] at hxl
  rw [bitsOf_congr _ _ 32 2 fun j _ _ => hxl j (by omega) (by omega), bitsOf_congr _ _ 34 2 fun j _ _ => hxl j (by omega) (by omega)]
  exact xlFields_readOnly s new hro hu hs

/-- MPP stays unless mstatus itself is written. -/
theorem writeX_mpp_kept (s : State) (v : Word) (x : XCsr) (hx : x.writesStatus) (hm : x ≠ .mstatus) :
    bitsOf (s.writeX x v).csr.mstatus 11 2 = bitsOf s.csr.mstatus 11 2 :=
  bitsOf_congr _ _ _ _ fun j _ _ =>
    writeX_mstatus_kept s v x hx j (by omega) (mstatusWritable_mpp _ _ (by omega)) fun _ => hm

/-- The byte-order fields stay where they are not implemented (R64). -/
theorem writeX_byteOrder_kept (s : State) (v : Word) (x : XCsr) (hx : x.writesStatus) (h : s.cfg.hasLegacy = false ∨ s.cfg.beWritable = false)
    (j : Nat) (hj : j = 6 ∨ j = 36 ∨ j = 37) : (s.writeX x v).csr.mstatus.getLsbD j = s.csr.mstatus.getLsbD j :=
  writeX_mstatus_kept s v x hx j (by omega) (mstatusWritable_byteOrder _ h _ hj) (by omega)

/-! ## mstatus itself -/

theorem privExists_iff (p : Params) (n : Nat) :
    privExists p n = true ↔ n = 3 ∨ (n = 1 ∧ p.hasS = true) ∨ (n = 0 ∧ p.hasU = true) := by
  simp [privExists, or_assoc]

/-- MPP takes the mode that is written if it exists (log 18). -/
theorem writeX_mstatus_mpp (s : State) (v : Word) : bitsOf (s.writeX .mstatus v).csr.mstatus 11 2 =
    if privExists s.cfg (bitsOf v 11 2) then bitsOf v 11 2 else bitsOf s.csr.mstatus 11 2 := by
  rw [← apply_ite (bitsOf · 11 2) (privExists s.cfg (bitsOf v 11 2) = true) v s.csr.mstatus]
  refine bitsOf_congr _ _ _ _ fun j hl hh => ?_
  change (s.mstatusWrite _ v).getLsbD j = _
  rw [getLsbD_mstatusWrite, getLsbD_widthMask _ _ (by omega), mstatusWritable_mpp _ _ (by omega), if_neg (by omega)]
  have hj : j = 11 ∨ j = 12 := by omega
  have hj32 : j < 32 := by omega
  by_cases hp : privExists s.cfg (bitsOf v 11 2) = true <;> simp [hp, hj, hj32]

/-- MBE is written where mstatus has 64 bits, UBE always, where they are implemented and the mode exists. -/
theorem writeX_mstatus_mbe (s : State) (v : Word) (hleg : s.cfg.hasLegacy = true) (hbe : s.cfg.beWritable = true) :
    (s.writeX .mstatus v).st 37 = if s.x64Of .machine then v.getLsbD 37 else s.st 37 := by
  change (s.mstatusWrite _ v).getLsbD 37 = _
  rw [getLsbD_mstatusWrite, getLsbD_widthMask _ _ (by omega), getLsbD_mstatusWritable, hleg, hbe]
  simp [State.st]
theorem writeX_mstatus_ube (s : State) (v : Word) (hleg : s.cfg.hasLegacy = true) (hbe : s.cfg.beWritable = true) (hU : s.cfg.hasU = true) :
    (s.writeX .mstatus v).st 6 = v.getLsbD 6 := by
  change (s.mstatusWrite _ v).getLsbD 6 = _
  rw [getLsbD_mstatusWrite, getLsbD_widthMask _ _ (by omega), getLsbD_mstatusWritable, hleg, hbe, hU]
  simp

/-- MBE is bit 5 of mstatush. -/
theorem writeX_mstatush_mbe (s : State) (v : Word) (hleg : s.cfg.hasLegacy = true) (hbe : s.cfg.beWritable = true) :
    (s.writeX .mstatush v).st 37 = v.getLsbD 5 := by
  change (s.mstatusWrite 0x3000000000 (v <<< 32)).getLsbD 37 = _
  rw [getLsbD_mstatusWrite, getLsbD_mstatusWritable, hleg, hbe]
  simp

/-! ## misa (R63; log 21) -/

theorem misaWrite_mxl_readOnly (s : State) (v : Word) (h : s.cfg.mxlWritable = false) : (s.misaWrite v).csr.mxl = s.csr.mxl :=
  BitVec.eq_of_toNat_eq (by simp [misaWrite_mxl, h])

theorem misaWrite_mxl_legal (s : State) (v : Word) (hw : s.cfg.mxlWritable = true) (hleg : s.cfg.hasLegacy = true) (h64 : s.cfg.xlenmax64 = true)
    (hf : bitsOf v (if s.x64Of .machine then 62 else 30) 2 = 1 ∨ bitsOf v (if s.x64Of .machine then 62 else 30) 2 = 2) :
    (s.misaWrite v).csr.mxl.toNat = bitsOf v (if s.x64Of .machine then 62 else 30) 2 := by
  rw [misaWrite_mxl, hw, hleg, h64]
  exact legalXl_of_legal _ _ _ hf (by omega)

theorem misaWrite_mxl_illegal (s : State) (v : Word) (h3 : s.csr.mxl ≠ 3)
    (hf : ¬(bitsOf v (if s.x64Of .machine then 62 else 30) 2 = 1 ∨ bitsOf v (if s.x64Of .machine then 62 else 30) 2 = 2)) :
    (s.misaWrite v).csr.mxl = s.csr.mxl := by
  have hold : s.csr.mxl.toNat ≤ 2 := by bv_omega
  refine BitVec.eq_of_toNat_eq ?_
  rw [misaWrite_mxl, legalXl_of_illegal _ _ _ hf hold, ite_self]

theorem misaWrite_misaC_readOnly (s : State) (v : Word) (h : s.cfg.hasC = false ∨ s.cfg.misaCWritable = false) :
    (s.misaWrite v).csr.misaC = s.csr.misaC := by
  rcases h with h | h <;> simp [State.misaWrite, h]
theorem misaWrite_misaC_writable (s : State) (v : Word) (hC : s.cfg.hasC = true) (hw : s.cfg.misaCWritable = true) :
    (s.misaWrite v).csr.misaC = (v.getLsbD 2 || (s.csr.misaC && !s.debug && s.pc.getLsbD 1)) := by
  simp only [State.misaWrite, hC, hw, Bool.and_self, if_true]

/-! ## Triggers (R95; log 37) -/

/-- The selected trigger stays where dmode reserves it to debug mode, and else changes. -/
theorem setTrigger_of_reserved (s : State) (f : Trigger → Trigger) (b : Trigger) (hb : s.triggers[s.csr.tselect.toNat]? = some b)
    (hd : s.debug = false) (hm : b.dmode = true) : s.setTrigger f = s := by
  simp [State.setTrigger, State.trigger, hb, hd, hm]
theorem setTrigger_of_open (s : State) (f : Trigger → Trigger) (b : Trigger) (hb : s.triggers[s.csr.tselect.toNat]? = some b)
    (h : s.debug = true ∨ b.dmode = false) : s.setTrigger f = { s with triggers := s.triggers.set s.csr.tselect.toNat (f b) } := by
  have hopen : (b.dmode && !s.debug) = false := by rcases h with h | h <;> simp [h]
  simp [State.setTrigger, State.trigger, hb, hopen]

/-- dmode after a write of tdata1: it changes in debug mode alone. -/
def State.writtenDmode (s : State) (v : Word) (b : Trigger) : Bool := if s.debug then v.getLsbD (if s.cur64 then 59 else 27) else b.dmode

/-- A write of tdata1 that asks for type 6, and one that asks for another. -/
theorem tdata1Write_of_type6 (s : State) (v : Word) (b : Trigger) (h : bitsOf v (if s.cur64 then 60 else 28) 4 = 6) :
    s.tdata1Write v b =
      { addr := b.addr, enabled := true, dmode := s.writtenDmode v b, toDebug := s.writtenDmode v b && bitsOf v 12 4 == 1, m := v.getLsbD 6,
        s := s.cfg.hasS && v.getLsbD 4, u := s.cfg.hasU && v.getLsbD 3, execute := v.getLsbD 2, store := v.getLsbD 1,
        load := v.getLsbD 0 } := if_pos h
theorem tdata1Write_of_otherType (s : State) (v : Word) (b : Trigger) (h : bitsOf v (if s.cur64 then 60 else 28) 4 ≠ 6) :
    s.tdata1Write v b = { addr := b.addr, dmode := s.writtenDmode v b } := if_neg h

/-- The fields after a write of tdata1 to a trigger that may be written (log 37). -/
theorem tdata1Write_spec (s : State) (v : Word) (b : Trigger) (hopen : s.debug = true ∨ b.dmode = false) :
    (s.tdata1Write v b).addr = b.addr ∧
    (s.tdata1Write v b).enabled = decide (bitsOf v (if s.cur64 then 60 else 28) 4 = 6) ∧
    (s.debug = false → (s.tdata1Write v b).dmode = false ∧ (s.tdata1Write v b).toDebug = false) ∧
    ((s.tdata1Write v b).enabled = true →
      (s.tdata1Write v b).execute = v.getLsbD 2 ∧ (s.tdata1Write v b).store = v.getLsbD 1 ∧ (s.tdata1Write v b).load = v.getLsbD 0 ∧
        (s.tdata1Write v b).m = v.getLsbD 6 ∧ (s.tdata1Write v b).s = (s.cfg.hasS && v.getLsbD 4) ∧
        (s.tdata1Write v b).u = (s.cfg.hasU && v.getLsbD 3)) := by
  have hd (outside : s.debug = false) : s.writtenDmode v b = false := by simp_all [State.writtenDmode]
  by_cases h : bitsOf v (if s.cur64 then 60 else 28) 4 = 6
  · rw [tdata1Write_of_type6 s v b h]
    exact ⟨rfl, (decide_eq_true h).symm, fun outside => ⟨hd outside, by simp [hd outside]⟩, fun _ => ⟨rfl, rfl, rfl, rfl, rfl, rfl⟩⟩
  · rw [tdata1Write_of_otherType s v b h]
    exact ⟨rfl, (decide_eq_false h).symm, fun outside => ⟨hd outside, rfl⟩, fun enabled => absurd enabled Bool.false_ne_true⟩

/-! ## The obligation -/

/-- Settles O54: each clause is the lemma about the read, or the write, that it speaks of. -/
theorem csrFieldRules : Obligations.CsrFieldRules := by
  unfold Obligations.CsrFieldRules
  simp only [← bitsOf_two, ← bitsOf_four]
  refine ⟨fun s v => ?_, fun s v x hx => ?_, fun s v => ⟨?_, fun hleg hbe => ?_, ?_, fun h64 => ?_,
    fun b hb => ⟨fun hd hm => ?_, fun hopen => ?_⟩⟩⟩
  · exact ⟨rfl, writeX_medeleg_28 s v, writeX_medeleg_11 s v, senvcfg_cre s, fun h => (menvcfg_cde s).trans (cde_of_absent s h),
      fun hpte hcd hfix => (menvcfg_cde s).trans (cde_of_fixed s hpte hcd hfix), readEpcc_bit1 s _, readEpcc_tag_of_sealed s _,
      legalAddr_jvtc s _, fun k => ⟨clenValue_jvtc_addr s k ▸ legalAddr_jvtc s _, clenValue_mtvecc_tag_of_sealed s k⟩⟩
  · refine ⟨writeX_xl_ordered s v x hx, fun hro hm hu hs => ?_, fun h => ?_, writeX_mpp_kept s v x hx⟩
    · obtain ⟨hux, hsx⟩ := writeX_xl_readOnly s v x hx hm hro hu hs
      rw [bitsOf_xl, bitsOf_xl, hux, hsx]
    · have kept := writeX_byteOrder_kept s v x hx h
      exact ⟨kept 6 (by simp), kept 36 (by simp), kept 37 (by simp)⟩
  · exact (writeX_mstatus_mpp s v).trans (if_congr (privExists_iff _ _) rfl rfl)
  · exact ⟨writeX_mstatus_mbe s v hleg hbe, writeX_mstatush_mbe s v hleg hbe, writeX_mstatus_ube s v hleg hbe⟩
  · exact ⟨misaWrite_mxl_readOnly s v, misaWrite_mxl_legal s v, fun _ h3 h1 h2 => misaWrite_mxl_illegal s v h3 (not_or.2 ⟨h1, h2⟩),
      misaWrite_misaC_readOnly s v, misaWrite_misaC_writable s v⟩
  · exact satpWrite_of_x64 s v h64
  · exact ⟨setTrigger_of_reserved s _ b hb hd hm, setTrigger_of_reserved s _ b hb hd hm⟩
  · have written (f : Trigger → Trigger) : (s.setTrigger f).triggers = s.triggers.set s.csr.tselect.toNat (f b) :=
      congrArg State.triggers (setTrigger_of_open s f b hb hopen)
    exact ⟨written _, _, written _, tdata1Write_spec s v b hopen⟩

end Sys2Proof.Machine
end

section
/-!
PROOFS. A capability comes back from the granule it was stored to (20_memory R99, R100), and an integer store clears its tag (R98).
-/
namespace Sys2Proof.Machine
open Sys2Proof

@[simp] theorem writeCap_readList (s : State) (a : Nat) (k : Cap) (h : s.mem.wf = true) :
    (s.writeCap a k).mem.readList (span a s.cfg.capBytes) = capToBytes s.cfg k := (capStoredAt_writeCap s a k h).1

theorem writeCap_tagOf (s : State) (a : Nat) (k : Cap) (g : Nat) (h : s.mem.wf = true) :
    (s.writeCap a k).mem.tagOf g = if g = a / s.cfg.capBytes then k.tag else s.mem.tagOf g := by
  obtain ⟨-, -, htags, -⟩ := capStoredAt_writeCap s a k h
  exact htags g

theorem storeBytes_tagOf (s : State) (as : List Nat) (bs : List Byte) (g : Nat) (h : s.mem.wf = true) :
    (s.storeBytes as bs).mem.tagOf g = (s.mem.tagOf g && !as.any fun a => a / s.cfg.capBytes == g) := by
  rw [storeBytes_mem, Memory.tagOf_clearTags _ _ _ _ (Memory.wf_writeList _ _ _ h), Memory.tagOf_writeList]

/-- Taggable memory is main memory: its bytes are read as they were written. -/
theorem loadList_of_isTaggable (s : State) (a : Nat) (h : Params.isTaggable s.cfg a = true) :
    s.loadList (span a s.cfg.capBytes) = s.mem.readList (span a s.cfg.capBytes) :=
  loadList_of_isMain s _ fun b hb => isMain_of_isTaggable s.cfg a b h hb

/-- A taggable granule reads as the bytes and the tag that memory holds. -/
theorem readCap_of_isTaggable (s : State) (a : Nat) (h : Params.isTaggable s.cfg a = true) :
    s.readCap a = bytesToCap s.cfg (s.mem.tagOf (a / s.cfg.capBytes)) (s.mem.readList (span a s.cfg.capBytes)) := by
  rw [State.readCap, h, Bool.and_true, loadList_of_isTaggable s a h]

theorem readCap_writeCap (s : State) (a : Nat) (k : Cap) (h : s.mem.wf = true) (hmd : truncX s.cfg k.md = k.md)
    (haddr : truncX s.cfg k.addr = k.addr) (htag : Params.isTaggable s.cfg a = true) : (s.writeCap a k).readCap a = k := by
  rw [readCap_of_isTaggable (s.writeCap a k) a htag, writeCap_cfg, writeCap_tagOf s a k _ h, if_pos rfl, writeCap_readList s a k h,
    bytesToCap_capToBytes s.cfg k hmd haddr]

/-- A store to some byte of a granule leaves it untagged. -/
theorem readCap_storeBytes_tag (s : State) (a b : Nat) (as : List Nat) (bs : List Byte) (h : s.mem.wf = true) (hb : b ∈ as)
    (hg : b / s.cfg.capBytes = a / s.cfg.capBytes) : ((s.storeBytes as bs).readCap a).tag = false := by
  have touched : (as.any fun x => x / s.cfg.capBytes == a / s.cfg.capBytes) = true := List.any_eq_true.2 ⟨b, hb, beq_iff_eq.2 hg⟩
  rw [State.readCap, bytesToCap, storeBytes_cfg, storeBytes_tagOf s as bs _ h, touched, Bool.not_true, Bool.and_false, Bool.false_and]

/-- Settles O37: the granule reads as it was stored, and a store to one of its bytes leaves it untagged. -/
theorem capabilityRoundTrip : Obligations.CapabilityRoundTrip := by
  intro s a k hwf hmd haddr htag
  exact ⟨readCap_writeCap s a k hwf hmd haddr htag, fun as bs b hb hg =>
    readCap_storeBytes_tag (s.writeCap a k) a b as bs (wf_writeCap s a k hwf) hb hg⟩

end Sys2Proof.Machine
end

section
/-!
PROOFS. Every operation that makes a capability makes a lawful one of lawful ones (10_state R34 (a) to (c)).
-/
namespace Sys2Proof.Machine
open Sys2Proof

/-! ## Words of XLENMAX bits -/

/-- A word fits XLENMAX bits exactly when, with XLENMAX = 32, its upper half is zero. -/
theorem truncX_eq_self_iff (p : Params) (v : Word) : truncX p v = v ↔ (p.xlenmax64 = false → ∀ j, 32 ≤ j → v.getLsbD j = false) := by
  cases hx : p.xlenmax64 <;> simp only [truncX, hx, Bool.false_eq_true, if_false, if_true, forall_const, false_implies, reduceCtorEq]
  constructor
  · intro h j hj
    rw [← h]
    simp [hj]
  · intro h
    apply BitVec.eq_of_getLsbD_eq
    intro j _
    by_cases hj : 32 ≤ j
    · simp [h j hj, show ¬j < 32 by omega]
    · simp [show j < 32 by omega]; omega

theorem truncX_and (p : Params) (u v : Word) (h : truncX p u = u) : truncX p (u &&& v) = u &&& v := by
  rw [truncX_eq_self_iff] at *
  intro hx j hj
  simp [h hx j hj]

theorem truncX_putMask (p : Params) (u m v : Word) (h : truncX p u = u) (hv : truncX p m = m ∨ truncX p v = v) :
    truncX p (putMask u m v) = putMask u m v := by
  simp only [truncX_eq_self_iff] at *
  intro hx j hj
  rw [getLsbD_putMask]
  rcases hv with hv | hv <;> simp [h hx j hj, hv hx j hj]

theorem truncX_putBit (p : Params) (u : Word) (i : Nat) (b : Bool) (h : truncX p u = u) (hi : i < p.xlenmax) :
    truncX p (putBit u i b) = putBit u i b := by
  simp only [truncX_eq_self_iff] at *
  intro hx j hj
  simp only [Params.xlenmax, hx, Bool.false_eq_true, if_false] at hi
  rw [getLsbD_putBit _ _ _ _ (by omega), if_neg (by omega), h hx j hj]

theorem truncX_of_xlenmax64 (p : Params) (v : Word) (h : p.xlenmax64 = true) : truncX p v = v := by simp [truncX, h]

/-! ## What lawfulness depends on -/

theorem lawful_iff (p : Params) (k : Cap) : k.lawful p = true ↔ truncX p k.md = k.md ∧ truncX p k.addr = k.addr ∧
    (k.tag = true → k.malformed p = false ∧ k.md &&& reservedMask p = 0 ∧ (p.xlenmax64 = true ∨ k.ap p ≠ 1)) := by
  simp only [Cap.lawful, Bool.and_eq_true, Bool.or_eq_true, beq_iff_eq, Bool.not_eq_true', bne_iff_ne, and_assoc]
  cases k.tag <;> simp

theorem lawful_md (p : Params) (k : Cap) (h : k.lawful p = true) : truncX p k.md = k.md := ((lawful_iff p k).1 h).1
theorem lawful_addr (p : Params) (k : Cap) (h : k.lawful p = true) : truncX p k.addr = k.addr := ((lawful_iff p k).1 h).2.1

/-- A capability whose bounds decode, that is, whose tag lawfulness allows. -/
theorem lawful_of_derivable (p : Params) (k : Cap) (hm : truncX p k.md = k.md) (ha : truncX p k.addr = k.addr)
    (hd : k.tag = true → k.derivable p = true) : k.lawful p = true := by
  refine (lawful_iff p k).2 ⟨hm, ha, fun ht => ?_⟩
  have derivable := hd ht
  simp only [Cap.derivable, Bool.and_eq_true, Bool.or_eq_true, beq_iff_eq, Bool.not_eq_true', bne_iff_ne, decide_eq_true_eq] at derivable
  obtain ⟨⟨⟨hbounds, hreserved⟩, -⟩, hperms⟩ := derivable
  exact ⟨hbounds, hreserved, hperms⟩

/-- Malformed bounds are told by the bits up to EF alone. -/
theorem malformed_congr (p : Params) (k k' : Cap) (h : ∀ j ≤ efBit p, k.md.getLsbD j = k'.md.getLsbD j) : k.malformed p = k'.malformed p := by
  have field (lo w : Nat) (hw : lo + w ≤ efBit p) : bitsOf k.md lo w = bitsOf k'.md lo w :=
    bitsOf_congr _ _ _ _ fun j _ hj => h j (by omega)
  have hef : k.ef p = k'.ef p := h _ le_rfl
  unfold Cap.malformed Cap.expField Cap.bMant Cap.t8 Cap.te Cap.be Cap.bmid
  rw [hef]
  unfold efBit at field
  cases hx : p.xlenmax64 <;> simp only [hx, Bool.false_eq_true, if_false, if_true] at field ⊢
  · rw [field 18 1 (by omega), field 10 2 (by omega), field 0 2 (by omega), field 2 8 (by omega)]
  · rw [field 14 3 (by omega), field 0 3 (by omega), field 3 11 (by omega)]

theorem and_eq_zero_iff (u m : Word) : u &&& m = 0 ↔ ∀ j, m.getLsbD j = true → u.getLsbD j = false := by
  constructor
  · intro h j hj
    simpa [hj] using congrArg (BitVec.getLsbD · j) h
  · intro h
    apply BitVec.eq_of_getLsbD_eq
    intro j _
    cases hm : m.getLsbD j <;> simp [hm, h]

/-- Metadata with the bounds' bits of a lawful capability, no reserved bit and no reserved AP value keeps it lawful, and so does losing the tag. -/
theorem lawful_withMd (p : Params) (k : Cap) (t : Bool) (md : Word) (h : k.lawful p = true) (ht : t = true → k.tag = true) (hfit : truncX p md = md)
    (hb : ∀ j ≤ efBit p, md.getLsbD j = k.md.getLsbD j)
    (hr : ∀ j, (reservedMask p).getLsbD j = true → md.getLsbD j = true → k.md.getLsbD j = true)
    (hap : p.xlenmax64 = true ∨ (Cap.mk t md k.addr).ap p ≠ 1 ∨ (Cap.mk t md k.addr).ap p = k.ap p) : (Cap.mk t md k.addr).lawful p = true := by
  obtain ⟨-, ha, hk⟩ := (lawful_iff p k).1 h
  refine (lawful_iff p _).2 ⟨hfit, ha, fun htag => ?_⟩
  obtain ⟨hm, hres, hkap⟩ := hk (ht htag)
  refine ⟨(malformed_congr p _ k hb).trans hm, ?_, ?_⟩
  · rw [and_eq_zero_iff] at hres ⊢
    exact fun j hj => Bool.eq_false_iff.2 fun hset => absurd (hr j hj hset) (by simp [hres j hj])
  · rcases hap with h64 | hne | heq
    · exact .inl h64
    · exact .inr hne
    · rwa [heq]

/-! ## Single bits: sealing, unsealing, the mode (10_state R23, R26) -/

theorem reservedMask_sBit (p : Params) : (reservedMask p).getLsbD (sBit p) = false := by
  unfold reservedMask sBit
  cases p.xlenmax64 <;> cases p.mode <;> decide

theorem reservedMask_mBit (p : Params) (h : p.mode = true) : (reservedMask p).getLsbD (mBit p) = false := by
  unfold reservedMask mBit
  cases p.xlenmax64 <;> simp only [h] <;> decide

/-- A bit above the bounds and not above M that is not reserved may change. -/
theorem lawful_putBit (p : Params) (k : Cap) (t : Bool) (i : Nat) (b : Bool) (h : k.lawful p = true) (ht : t = true → k.tag = true)
    (hlo : efBit p < i) (hhi : i ≤ mBit p) (hres : (reservedMask p).getLsbD i = false) : (Cap.mk t (putBit k.md i b) k.addr).lawful p = true := by
  have hbit (j : Nat) : (putBit k.md i b).getLsbD j = if j = i then b else k.md.getLsbD j :=
    getLsbD_putBit _ _ _ _ (by unfold mBit at hhi; split at hhi <;> omega)
  refine lawful_withMd p k t _ h ht (truncX_putBit _ _ _ _ (lawful_md p k h) ?fits) ?bounds ?reserved ?perms
  case fits => unfold mBit at hhi; unfold Params.xlenmax; split at hhi <;> simp_all <;> omega
  case bounds => exact fun j hj => by rw [hbit, if_neg (by omega)]
  case reserved =>
    intro j hj
    rw [hbit, if_neg (by rintro rfl; simp [hres] at hj)]
    exact id
  case perms =>
    cases hx : p.xlenmax64
    · refine .inr (.inr ?_)
      simp only [mBit, hx, Bool.false_eq_true, if_false] at hhi
      simp only [Cap.ap, hx, Bool.false_eq_true, if_false]
      exact bitsOf_congr _ _ _ _ fun j hj _ => by rw [hbit, if_neg (by omega)]
    · exact .inl rfl

theorem sBit_range (p : Params) : efBit p < sBit p ∧ sBit p ≤ mBit p := by
  unfold efBit sBit mBit; split <;> omega

theorem efBit_lt_mBit (p : Params) : efBit p < mBit p := by
  unfold efBit mBit; split <;> omega

theorem lawful_seal (p : Params) (k : Cap) (h : k.lawful p = true) : (k.seal p).lawful p = true :=
  lawful_putBit p k k.tag _ true h id (sBit_range p).1 (sBit_range p).2 (reservedMask_sBit p)

theorem lawful_unseal (p : Params) (k : Cap) (h : k.lawful p = true) : (k.unseal p).lawful p = true :=
  lawful_putBit p k k.tag _ false h id (sBit_range p).1 (sBit_range p).2 (reservedMask_sBit p)

/-- The M bit may be written where there is one. -/
theorem lawful_putMode (p : Params) (k : Cap) (b : Bool) (h : k.lawful p = true) (hmode : p.mode = true) :
    (Cap.mk k.tag (putBit k.md (mBit p) b) k.addr).lawful p = true :=
  lawful_putBit p k k.tag _ b h id (efBit_lt_mBit p) le_rfl (reservedMask_mBit p hmode)

/-! ## Reserved bits dropped, permissions masked, derived capabilities -/

/-- A tagged lawful capability has no reserved bit to drop. -/
theorem lawful_dropReserved (p : Params) (k : Cap) (h : k.lawful p = true) : (k.dropReserved p).lawful p = true := by
  obtain ⟨hm, ha, hk⟩ := (lawful_iff p k).1 h
  refine (lawful_iff p _).2 ⟨truncX_and p _ _ hm, ha, fun ht => ?_⟩
  have same : k.dropReserved p = k := by
    have hres := (and_eq_zero_iff _ _).1 (hk ht).2.1
    have : k.md &&& ~~~(reservedMask p) = k.md := by
      apply BitVec.eq_of_getLsbD_eq
      intro j hj
      rw [BitVec.getLsbD_and, BitVec.getLsbD_not]
      cases hr : (reservedMask p).getLsbD j
      · simp [hj]
      · simp [hres j hr]
    simp [Cap.dropReserved, this]
  rw [same]
  exact hk ht

theorem reservedMask_of_permMask (p : Params) (j : Nat) (h : (apMask p ||| sdpMask p).getLsbD j = true) :
    efBit p < j ∧ (reservedMask p).getLsbD j = false ∧ (p.xlenmax64 = false → j < 32) := by
  have hj : j < 64 := BitVec.lt_of_getLsbD h
  revert h
  have h64 : ∀ j < 64, (0x001F000000000000 ||| 0x01E0000000000000 : Word).getLsbD j = true →
      26 < j ∧ (0xFE007FFFF0000000 : Word).getLsbD j = false ∧ (0xFE00FFFFF0000000 : Word).getLsbD j = false := by decide
  have h32 : ∀ j < 64, (0x3C000000 ||| 0xC0000000 : Word).getLsbD j = true →
      19 < j ∧ j < 32 ∧ (0x01E00000 : Word).getLsbD j = false ∧ (0x03E00000 : Word).getLsbD j = false := by decide
  unfold apMask sdpMask efBit reservedMask
  cases hx : p.xlenmax64 <;> simp only [Bool.false_eq_true, if_false, if_true] <;> intro h
  · obtain ⟨hlo, hhi, h1, h2⟩ := h32 j hj h
    exact ⟨hlo, by cases p.mode <;> simp only [Bool.false_eq_true, if_false, if_true, h1, h2], fun _ => hhi⟩
  · obtain ⟨hlo, h1, h2⟩ := h64 j hj h
    exact ⟨hlo, by cases p.mode <;> simp only [Bool.false_eq_true, if_false, if_true, h1, h2], fun h => by simp at h⟩

/-- With XLENMAX = 32 the value of a permission set is never the reserved one. -/
theorem encodeAP_ne_one (p : Params) (q : Perms) (hx : p.xlenmax64 = false) : encodeAP p q ≠ 1 := by
  simp only [encodeAP, hx, Bool.false_eq_true, if_false]
  cases hf : (List.range 16).find? fun n => n != 1 && decodeAP32 n == q with
  | none => simp
  | some n =>
    have := List.find?_some hf
    simp only [Bool.and_eq_true, bne_iff_ne] at this
    exact this.1

/-- ACPERM writes an AP value that is not the reserved one. -/
theorem lawful_withPerms (p : Params) (k : Cap) (q : Perms) (sdp : Nat) (h : k.lawful p = true) (hs : sdp < if p.xlenmax64 then 16 else 4) :
    (k.withPerms p (encodeAP p q) sdp).lawful p = true := by
  refine lawful_withMd p k k.tag _ h id (truncX_putMask _ _ _ _ (lawful_md p k h) (.inl ?fits)) ?bounds ?reserved ?perms
  case fits =>
    refine (truncX_eq_self_iff _ _).2 fun hx j hj => Bool.eq_false_iff.2 fun hm => ?_
    have := (reservedMask_of_permMask p j hm).2.2 hx
    omega
  case bounds =>
    intro j hj
    rw [getLsbD_putMask, if_neg fun hm => by have := (reservedMask_of_permMask p j hm).1; omega]
  case reserved =>
    intro j hj
    rw [getLsbD_putMask, if_neg fun hm => by simp [(reservedMask_of_permMask p j hm).2.1] at hj]
    exact id
  case perms =>
    by_cases hx : p.xlenmax64 = true
    · exact .inl hx
    · have hlt := (encodeAP_cases p q (by simpa using hx)).1
      refine .inr (.inl ?_)
      change (k.withPerms p (encodeAP p q) sdp).ap p ≠ 1
      rw [ap_withPerms p k _ _ (by simpa [hx] using hlt) hs]
      exact encodeAP_ne_one p q (by simpa using hx)

/-! ## Setting bounds (41_cap_manipulate R179, R181) -/

/-- The exponent an encoding stores, and the bits of B above it. -/
theorem expField_of_large (p : Params) (k : Cap) (base len : Nat) (hs : smallLen p len = false) (hk : k.md = (encodeBounds p base len).bits) :
    k.expField p = capMaxE p - requestExp p base len := by
  rw [encodeBounds_of_large p _ _ hs] at hk
  have hmw := hw_le p
  obtain ⟨hhigh, hmid, hlow, hsum⟩ := expParts_spec p (capMaxE p - requestExp p base len) (Nat.sub_le _ _)
  obtain ⟨-, ht8, -, hte, -, hbe⟩ := fields_of_boundsBits p k _ _ _ _ _ _ hk hhigh (mantissa_mid_lt _ _ _ (by omega)) hmid
    (mantissa_mid_lt _ _ _ (by omega)) hlow
  rw [Cap.expField, ht8, hte, hbe, hsum]

/-- The bounds written are not malformed: at the two greatest exponents a base within the address space leaves the top bits of B zero. -/
theorem malformed_of_encodeBounds (p : Params) (k : Cap) (base len : Nat) (hb : base < 2 ^ p.xlenmax)
    (hk : k.md = (encodeBounds p base len).bits) : k.malformed p = false := by
  cases hs : smallLen p len
  · obtain ⟨hef, -, hbm, -⟩ := fields_of_large p k base len _ hs rfl hk
    have hexp := expField_of_large p k base len hs hk
    have hmax := requestExp_le p base len
    have hsum := capMaxE_add_mw p
    have hmw : 10 ≤ mw p := by unfold mw; split <;> omega
    have small (n : Nat) (hn : requestExp p base len + n = p.xlenmax) : k.bMant p / 2 ^ n = 0 := by
      rw [hbm]
      refine Nat.div_eq_of_lt ((Nat.mod_le _ _).trans_lt ?_)
      rw [Nat.div_lt_iff_lt_mul (Nat.two_pow_pos _), ← pow_add, Nat.add_comm, hn]
      exact (floorTo_le _ _).trans_lt hb
    have hzero : k.expField p = 0 → k.bMant p / 2 ^ (mw p - 2) = 0 := fun h => small _ (by omega)
    have hone : k.expField p = 1 → k.bMant p / 2 ^ (mw p - 1) = 0 := fun h => small _ (by omega)
    have hle : ¬capMaxE p < k.expField p := by omega
    unfold Cap.malformed
    rw [hef]
    simp only [Bool.not_false, Bool.true_and, Bool.or_eq_false_iff, decide_eq_false_iff_not, Bool.and_eq_false_imp, beq_iff_eq, bne_eq_false_iff_eq]
    exact ⟨⟨hle, hzero⟩, hone⟩
  · obtain ⟨hef, -⟩ := fields_of_small p k base len hs hk
    simp [Cap.malformed, hef]

theorem toNat_lt_of_truncX (p : Params) (a : Word) (h : truncX p a = a) : a.toNat < 2 ^ p.xlenmax := h ▸ truncX_toNat_lt p a

theorem reservedMask_of_le_efBit (p : Params) (j : Nat) (h : j ≤ efBit p) : (reservedMask p).getLsbD j = false := by
  have h64 : ∀ j ≤ 26, (0xFE007FFFF0000000 : Word).getLsbD j = false ∧ (0xFE00FFFFF0000000 : Word).getLsbD j = false := by decide
  have h32 : ∀ j ≤ 19, (0x01E00000 : Word).getLsbD j = false ∧ (0x03E00000 : Word).getLsbD j = false := by decide
  unfold efBit at h
  unfold reservedMask
  cases hx : p.xlenmax64 <;> cases hm : p.mode <;> simp only [hx, Bool.false_eq_true, if_false, if_true] at h ⊢
  exacts [(h32 j h).2, (h32 j h).1, (h64 j h).2, (h64 j h).1]

theorem lawful_setBounds (p : Params) (k : Cap) (len : Nat) (exact_ : Bool) (h : k.lawful p = true) :
    (k.setBounds p len exact_).lawful p = true := by
  obtain ⟨hm, ha, hk⟩ := (lawful_iff p k).1 h
  have hbit (j : Nat) (hj : efBit p < j) : (k.setBounds p len exact_).md.getLsbD j = k.md.getLsbD j := by
    simp [Cap.setBounds, getLsbD_putMask, getLsbD_boundsMask, show ¬j ≤ efBit p by omega]
  have hef : efBit p ≤ 26 ∧ (p.xlenmax64 = false → efBit p = 19) := by unfold efBit; split <;> simp_all
  refine (lawful_iff p _).2 ⟨truncX_putMask _ _ _ _ hm (.inl ?fits), ha, fun ht => ⟨?bounds, ?reserved, ?perms⟩⟩
  case fits =>
    refine (truncX_eq_self_iff _ _).2 fun hx j hj => ?_
    rw [getLsbD_boundsMask, decide_eq_false_iff_not]
    omega
  case bounds =>
    rw [malformed_congr p _ ⟨true, (encodeBounds p k.addr.toNat len).bits, k.addr⟩ fun j hj => by
      simp [Cap.setBounds, getLsbD_putMask, getLsbD_boundsMask, hj]]
    exact malformed_of_encodeBounds p _ k.addr.toNat len (toNat_lt_of_truncX p _ ha) rfl
  all_goals
    have htag : k.tag = true := by
      simp only [Cap.setBounds, Bool.and_eq_true] at ht
      obtain ⟨⟨⟨⟨⟨htag, -⟩, -⟩, -⟩, -⟩, -⟩ := ht
      exact htag
    obtain ⟨-, hres, hap⟩ := hk htag
  case reserved =>
    rw [and_eq_zero_iff] at hres ⊢
    intro j hj
    have : ¬j ≤ efBit p := fun hle => by simp [reservedMask_of_le_efBit p j hle] at hj
    rw [hbit j (by omega), hres j hj]
  case perms =>
    rcases hap with h64 | hne
    · exact .inl h64
    · by_cases hx : p.xlenmax64 = true
      · exact .inl hx
      · refine .inr ?_
        have : (k.setBounds p len exact_).ap p = k.ap p := by
          simp only [Cap.ap, hx, Bool.false_eq_true, if_false]
          exact bitsOf_congr _ _ _ _ fun j hj _ => hbit j (by have := hef.2 (by simpa using hx); omega)
        rwa [this]

/-! ## Infinite, and pcc in debug mode (10_state R36, 60_exceptions R396) -/

theorem lawful_nullWithAddr (p : Params) (a : Word) (h : truncX p a = a) : (nullWithAddr a).lawful p = true :=
  lawful_untagged p 0 a (truncX_zero p) h

theorem lawful_infiniteAt (p : Params) (a : Word) (h : truncX p a = a) : (infiniteAt p a).lawful p = true := by
  refine (lawful_iff p _).2 ⟨?fits, h, fun _ => ?tagged⟩
  case fits =>
    simp only [infiniteAt, infiniteMd, truncX]
    split <;> decide
  case tagged =>
    cases hx : p.xlenmax64 <;> cases hm : p.mode <;>
      simp [infiniteAt, infiniteMd, Cap.malformed, Cap.ef, efBit, Cap.expField, Cap.bMant, Cap.t8, Cap.te, Cap.be, Cap.bmid, Cap.ap,
        reservedMask, capMaxE, bitsOf, hx, hm]

theorem lawful_freePccOf (p : Params) (n : Nat) : (freePccOf p n).lawful p = true := by
  refine lawful_of_derivable p _ (truncX_truncX p _) (truncX_truncX p _) fun ht => ?_
  exact (Bool.and_eq_true_iff.1 ht).2

theorem lawful_dinfc (s : State) : s.dinfc.lawful s.cfg = true := by
  unfold State.dinfc
  have h := lawful_infiniteAt s.cfg 0 (truncX_zero _)
  cases hm : s.cfg.mode
  · exact h
  · exact lawful_putMode s.cfg _ _ h hm

/-! ## Addresses a register holds; traps and returns (11_csrs R90, R93) -/

/-- With XLENMAX = 32 every address is held as it is. -/
theorem truncX_heldAddr (p : Params) (r : AddrReg) (a : Word) (h : truncX p a = a) : truncX p (Params.heldAddr p r a) = Params.heldAddr p r a := by
  by_cases hx : p.xlenmax64 = true
  · exact truncX_of_xlenmax64 _ _ hx
  · rwa [heldAddr_of_holds _ _ _ (holds_of_xlenmax32 p r a (by simpa using hx))]

theorem lawful_hold (p : Params) (r : AddrReg) (k : Cap) (h : k.lawful p = true) : (Cap.hold p r k).lawful p = true := by
  unfold Cap.hold
  split
  · exact h
  · next hne =>
    have hx : p.xlenmax64 = true := by
      by_contra hx
      exact hne (holds_of_xlenmax32 p r _ (by simpa using hx))
    exact lawful_setAddr p k _ h (truncX_of_xlenmax64 _ _ hx)

theorem lawful_pccAt (s : State) (a : Word) (h : s.pcc.lawful s.cfg = true) : (s.pccAt a).lawful s.cfg = true :=
  lawful_hold _ _ _ (lawful_withAddr s.cfg s.pcc s.pcc.tag _ h id (truncX_toX s a))

/-- A capability whose address is set where it changes. -/
theorem lawful_movedTo (p : Params) (k : Cap) (b : Word) (h : k.lawful p = true) (hb : truncX p b = b) :
    (if b = k.addr then k else k.setAddr p b).lawful p = true := by
  split
  · exact h
  · exact lawful_setAddr p k b h hb

theorem x64Of_of_xlenmax32 (s : State) (q : Priv) (h : s.cfg.xlenmax64 = false) : s.x64Of q = false := by
  simp [State.x64Of, h]

theorem lawful_pccFor (s : State) (q : Priv) (k : Cap) (h : k.lawful s.cfg = true) : (s.pccFor q k).lawful s.cfg = true := by
  refine lawful_hold _ _ _ ?_
  by_cases hx : s.cfg.xlenmax64 = true
  · exact lawful_movedTo _ _ _ h (truncX_of_xlenmax64 _ _ hx)
  · have hx : s.cfg.xlenmax64 = false := by simpa using hx
    simp [x64Of_of_xlenmax32 s q hx, hx, h]

theorem lawful_vecTarget (p : Params) (v : Cap) (irq : Bool) (code : Nat) (h : v.lawful p = true) : (vecTarget p v irq code).lawful p = true := by
  have base : (Cap.mk v.tag v.md (v.addr &&& ~~~3#64)).lawful p = true :=
    lawful_withAddr p v v.tag _ h id (truncX_and _ _ _ (lawful_addr p v h))
  unfold vecTarget
  split
  · exact lawful_setAddr p _ _ base (truncX_truncX p _)
  · exact base

theorem lawful_readEpcc (s : State) (k : Cap) (h : k.lawful s.cfg = true) : (s.readEpcc k).lawful s.cfg = true := by
  unfold State.readEpcc
  split
  · exact h
  · split
    · exact lawful_setAddr _ _ _ h (truncX_putBit _ _ _ _ (lawful_addr _ _ h) (by unfold Params.xlenmax; split <;> omega))
    · exact h

theorem lawful_readDpcc (s : State) (h : s.csr.dpcc.lawful s.cfg = true) : s.readDpcc.lawful s.cfg = true := by
  have wide : 1 < s.cfg.xlenmax := by unfold Params.xlenmax; split <;> omega
  have h0 := truncX_putBit s.cfg _ 0 false (lawful_addr _ _ h) (by omega)
  refine lawful_movedTo _ _ _ h ?_
  split
  · exact h0
  · exact truncX_putBit _ _ _ _ h0 wide

end Sys2Proof.Machine
end

section
/-!
PROOFS. What keeps the invariants: a relation between two states that every operation of an instruction makes hold, one rule per operation.
-/
namespace Sys2Proof.Machine
open Sys2Proof

/-! ## The parts the invariants speak of -/

/-- The stored value of a capability CSR among `Csrs`; ddc and dinfc are none of them. -/
def Csrs.capAt (r : Csrs) : CapCsr → Cap
  | .mtvecc => r.mtvecc
  | .mscratchc => r.mscratchc
  | .mepcc => r.mepcc
  | .stvecc => r.stvecc
  | .sscratchc => r.sscratchc
  | .sepcc => r.sepcc
  | .jvtc => r.jvtc
  | .dpcc => r.dpcc
  | .dscratch0c => r.dscratch0c
  | .dscratch1c => r.dscratch1c
  | .dddc => r.dddc
  | .mtdc => r.mtdc
  | .stdc => r.stdc
  | .ddc | .dinfc => nullCap

/-- What the invariants, and the frame that goes with them, can tell of a state. -/
structure Guarded where
  cfg : Params
  irqIn : Word
  triggers : List Trigger
  mem : Memory
  regs : Vector Cap 32
  pcc : Cap
  ddc : Cap
  priv : Priv
  debug : Bool
  caps : CapCsr → Cap

def State.guarded (s : State) : Guarded where
  cfg := s.cfg
  irqIn := s.irqIn
  triggers := s.triggers
  mem := s.mem
  regs := s.regs
  pcc := s.pcc
  ddc := s.ddc
  priv := s.priv
  debug := s.debug
  caps := s.csr.capAt

/-- The granule `g` of memory as a tagged capability. -/
def Memory.granule (m : Memory) (p : Params) (g : Nat) : Cap := bytesToCap p true (m.readList (span (g * p.capBytes) p.capBytes))

/-- Every tagged granule holds a lawful capability. -/
def Memory.lawful (m : Memory) (p : Params) : Prop := ∀ g, m.tagOf g = true → (m.granule p g).lawful p = true

theorem rawCapCsr_eq_capAt (s : State) (c : CapCsr) (hddc : c ≠ .ddc) (hdinfc : c ≠ .dinfc) : s.rawCapCsr c = s.csr.capAt c := by
  cases c with
  | ddc => exact absurd rfl hddc
  | dinfc => exact absurd rfl hdinfc
  | _ => rfl

/-- `CapInv` by its parts; dinfc is lawful always. -/
theorem capInv_iff (s : State) : s.CapInv ↔ (∀ i, (s.rc i).lawful s.cfg = true) ∧ s.pcc.lawful s.cfg = true ∧ s.ddc.lawful s.cfg = true ∧
    (∀ c, (s.csr.capAt c).lawful s.cfg = true) ∧ s.mem.lawful s.cfg := by
  have null : nullCap.lawful s.cfg = true := lawful_nullWithAddr _ _ (truncX_zero _)
  constructor
  · rintro ⟨hregs, hpcc, hcsr, hmem⟩
    refine ⟨hregs, hpcc, hcsr .ddc, fun c => ?_, hmem⟩
    by_cases hc : c = .ddc ∨ c = .dinfc
    · rcases hc with rfl | rfl <;> exact null
    · rw [not_or] at hc
      exact rawCapCsr_eq_capAt s c hc.1 hc.2 ▸ hcsr c
  · rintro ⟨hregs, hpcc, hddc, hcsr, hmem⟩
    refine ⟨hregs, hpcc, fun c => ?_, hmem⟩
    by_cases h1 : c = .ddc
    · exact h1 ▸ hddc
    · by_cases h2 : c = .dinfc
      · exact h2 ▸ lawful_dinfc s
      · exact rawCapCsr_eq_capAt s c h1 h2 ▸ hcsr c

section
variable {s : State}

theorem State.Inv.mem_wf (h : s.Inv) : s.mem.wf = true := h.1

theorem State.Inv.pcc_even (h : s.Inv) (hd : s.debug = false) : s.pcc.even = true := by
  obtain ⟨-, heven, -⟩ := h
  exact heven hd

theorem State.Inv.mepcc_even (h : s.Inv) : s.csr.mepcc.even = true := by
  obtain ⟨-, -, heven, -⟩ := h
  exact heven

theorem State.Inv.sepcc_even (h : s.Inv) : s.csr.sepcc.even = true := by
  obtain ⟨-, -, -, heven, -⟩ := h
  exact heven

theorem State.Inv.hasSdext (h : s.Inv) (hd : s.debug = true) : s.cfg.hasSdext = true := by
  obtain ⟨-, -, -, -, -, -, hdext, -⟩ := h
  exact hdext hd

theorem State.CapInv.rc (h : s.CapInv) (i : Reg) : (s.rc i).lawful s.cfg = true := h.1 i

theorem State.CapInv.pcc (h : s.CapInv) : s.pcc.lawful s.cfg = true := h.2.1

theorem State.CapInv.csr (h : s.CapInv) (c : CapCsr) : (s.rawCapCsr c).lawful s.cfg = true := by
  obtain ⟨-, -, hcsr, -⟩ := h
  exact hcsr c

theorem State.CapInv.ddc (h : s.CapInv) : s.ddc.lawful s.cfg = true := h.csr .ddc

theorem State.CapInv.mem (h : s.CapInv) : s.mem.lawful s.cfg := by
  obtain ⟨-, -, -, hmem⟩ := h
  exact hmem

end

/-! ## Writing a capability CSR -/

@[simp] theorem putCapCsr_cfg (s : State) (c : CapCsr) (k : Cap) : (s.putCapCsr c k).cfg = s.cfg := by cases c <;> rfl
@[simp] theorem putCapCsr_irqIn (s : State) (c : CapCsr) (k : Cap) : (s.putCapCsr c k).irqIn = s.irqIn := by cases c <;> rfl
@[simp] theorem putCapCsr_triggers (s : State) (c : CapCsr) (k : Cap) : (s.putCapCsr c k).triggers = s.triggers := by cases c <;> rfl
@[simp] theorem putCapCsr_mem (s : State) (c : CapCsr) (k : Cap) : (s.putCapCsr c k).mem = s.mem := by cases c <;> rfl
@[simp] theorem putCapCsr_rc (s : State) (c : CapCsr) (k : Cap) (i : Reg) : (s.putCapCsr c k).rc i = s.rc i := by cases c <;> rfl
@[simp] theorem putCapCsr_pcc (s : State) (c : CapCsr) (k : Cap) : (s.putCapCsr c k).pcc = s.pcc := by cases c <;> rfl
@[simp] theorem putCapCsr_priv (s : State) (c : CapCsr) (k : Cap) : (s.putCapCsr c k).priv = s.priv := by cases c <;> rfl
@[simp] theorem putCapCsr_debug (s : State) (c : CapCsr) (k : Cap) : (s.putCapCsr c k).debug = s.debug := by cases c <;> rfl
theorem putCapCsr_ddc (s : State) (c : CapCsr) (k : Cap) : (s.putCapCsr c k).ddc = if c = .ddc then k else s.ddc := by cases c <;> rfl
theorem capAt_putCapCsr (s : State) (c d : CapCsr) (k : Cap) :
    (s.putCapCsr c k).csr.capAt d = if d = c ∧ c ≠ .ddc ∧ c ≠ .dinfc then k else s.csr.capAt d := by
  cases c <;> cases d <;> rfl

theorem putCapCsr_mepcc (s : State) (c : CapCsr) (k : Cap) : (s.putCapCsr c k).csr.mepcc = if c = .mepcc then k else s.csr.mepcc := by
  cases c <;> rfl
theorem putCapCsr_sepcc (s : State) (c : CapCsr) (k : Cap) : (s.putCapCsr c k).csr.sepcc = if c = .sepcc then k else s.csr.sepcc := by
  cases c <;> rfl
theorem putCapCsr_jvtc (s : State) (c : CapCsr) (k : Cap) : (s.putCapCsr c k).csr.jvtc = if c = .jvtc then k else s.csr.jvtc := by
  cases c <;> rfl

/-! ## The relation -/

/-- `t`, reached from `s`, meets the invariants where `s` does, and has the same parameters, interrupt inputs and number of triggers. -/
structure State.Keeps (s t : State) : Prop where
  cfg : t.cfg = s.cfg
  irqIn : t.irqIn = s.irqIn
  triggers : t.triggers.length = s.triggers.length
  inv : s.Inv → t.Inv
  caps : s.Inv → s.CapInv → t.CapInv

namespace State.Keeps

theorem refl (s : State) : s.Keeps s := ⟨rfl, rfl, rfl, id, fun _ => id⟩

theorem trans {s t u : State} (h : s.Keeps t) (h' : t.Keeps u) : s.Keeps u :=
  ⟨h'.cfg.trans h.cfg, h'.irqIn.trans h.irqIn, h'.triggers.trans h.triggers, fun i => h'.inv (h.inv i),
    fun i c => h'.caps (h.inv i) (h.caps i c)⟩

/-- The invariants depend on nothing else. -/
theorem congr {s t u : State} (h : s.Keeps t) (e : u.guarded = t.guarded) : s.Keeps u := by
  obtain ⟨hcfg, hirq, htr, hmem, hregs, hpcc, hddc, hpriv, hdebug, hcaps⟩ := Guarded.mk.inj e
  have hepc := congrFun hcaps .mepcc
  have hsepc := congrFun hcaps .sepcc
  have hjvtc := congrFun hcaps .jvtc
  have hrc (i : Reg) : u.rc i = t.rc i := by unfold State.rc; rw [hregs]
  refine h.trans ⟨hcfg, hirq, congrArg _ htr, fun hi => ?_, fun _ hc => ?_⟩
  · simp only [Csrs.capAt] at hepc hsepc hjvtc
    unfold State.Inv at hi ⊢
    rwa [hmem, hdebug, hpcc, hepc, hsepc, hjvtc, hpriv, hcfg, htr]
  · rw [capInv_iff] at hc ⊢
    simpa only [hcfg, hmem, hpcc, hddc, hcaps, hrc] using hc

/-! ## Registers and pcc -/

theorem wc {s t : State} (h : s.Keeps t) (i : Reg) (k : Cap) (hk : s.Inv → s.CapInv → k.lawful s.cfg = true) : s.Keeps (t.wc i k) := by
  refine ⟨(wc_cfg t i k).trans h.cfg, (wc_irqIn t i k).trans h.irqIn, by rw [wc_triggers, h.triggers], fun hi => ?_, fun hi hc => ?_⟩
  · simpa only [State.Inv, wc_mem, wc_debug, wc_pcc, wc_csr, wc_priv, wc_cfg, wc_triggers] using h.inv hi
  · obtain ⟨hregs, hrest⟩ := (capInv_iff t).1 (h.caps hi hc)
    refine (capInv_iff _).2 ⟨fun j => ?_, by simpa only [wc_cfg, wc_pcc, wc_ddc, wc_csr, wc_mem] using hrest⟩
    rw [rc_wc, wc_cfg]
    split
    · rw [h.cfg]
      exact hk hi hc
    · exact hregs j

theorem wx {s t : State} (h : s.Keeps t) (i : Reg) (v : Word) : s.Keeps (t.wx i v) :=
  h.wc i _ fun _ _ => h.cfg ▸ lawful_nullWithAddr t.cfg _ (truncX_toX t v)

/-- Debug mode or not, and pcc. -/
theorem pccMode {s t : State} (h : s.Keeps t) (d : Bool) (k : Cap) (hd : s.Inv → d = true → s.cfg.hasSdext = true)
    (heven : s.Inv → d = false → k.even = true) (hk : s.Inv → s.CapInv → k.lawful s.cfg = true) :
    s.Keeps { t with debug := d, pcc := k } := by
  refine ⟨h.cfg, h.irqIn, h.triggers, fun hi => ?_, fun hi hc => ?_⟩
  · obtain ⟨hmem, -, hm, hs, hj, hp, -, ht⟩ := h.inv hi
    exact ⟨hmem, heven hi, hm, hs, hj, hp, fun e => (congrArg Params.hasSdext h.cfg).trans (hd hi e), ht⟩
  · obtain ⟨hregs, -, hrest⟩ := (capInv_iff t).1 (h.caps hi hc)
    exact (capInv_iff _).2 ⟨hregs, h.cfg ▸ hk hi hc, hrest⟩

theorem setPcc {s t : State} (h : s.Keeps t) (k : Cap) (heven : s.Inv → t.debug = false → k.even = true)
    (hk : s.Inv → s.CapInv → k.lawful s.cfg = true) : s.Keeps (t.setPcc k) :=
  h.pccMode t.debug k (fun hi e => h.cfg ▸ (h.inv hi).hasSdext e) heven hk

theorem setPriv {s t : State} (h : s.Keeps t) (q : Priv) (hq : s.Inv → q.present s.cfg = true) : s.Keeps { t with priv := q } := by
  refine ⟨h.cfg, h.irqIn, h.triggers, fun hi => ?_, fun hi hc => h.caps hi hc⟩
  obtain ⟨hmem, he, hm, hs, hj, -, hd, ht⟩ := h.inv hi
  exact ⟨hmem, he, hm, hs, hj, h.cfg ▸ hq hi, hd, ht⟩

/-! ## Capability CSRs -/

theorem putCapCsr {s t : State} (h : s.Keeps t) (c : CapCsr) (k : Cap) (heven : s.Inv → c.isEpc = true → k.even = true)
    (hjvt : s.Inv → c = .jvtc → k.addr &&& 63 = 0) (hk : s.Inv → s.CapInv → k.lawful s.cfg = true) : s.Keeps (t.putCapCsr c k) := by
  refine ⟨(putCapCsr_cfg t c k).trans h.cfg, (putCapCsr_irqIn t c k).trans h.irqIn, by rw [putCapCsr_triggers, h.triggers], fun hi => ?_,
    fun hi hc => ?_⟩
  · obtain ⟨hmem, he, hm, hs, hj, hp, hd, ht⟩ := h.inv hi
    simp only [State.Inv, putCapCsr_mem, putCapCsr_debug, putCapCsr_pcc, putCapCsr_priv, putCapCsr_cfg, putCapCsr_triggers]
    refine ⟨hmem, he, ?_, ?_, ?_, hp, hd, ht⟩
    · rw [putCapCsr_mepcc]
      split
      · next e => exact heven hi (e ▸ rfl)
      · exact hm
    · rw [putCapCsr_sepcc]
      split
      · next e => exact heven hi (e ▸ rfl)
      · exact hs
    · rw [putCapCsr_jvtc]
      split
      · next e => exact hjvt hi e
      · exact hj
  · obtain ⟨hregs, hpcc, hddc, hcsr, hmem⟩ := (capInv_iff t).1 (h.caps hi hc)
    have hk' : k.lawful t.cfg = true := h.cfg ▸ hk hi hc
    simp only [capInv_iff, putCapCsr_mem, putCapCsr_pcc, putCapCsr_cfg, putCapCsr_rc]
    refine ⟨hregs, hpcc, ?_, fun d => ?_, hmem⟩
    · rw [putCapCsr_ddc]
      split
      · exact hk'
      · exact hddc
    · rw [capAt_putCapCsr]
      split
      · exact hk'
      · exact hcsr d

end State.Keeps

end Sys2Proof.Machine
end

section
/-!
PROOFS. What keeps the invariants: stores, triggers, and the entries and exits of traps and debug mode.
-/
namespace Sys2Proof.Machine
open Sys2Proof

/-! ## Memory of lawful capabilities -/

theorem capBytes_pos (p : Params) : 0 < p.capBytes := by unfold Params.capBytes; split <;> decide

theorem mem_span (a n b : Nat) : b ∈ span a n ↔ a ≤ b ∧ b < a + n := by
  simp only [span, List.mem_map, List.mem_range]
  constructor
  · rintro ⟨i, hi, rfl⟩
    omega
  · exact fun h => ⟨b - a, by omega, by omega⟩

theorem div_of_mem_granule (n g b : Nat) (hb : b ∈ span (g * n) n) : b / n = g := by
  rw [mem_span] at hb
  rw [Nat.div_eq_iff (by omega)]
  omega

/-- The granule `g` reads as before where no byte of it was written. -/
theorem granule_congr (m m' : Memory) (p : Params) (g : Nat) (h : ∀ b, b / p.capBytes = g → m'.readByte b = m.readByte b) :
    m'.granule p g = m.granule p g := by
  have : m'.readList (span (g * p.capBytes) p.capBytes) = m.readList (span (g * p.capBytes) p.capBytes) :=
    List.map_congr_left fun b hb => h b (div_of_mem_granule _ _ _ hb)
  rw [Memory.granule, Memory.granule, this]

/-- A store of integer data leaves tagged only granules it does not touch. -/
theorem lawful_storeBytes (s : State) (as : List Nat) (bs : List Byte) (hwf : s.mem.wf = true) (h : s.mem.lawful s.cfg) :
    (s.storeBytes as bs).mem.lawful s.cfg := by
  intro g hg
  rw [storeBytes_tagOf s as bs g hwf, Bool.and_eq_true, Bool.not_eq_true', List.any_eq_false] at hg
  obtain ⟨htag, huntouched⟩ := hg
  rw [granule_congr s.mem _ s.cfg g fun b hb => ?_]
  · exact h g htag
  · rw [storeBytes_mem, Memory.readByte_clearTags]
    refine Memory.readByte_writeList_of_notMem _ _ _ _ hwf fun hmem => ?_
    exact huntouched b hmem (beq_iff_eq.2 hb)

/-- A capability-wide store at an aligned address leaves its own granule with a lawful capability and the others as they were. -/
theorem lawful_writeCap (s : State) (a : Nat) (k : Cap) (ha : a % s.cfg.capBytes = 0) (hwf : s.mem.wf = true) (h : s.mem.lawful s.cfg)
    (hk : k.lawful s.cfg = true) : (s.writeCap a k).mem.lawful s.cfg := by
  intro g hg
  have hn := capBytes_pos s.cfg
  obtain ⟨hbytes, hframe, htags, -⟩ := capStoredAt_writeCap s a k hwf
  rw [htags] at hg
  split at hg
  · next e =>
    have : g * s.cfg.capBytes = a := by rw [e]; exact Nat.div_mul_cancel (Nat.dvd_of_mod_eq_zero ha)
    rw [Memory.granule, this, hbytes, show bytesToCap s.cfg true (capToBytes s.cfg k) = bytesToCap s.cfg k.tag (capToBytes s.cfg k) by rw [hg],
      bytesToCap_capToBytes _ _ (lawful_md _ _ hk) (lawful_addr _ _ hk)]
    exact hk
  · next e =>
    rw [granule_congr s.mem _ s.cfg g fun b hb => ?_]
    · exact h g hg
    · refine hframe b fun hmem => e ?_
      rw [← Nat.div_mul_cancel (Nat.dvd_of_mod_eq_zero ha)] at hmem
      exact hb.symm.trans (div_of_mem_granule _ _ _ hmem)

namespace State.Keeps

theorem storeBytes {s t : State} (h : s.Keeps t) (as : List Nat) (bs : List Byte) : s.Keeps (t.storeBytes as bs) := by
  refine ⟨h.cfg, h.irqIn, h.triggers, fun hi => ?_, fun hi hc => ?_⟩
  · obtain ⟨hmem, hrest⟩ := h.inv hi
    exact ⟨wf_storeBytes t as bs hmem, hrest⟩
  · obtain ⟨hregs, hpcc, hddc, hcsr, hmem⟩ := (capInv_iff t).1 (h.caps hi hc)
    exact (capInv_iff _).2 ⟨hregs, hpcc, hddc, hcsr, lawful_storeBytes t as bs (h.inv hi).mem_wf hmem⟩

theorem writeCap {s t : State} (h : s.Keeps t) (a : Nat) (k : Cap) (ha : a % s.cfg.capBytes = 0)
    (hk : s.Inv → s.CapInv → k.lawful s.cfg = true) : s.Keeps (t.writeCap a k) := by
  refine ⟨h.cfg, h.irqIn, h.triggers, fun hi => ?_, fun hi hc => ?_⟩
  · obtain ⟨hmem, hrest⟩ := h.inv hi
    exact ⟨wf_writeCap t a k hmem, hrest⟩
  · obtain ⟨hregs, hpcc, hddc, hcsr, hmem⟩ := (capInv_iff t).1 (h.caps hi hc)
    rw [← h.cfg] at ha hk
    exact (capInv_iff _).2 ⟨hregs, hpcc, hddc, hcsr, lawful_writeCap t a k ha (h.inv hi).mem_wf hmem (hk hi hc)⟩

theorem setCd {s t : State} (h : s.Keeps t) (cd : Option (Nat × Word)) : s.Keeps (t.setCd cd) := by
  cases cd with
  | none => exact h
  | some x => exact h.storeBytes _ _

/-! ## Triggers -/

theorem setTrigger {s t : State} (h : s.Keeps t) (f : Trigger → Trigger)
    (hf : ∀ b : Trigger, (!b.toDebug || b.dmode) = true → (!(f b).toDebug || (f b).dmode) = true) : s.Keeps (t.setTrigger f) := by
  obtain e | ⟨b, hb, -, e⟩ := setTrigger_cases t f
  · rwa [e]
  · rw [e]
    refine ⟨h.cfg, h.irqIn, by simpa using h.triggers, fun hi => ?_, fun hi hc => h.caps hi hc⟩
    obtain ⟨hmem, he, hm, hs, hj, hp, hd, ht⟩ := h.inv hi
    refine ⟨hmem, he, hm, hs, hj, hp, hd, ?_⟩
    simp only [List.all_eq_true] at ht ⊢
    intro x hx
    rcases List.mem_or_eq_of_mem_set hx with hx | rfl
    · exact ht x hx
    · exact hf b (ht b (List.mem_of_getElem? hb))

end State.Keeps

/-! ## Even addresses -/

theorem even_iff (k : Cap) : k.even = true ↔ k.addr.getLsbD 0 = false := by simp [Cap.even]

theorem getLsbD_sext32 (v : Word) (j : Nat) (hj : j < 32) : (sext32 v).getLsbD j = v.getLsbD j := by
  simp [sext32, BitVec.getLsbD_signExtend, hj]
  omega

theorem getLsbD_truncX (p : Params) (v : Word) (j : Nat) (hj : j < 32) : (truncX p v).getLsbD j = v.getLsbD j := by
  unfold truncX
  split
  · rfl
  · simp [hj]; omega

theorem getLsbD_toX (s : State) (v : Word) (j : Nat) (hj : j < 32) : (s.toX v).getLsbD j = v.getLsbD j := by
  unfold State.toX
  rw [getLsbD_truncX _ _ _ hj]
  split
  · rfl
  · exact getLsbD_sext32 v j hj

theorem getLsbD_pc (s : State) (j : Nat) (hj : j < 32) : s.pc.getLsbD j = s.pcc.addr.getLsbD j := by
  unfold State.pc
  split
  · rfl
  · exact getLsbD_sext32 _ j hj

theorem getLsbD_zero_eq_false_iff (v : Word) : v.getLsbD 0 = false ↔ v.toNat % 2 = 0 := by
  rw [BitVec.getLsbD, Nat.testBit_zero, decide_eq_false_iff_not]
  omega

theorem getLsbD_zero_add (v : Word) (n : Nat) (hv : v.getLsbD 0 = false) (hn : n % 2 = 0) : (v + BitVec.ofNat 64 n).getLsbD 0 = false := by
  rw [getLsbD_zero_eq_false_iff] at *
  rw [BitVec.toNat_add, BitVec.toNat_ofNat]
  omega

/-- The address of a capability that is moved where it must be. -/
theorem movedTo_addr (p : Params) (k : Cap) (b : Word) : (if b = k.addr then k else k.setAddr p b).addr = b := by
  split
  · next e => exact e.symm
  · rfl

/-- pcc moved on by an even number stays even. -/
theorem even_pccAt_add (s : State) (n : Nat) (hn : n % 2 = 0) (h : s.pcc.even = true) : (s.pccAt (s.pc + BitVec.ofNat 64 n)).even = true := by
  refine even_hold _ _ _ ?_
  rw [even_iff] at h ⊢
  rw [getLsbD_toX _ _ _ (by decide)]
  exact getLsbD_zero_add _ n (by rwa [getLsbD_pc _ _ (by decide)]) hn

theorem even_pccFor (s : State) (q : Priv) (k : Cap) (h : k.even = true) : (s.pccFor q k).even = true := by
  refine even_hold _ _ _ ?_
  have ha : (if s.x64Of q = s.cfg.xlenmax64 then k.addr else sext32 k.addr).getLsbD 0 = false := by
    rw [even_iff] at h
    split
    · exact h
    · rwa [getLsbD_sext32 _ _ (by decide)]
  exact (even_iff _).2 ((movedTo_addr _ _ _).symm ▸ ha)

theorem even_vecTarget (p : Params) (v : Cap) (irq : Bool) (code : Nat) : (vecTarget p v irq code).even = true := by
  have base : (v.addr &&& ~~~3#64).getLsbD 0 = false := by simp
  unfold vecTarget
  rw [even_iff]
  split
  · refine (getLsbD_truncX _ _ _ (by decide)).trans (getLsbD_zero_add _ _ base (by omega))
  · exact base

theorem even_readEpcc (s : State) (k : Cap) (h : k.even = true) : (s.readEpcc k).even = true := by
  unfold State.readEpcc
  split
  · exact h
  · split
    · rw [even_iff] at h ⊢
      exact (getLsbD_putBit _ _ _ _ (by decide)).trans (by simpa using h)
    · exact h

theorem even_readDpcc (s : State) : s.readDpcc.even = true := by
  have hb : (if s.ialign16 then putBit s.csr.dpcc.addr 0 false else putBit (putBit s.csr.dpcc.addr 0 false) 1 false).getLsbD 0 = false := by
    split <;> rw [getLsbD_putBit _ _ _ _ (by decide)]
    · rfl
    · rw [if_neg (by decide), getLsbD_putBit _ _ _ _ (by decide)]
      rfl
  exact (even_iff _).2 ((movedTo_addr _ _ _).symm ▸ hb)

/-! ## Privilege modes that exist -/

theorem present_legalPriv (s : State) (q : Priv) : (s.legalPriv q).present s.cfg = true := by
  unfold State.legalPriv State.leastPriv Priv.present
  cases q <;> cases s.cfg.hasS <;> cases s.cfg.hasU <;> rfl

/-! ## Trap entry, trap return, debug mode -/

namespace State.Keeps

theorem trapM (s : State) (hd : s.debug = false) (irq : Bool) (code : Nat) (v : Word) : s.Keeps (s.trapM irq code v) := by
  have saved := (refl s).putCapCsr .mepcc (Cap.hold s.cfg .mepcc s.pcc) (fun hi _ => even_hold _ _ _ (hi.pcc_even hd)) (fun _ e => nomatch e)
    fun _ hc => lawful_hold _ _ _ (hc.pcc)
  have entered := (saved.setPriv .machine fun _ => rfl).setPcc (s.pccFor .machine (vecTarget s.cfg s.csr.mtvecc irq code))
    (fun _ _ => even_pccFor _ _ _ (even_vecTarget _ _ _ _)) fun _ hc => lawful_pccFor _ _ _ (lawful_vecTarget _ _ _ _ (hc.csr .mtvecc))
  exact entered.congr rfl

theorem trapS (s : State) (hd : s.debug = false) (hS : s.cfg.hasS = true) (irq : Bool) (code : Nat) (v : Word) :
    s.Keeps (s.trapS irq code v) := by
  have saved := (refl s).putCapCsr .sepcc (Cap.hold s.cfg .sepcc s.pcc) (fun hi _ => even_hold _ _ _ (hi.pcc_even hd)) (fun _ e => nomatch e)
    fun _ hc => lawful_hold _ _ _ (hc.pcc)
  have entered := (saved.setPriv .supervisor fun _ => hS).setPcc (s.pccFor .supervisor (vecTarget s.cfg s.csr.stvecc irq code))
    (fun _ _ => even_pccFor _ _ _ (even_vecTarget _ _ _ _)) fun _ hc => lawful_pccFor _ _ _ (lawful_vecTarget _ _ _ _ (hc.csr .stvecc))
  exact entered.congr rfl

theorem takeException (s : State) (e : Exc) : s.Keeps (Machine.takeException s e) := by
  obtain ⟨-, h⟩ | ⟨hd, hdel, h⟩ | ⟨hd, -, h⟩ := takeException_cases s e <;> rw [h]
  · exact (refl s).congr rfl
  · exact trapS s hd (by simp_all [State.delegated]) _ _ _
  · exact trapM s hd _ _ _

theorem returnM (s : State) : s.Keeps s.returnM := by
  have back := ((refl s).setPriv (s.legalPriv s.mpp) fun _ => present_legalPriv s _).setPcc
    (s.pccFor (s.legalPriv s.mpp) ((s.readEpcc s.csr.mepcc).unseal s.cfg))
    (fun hi _ => even_pccFor _ _ _ (even_readEpcc s _ hi.mepcc_even))
    fun _ hc => lawful_pccFor _ _ _ (lawful_unseal _ _ (lawful_readEpcc s _ (hc.csr .mepcc)))
  exact back.congr rfl

theorem returnS (s : State) : s.Keeps s.returnS := by
  have back := ((refl s).setPriv s.sretPriv fun _ => present_legalPriv s _).setPcc
    (s.pccFor s.sretPriv ((s.readEpcc s.csr.sepcc).unseal s.cfg))
    (fun hi _ => even_pccFor _ _ _ (even_readEpcc s _ hi.sepcc_even))
    fun _ hc => lawful_pccFor _ _ _ (lawful_unseal _ _ (lawful_readEpcc s _ (hc.csr .sepcc)))
  exact back.congr rfl

theorem enterDebug (s : State) (cause : Nat) (hdext : s.cfg.hasSdext = true) : s.Keeps (s.enterDebug cause) := by
  have saved := (refl s).putCapCsr .dpcc (Cap.hold s.cfg .dpcc s.pcc) (fun _ e => nomatch e) (fun _ e => nomatch e)
    fun _ hc => lawful_hold _ _ _ (hc.pcc)
  have savedData := saved.putCapCsr .dddc (if s.cfg.hasLegacy then Cap.hold s.cfg .dddc s.ddc else s.csr.dddc) (fun _ e => nomatch e)
    (fun _ e => nomatch e) fun _ hc => by
      split
      · exact lawful_hold _ _ _ (hc.ddc)
      · exact hc.csr .dddc
  have opened := savedData.putCapCsr .ddc (if s.cfg.hasLegacy then infiniteAt s.cfg s.ddc.addr else s.ddc) (fun _ e => nomatch e)
    (fun _ e => nomatch e) fun _ hc => by
      split
      · exact lawful_infiniteAt _ _ (lawful_addr _ _ (hc.ddc))
      · exact hc.ddc
  have entered := opened.pccMode true (freePccOf s.cfg s.freeCtr) (fun _ _ => hdext) (fun _ e => nomatch e) fun _ _ => lawful_freePccOf _ _
  exact entered.congr rfl

theorem leaveDebug (s : State) : s.Keeps s.leaveDebug := by
  have data := (refl s).putCapCsr .ddc (if s.cfg.hasLegacy then Cap.hold s.cfg .ddc s.csr.dddc else s.ddc) (fun _ e => nomatch e)
    (fun _ e => nomatch e) fun _ hc => by
      split
      · exact lawful_hold _ _ _ (hc.csr .dddc)
      · exact hc.ddc
  have left := (data.setPriv s.resumePriv fun _ => present_legalPriv s _).pccMode false
    (s.pccFor s.resumePriv (s.readDpcc.unseal s.cfg)) (fun _ e => nomatch e)
    (fun _ _ => even_pccFor _ _ _ (even_readDpcc s)) fun _ hc => lawful_pccFor _ _ _ (lawful_unseal _ _ (lawful_readDpcc s (hc.csr .dpcc)))
  exact left.congr rfl

end State.Keeps

end Sys2Proof.Machine
end

section
/-!
PROOFS. What keeps the invariants: the parts of an instruction, said as what their values meet, and that debug mode is entered only where there is Sdext.
-/
namespace Sys2Proof.Machine
open Sys2Proof

/-! ## What an outcome meets -/

/-- A value of the outcome meets `Q`; debug-mode entry needs Sdext (60_exceptions R395); an exception asks for nothing. -/
def Res.Meets {α : Type} (p : Params) (Q : α → Prop) : Res α → Prop
  | .ok a => Q a
  | .exc _ => True
  | .halt => p.hasSdext = true

namespace Res.Meets

theorem bind {α β : Type} {p : Params} {Q : α → Prop} {R : β → Prop} {r : Res α} {f : α → Res β} (h : r.Meets p Q)
    (hf : ∀ a, Q a → (f a).Meets p R) : (r.bind f).Meets p R := by
  cases r with
  | ok a => exact hf a h
  | exc e => trivial
  | halt => exact h

theorem mono {α : Type} {p : Params} {Q R : α → Prop} {r : Res α} (h : r.Meets p Q) (hQ : ∀ a, Q a → R a) : r.Meets p R := by
  cases r with
  | ok a => exact hQ a h
  | exc e => trivial
  | halt => exact h

/-- What is known of the value beside. -/
theorem of_eq_ok {α : Type} {p : Params} {Q : α → Prop} {r : Res α} (h : r.Meets p fun _ => True) (hQ : ∀ a, r = .ok a → Q a) : r.Meets p Q := by
  cases r with
  | ok a => exact hQ a rfl
  | exc e => trivial
  | halt => exact h

theorem check (p : Params) (b : Bool) (e : Exc) : (Res.check b e).Meets p fun _ => b = true := by
  cases b <;> trivial

theorem ite {α : Type} {p : Params} {Q : α → Prop} {c : Prop} [Decidable c] {r r' : Res α} (h : c → r.Meets p Q) (h' : ¬c → r'.Meets p Q) :
    (if c then r else r').Meets p Q := by
  split
  · next hc => exact h hc
  · next hc => exact h' hc

theorem reportAt {α : Type} {p : Params} {Q : α → Prop} {r : Res α} (h : r.Meets p Q) (v : Word) : (r.reportAt v).Meets p Q := by
  cases r with
  | ok a => exact h
  | exc e => trivial
  | halt => exact h

end Res.Meets

/-- An instruction whose value keeps the invariants keeps them, also by its exception or by entering debug mode. -/
theorem keeps_of_run {s t : State} {r : Res State} (h : r.Meets s.cfg s.Keeps) (e : r.run s = .next t) : s.Keeps t := by
  obtain rfl | ⟨x, -, rfl⟩ | ⟨rfl, rfl⟩ := (Res.run_eq_next s t r).1 e
  · exact h
  · exact .takeException s x
  · exact .enterDebug s 2 h

/-! ## Accesses -/

theorem hasSdext_of_haltHit (s : State) (kind : Acc) (a : Word) (h : s.haltHit kind a = true) : s.cfg.hasSdext = true := by
  simp only [State.haltHit, Bool.and_eq_true] at h
  exact h.1.2

theorem meets_bpCheck (s : State) (kind : Acc) (a : Word) : (s.bpCheck kind a).Meets s.cfg fun _ => True :=
  .ite (hasSdext_of_haltHit s kind a) fun _ => (Res.Meets.check _ _ _).mono fun _ _ => trivial

theorem meets_checkData (s : State) (auth : Cap) (ea : Word) (n : Nat) (kind : Acc) :
    (s.checkData auth ea n kind).Meets s.cfg fun _ => True :=
  .ite (fun _ => trivial) fun _ => .ite (fun _ => trivial) fun _ => .ite (fun _ => trivial) fun _ => .ite (fun _ => trivial) fun _ =>
    .ite (fun _ => trivial) fun _ => trivial

theorem meets_alignCheck (p : Params) (ea : Word) (n : Nat) (kind : Acc) (al : Align) : (alignCheck p ea n kind al).Meets p fun _ => True := by
  refine .ite (fun _ => trivial) fun _ => ?_
  cases al with
  | plain => exact .ite (fun _ => trivial) fun _ => trivial
  | strict | zam => trivial

theorem meets_pmaCheck (p : Params) (kind : Acc) (va : Word) (as : List Nat) : (pmaCheck p kind va as).Meets p fun _ => True :=
  (Res.Meets.check _ _ _).mono fun _ _ => trivial

theorem meets_leafOf (s : State) (kind : Acc) (va : Word) (m : SvMode) (root : Nat) : (s.leafOf kind va m root).Meets s.cfg fun _ => True := by
  unfold State.leafOf
  split
  · trivial
  · obtain ⟨l, h⟩ | h | h := walk_cases s kind va m m.levels root false <;> rw [h] <;> trivial

theorem meets_translateAs (s : State) (q : Priv) (kind : Acc) (va : Word) : (s.translateAs q kind va).Meets s.cfg fun _ => True := by
  unfold State.translateAs
  split
  · trivial
  · exact .ite (fun _ => (meets_leafOf s _ _ _ _).bind fun _ _ => .ite (fun _ => trivial) fun _ => trivial) fun _ => trivial

theorem meets_translateBytes (s : State) (kind : Acc) (ea : Word) (i n : Nat) : (s.translateBytes kind ea i n).Meets s.cfg fun _ => True := by
  induction n generalizing i with
  | zero => trivial
  | succ n ih =>
    exact ((meets_translateAs s _ _ _).reportAt ea).bind fun _ _ => (meets_pmaCheck _ _ _ _).bind fun _ _ => (ih _).bind fun _ _ => trivial

theorem meets_dataPath (s : State) (auth : Cap) (ea : Word) (n : Nat) (kind : Acc) (al : Align) :
    (s.dataPath auth ea n kind al).Meets s.cfg fun _ => True :=
  (meets_bpCheck s kind ea).bind fun _ _ => (meets_checkData s auth ea n kind).bind fun _ _ => (meets_alignCheck _ ea n kind al).bind fun _ _ =>
    .ite (fun _ => (meets_translateAs s _ _ _).bind fun _ _ => trivial) fun _ => (meets_translateBytes s _ _ _ _).bind fun _ _ => trivial

theorem meets_dataAccess (s : State) (auth : Cap) (ea : Word) (n : Nat) (kind : Acc) (al : Align) :
    (s.dataAccess auth ea n kind al).Meets s.cfg fun _ => True :=
  (meets_dataPath s auth ea n kind al).bind fun _ _ => (meets_pmaCheck _ _ _ _).bind fun _ _ => trivial

/-! ## pcc -/

theorem even_of_aligned (s : State) (a : Word) (h : a.toNat % s.minLen = 0) : a.getLsbD 0 = false := by
  rw [getLsbD_zero_eq_false_iff]
  unfold State.minLen at h
  split at h <;> omega

theorem truncX_targetAt (s : State) (a : Word) : truncX s.cfg (s.targetAt a) = s.targetAt a := truncX_heldAddr _ _ _ (truncX_toX s a)

namespace State.Keeps

theorem advance {s t : State} (h : s.Keeps t) (n : Nat) (hn : n % 2 = 0) : s.Keeps (t.advance n) :=
  h.trans ((refl t).setPcc _ (fun hi hd => even_pccAt_add t n hn (hi.pcc_even hd)) fun _ hc => lawful_pccAt t _ hc.pcc)

theorem jumpTo {s t : State} (h : s.Keeps t) (a : Word) (heven : a.getLsbD 0 = false) (hfit : truncX s.cfg a = a) : s.Keeps (t.jumpTo a) :=
  h.trans ((refl t).setPcc _ (fun _ _ => (even_iff _).2 heven) fun _ hc =>
    lawful_withAddr t.cfg t.pcc t.pcc.tag a hc.pcc id (h.cfg ▸ hfit))

theorem wf {s t : State} (h : s.Keeps t) (i : Reg) (v : Word) : s.Keeps (t.wf i v) := h.congr rfl

theorem fsDirty {s t : State} (h : s.Keeps t) : s.Keeps t.fsDirty := h.congr rfl

theorem accrue {s t : State} (h : s.Keeps t) (fl : BitVec 5) : s.Keeps (t.accrue fl) :=
  h.congr (by unfold State.accrue; split <;> rfl)

theorem writeLink {s t : State} (h : s.Keeps t) (rd : Reg) (len : Nat) (capForm : Bool) : s.Keeps (t.writeLink rd len capForm) := by
  unfold State.writeLink
  split
  · exact h.trans ((refl t).wc rd _ fun _ hc => lawful_seal _ _ (lawful_setAddr _ _ _ hc.pcc (truncX_toX t _)))
  · exact h.wx _ _

theorem spAdd {s t : State} (h : s.Keeps t) (rd : Reg) (off : Word) : s.Keeps (t.spAdd rd off) := by
  unfold State.spAdd
  split
  · exact h.trans ((refl t).wc rd _ fun _ hc => lawful_setAddr _ _ _ (hc.rc _) (truncX_truncX _ _))
  · exact h.wx _ _

end State.Keeps

theorem lawful_incAddr (p : Params) (k : Cap) (off : Word) (h : k.lawful p = true) : (k.incAddr p off).lawful p = true :=
  lawful_setAddr p k _ h (truncX_truncX p _)

theorem meets_pcrelCheck (s : State) : s.pcrelCheck.Meets s.cfg fun _ => True := (Res.Meets.check _ _ _).mono fun _ _ => trivial

theorem meets_checkTarget (s : State) (a : Word) : (s.checkTarget a).Meets s.cfg fun _ => a.getLsbD 0 = false :=
  .of_eq_ok ((Res.Meets.check _ _ _).bind fun _ _ => (Res.Meets.check _ _ _).mono fun _ _ => trivial) fun _ h =>
    even_of_aligned s a ((checkTarget_eq_ok s a _).1 h).1

theorem meets_checkJumpCap (s : State) (k : Cap) (off : Word) :
    (s.checkJumpCap k off).Meets s.cfg fun _ => (s.indirectTarget k.addr off).getLsbD 0 = false :=
  .of_eq_ok ((Res.Meets.check _ _ _).bind fun _ _ => .ite (fun _ => trivial) fun _ => .ite (fun _ => trivial) fun _ => .ite (fun _ => trivial) fun _ =>
    .ite (fun _ => trivial) fun _ => trivial) fun _ h => even_of_aligned s _ ((checkJumpCap_eq_ok s k off _).1 h).1

/-! ## Integer and floating-point data -/

theorem meets_loadInt (s : State) (rs1 : Reg) (off : Word) (n : Nat) : (s.loadInt rs1 off n).Meets s.cfg fun _ => True :=
  (meets_dataAccess s _ _ n _ _).bind fun _ _ => trivial

theorem meets_storeInt (s : State) (rs1 : Reg) (off : Word) (n : Nat) (v : Word) : (s.storeInt rs1 off n v).Meets s.cfg s.Keeps :=
  (meets_dataAccess s _ _ n _ _).bind fun _ _ => (State.Keeps.refl s).storeBytes _ _

theorem meets_intLoad (s : State) (rd rs1 : Reg) (off : Word) (n : Nat) (sg : Bool) (len : Nat) (hlen : len % 2 = 0) :
    (s.intLoad rd rs1 off n sg len).Meets s.cfg s.Keeps :=
  (meets_loadInt s rs1 off n).bind fun _ _ => ((State.Keeps.refl s).wx _ _).advance len hlen

theorem meets_intStore (s : State) (rs2 rs1 : Reg) (off : Word) (n len : Nat) (hlen : len % 2 = 0) :
    (s.intStore rs2 rs1 off n len).Meets s.cfg s.Keeps :=
  (meets_storeInt s rs1 off n _).bind fun _ h => h.advance len hlen

theorem meets_fpLoad (s : State) (frd rs1 : Reg) (off : Word) (n len : Nat) (hlen : len % 2 = 0) :
    (s.fpLoad frd rs1 off n len).Meets s.cfg s.Keeps :=
  (Res.Meets.check _ _ _).bind fun _ _ => (meets_loadInt s rs1 off n).bind fun _ _ => ((State.Keeps.refl s).wf _ _).fsDirty.advance len hlen

theorem meets_fpStore (s : State) (fs2 rs1 : Reg) (off : Word) (n len : Nat) (hlen : len % 2 = 0) :
    (s.fpStore fs2 rs1 off n len).Meets s.cfg s.Keeps :=
  (Res.Meets.check _ _ _).bind fun _ _ => (meets_storeInt s rs1 off n _).bind fun _ h => h.advance len hlen

theorem meets_compute (s : State) (rd : Reg) (v : Word) (len : Nat) (hlen : len % 2 = 0) : (s.compute rd v len).Meets s.cfg s.Keeps :=
  ((State.Keeps.refl s).wx rd v).advance len hlen

theorem meets_fpCompute (s : State) (i : FpInstr) : (s.fpCompute i).Meets s.cfg s.Keeps := by
  refine (Res.Meets.check _ _ _).bind fun _ _ => ?_
  split
  · trivial
  · refine .ite (fun _ => ?_) fun _ => ?_
    · exact (((State.Keeps.refl s).wx _ _).accrue _).advance 4 rfl
    · exact (((State.Keeps.refl s).wf _ _).fsDirty.accrue _).advance 4 rfl

end Sys2Proof.Machine
end

section
/-!
PROOFS. What keeps the invariants: capability loads and stores, atomics, jumps, cache blocks, system instructions.
-/
namespace Sys2Proof.Machine
open Sys2Proof

/-! ## Capabilities read from memory (20_memory R99, R100) -/

theorem leNat_lt (bs : List Byte) : leNat bs < 256 ^ bs.length := by
  induction bs with
  | nil => simp [leNat]
  | cons b r ih =>
    have := b.isLt
    rw [leNat, List.length_cons, pow_succ]
    omega

/-- The bytes of a granule make fields that fit. -/
theorem truncX_ofNat_leNat (p : Params) (bs : List Byte) (h : bs.length ≤ p.capBytes / 2) :
    truncX p (BitVec.ofNat 64 (leNat bs)) = BitVec.ofNat 64 (leNat bs) := by
  cases hx : p.xlenmax64
  · have hlen : bs.length ≤ 4 := by simpa [Params.capBytes, hx] using h
    have hlt : leNat bs < 2 ^ 32 := (leNat_lt bs).trans_le (Nat.pow_le_pow_right (n := 256) (by decide) hlen)
    refine (truncX_eq_self_iff _ _).2 fun _ j hj => ?_
    rw [BitVec.getLsbD_ofNat, Nat.testBit_lt_two_pow (hlt.trans_le (Nat.pow_le_pow_right (by decide) hj)), Bool.and_false]
  · exact truncX_of_xlenmax64 _ _ hx

theorem capBytes_eq (p : Params) : p.capBytes = 2 * (p.capBytes / 2) := by
  unfold Params.capBytes; split <;> rfl

theorem bytesToCap_fits (p : Params) (t : Bool) (bs : List Byte) (h : bs.length = p.capBytes) :
    truncX p (bytesToCap p t bs).md = (bytesToCap p t bs).md ∧ truncX p (bytesToCap p t bs).addr = (bytesToCap p t bs).addr := by
  have := capBytes_eq p
  exact ⟨truncX_ofNat_leNat p _ (by rw [List.length_drop]; omega), truncX_ofNat_leNat p _ (by rw [List.length_take]; omega)⟩

/-- Reading an aligned granule of memory that holds lawful capabilities gives one. -/
theorem lawful_readCap (s : State) (a : Nat) (ha : a % s.cfg.capBytes = 0) (h : s.mem.lawful s.cfg) : (s.readCap a).lawful s.cfg = true := by
  by_cases htag : (s.readCap a).tag = true
  · obtain ⟨hmem, hmain⟩ : s.mem.tagOf (a / s.cfg.capBytes) = true ∧ Params.isTaggable s.cfg a = true := Bool.and_eq_true_iff.1 htag
    have granule := h _ hmem
    rw [Memory.granule, Nat.div_mul_cancel (Nat.dvd_of_mod_eq_zero ha)] at granule
    rwa [readCap_of_isTaggable s a hmain, hmem]
  · have fits := bytesToCap_fits s.cfg (s.mem.tagOf (a / s.cfg.capBytes) && Params.isTaggable s.cfg a) (s.loadList (span a s.cfg.capBytes))
      (by rw [State.loadList, List.length_map, span_length])
    exact (lawful_iff _ _).2 ⟨fits.1, fits.2, fun e => absurd e htag⟩

theorem lawful_loadedCap (s : State) (auth : Cap) (a : Nat) (ha : a % s.cfg.capBytes = 0) (h : s.mem.lawful s.cfg) :
    (s.loadedCap auth a).lawful s.cfg = true := lawful_keepTag _ _ _ (lawful_readCap s a ha h)

/-! ## Aligned granules -/

theorem firstByte_span (a n : Nat) (hn : 0 < n) : firstByte (span a n) = a := by
  obtain ⟨m, rfl⟩ := Nat.exists_eq_succ_of_ne_zero (Nat.pos_iff_ne_zero.1 hn)
  simp [span, firstByte, List.range_succ_eq_map]

theorem capBytes_dvd_page (p : Params) : p.capBytes ∣ 4096 := by unfold Params.capBytes; split <;> decide

/-- Translation keeps a granule aligned. -/
theorem translate_aligned (s : State) (kind : Acc) (ea : Word) (x : Phys) (h : s.translate kind ea = .ok x) (ha : ea.toNat % s.cfg.capBytes = 0) :
    x.pa % s.cfg.capBytes = 0 := by
  have page := translateAs_page s _ kind ea x h
  have hdvd := capBytes_dvd_page s.cfg
  rw [← Nat.mod_mod_of_dvd x.pa hdvd, page, Nat.mod_mod_of_dvd _ hdvd, ha]

/-- The bytes of a path are one aligned granule. -/
def Path.Aligned (p : Params) (x : Path) : Prop := ∃ a, x.bytes = span a p.capBytes ∧ a % p.capBytes = 0

theorem Path.Aligned.firstByte {p : Params} {x : Path} (h : x.Aligned p) : Machine.firstByte x.bytes % p.capBytes = 0 := by
  obtain ⟨a, e, ha⟩ := h
  rwa [e, firstByte_span _ _ (capBytes_pos p)]

/-- The path of a capability-wide access: a granule, at an aligned effective address. -/
theorem meets_capPath (s : State) (auth : Cap) (ea : Word) (kind : Acc) :
    (s.dataPath auth ea s.cfg.capBytes kind .strict).Meets s.cfg fun x => ea.toNat % s.cfg.capBytes = 0 ∧ x.Aligned s.cfg := by
  refine (meets_dataPath s auth ea _ kind .strict).of_eq_ok fun x h => ?_
  obtain ⟨-, ⟨ha, y, hy, rfl⟩ | ⟨-, hal, -⟩⟩ := (dataPath_eq_ok ..).1 h
  · exact ⟨ha, _, rfl, translate_aligned s kind ea y hy ha⟩
  · exact nomatch hal

theorem meets_capAccess (s : State) (auth : Cap) (ea : Word) (kind : Acc) :
    (s.dataAccess auth ea s.cfg.capBytes kind .strict).Meets s.cfg fun as => firstByte as % s.cfg.capBytes = 0 :=
  (meets_capPath s auth ea kind).bind fun _ hx => (meets_pmaCheck s.cfg _ _ _).bind fun _ _ => hx.2.firstByte

/-! ## Capability loads and stores -/

theorem meets_capRead (s : State) (auth : Cap) (ea : Word) :
    (s.capRead auth ea).Meets s.cfg fun x => s.CapInv → x.2.lawful s.cfg = true :=
  (meets_capAccess s auth ea .load).bind fun _ ha hc => lawful_loadedCap s auth _ ha hc.mem

theorem meets_capLoad (s : State) (rd rs1 : Reg) (off : Word) (len : Nat) (hlen : len % 2 = 0) :
    (s.capLoad rd rs1 off len).Meets s.cfg s.Keeps :=
  (meets_capRead s _ _).bind fun _ hk => ((State.Keeps.refl s).wc rd _ fun _ hc => hk hc).advance len hlen

/-- A capability-wide write to be made: an aligned granule, and a lawful value where the one to be stored is. -/
def CapWrite.Lawful (s : State) (v : Cap) (w : CapWrite) : Prop :=
  w.pa % s.cfg.capBytes = 0 ∧ (v.lawful s.cfg = true → w.val.lawful s.cfg = true)

theorem meets_cwCd (s : State) (auth : Cap) (ea pte : Word) (v : Cap) :
    (s.cwCd auth ea pte v).Meets s.cfg fun x => v.lawful s.cfg = true → x.1.lawful s.cfg = true :=
  .ite (fun _ => .ite (fun _ => trivial) fun _ => lawful_keepTag _ _ _) fun _ => .ite (fun _ => .ite (fun _ => id) fun _ => trivial) fun _ => id

theorem meets_cwRule (s : State) (auth : Cap) (ea : Word) (leaf : Option (Nat × Word)) (v : Cap) :
    (s.cwRule auth ea leaf v).Meets s.cfg fun x => v.lawful s.cfg = true → x.1.lawful s.cfg = true := by
  cases leaf with
  | none => exact id
  | some x => exact .ite (fun _ => (meets_cwCd s auth ea x.2 v).bind fun _ h => h) fun _ => id

theorem meets_currentPath (s : State) (auth : Cap) (ea : Word) (v : Cap) (kind : Acc) (x : Path) (ha : ea.toNat % s.cfg.capBytes = 0)
    (hx : x.Aligned s.cfg) : (s.currentPath auth ea v kind x).Meets s.cfg fun y => y.Aligned s.cfg :=
  .ite (fun _ => ((meets_translateAs s.uncached _ kind ea).of_eq_ok fun y hy => translate_aligned s.uncached kind ea y hy ha).bind
    fun y hy => ⟨y.pa, rfl, hy⟩) fun _ => hx

theorem meets_capWriteChecked (s : State) (auth : Cap) (ea : Word) (v : Cap) (kind : Acc) :
    (s.capWriteChecked auth ea v kind).Meets s.cfg (CapWrite.Lawful s v) :=
  (meets_capPath s auth ea kind).bind fun y hy => (meets_currentPath s auth ea _ kind y hy.1 hy.2).bind fun _ hx =>
    (meets_cwRule s auth ea _ _).bind fun _ hv => (meets_pmaCheck _ _ _ _).bind fun _ _ =>
      ⟨hx.firstByte, fun h => hv (lawful_keepTag _ _ _ h)⟩

theorem meets_tagRule (s : State) (ea : Word) (v : Cap) (w : CapWrite) (hw : w.Lawful s v) :
    (s.tagRule ea w).Meets s.cfg (CapWrite.Lawful s v) :=
  .ite (fun _ => .ite (fun _ => trivial) fun _ => ⟨hw.1, fun h => lawful_keepTag _ _ _ (hw.2 h)⟩) fun _ => hw

theorem meets_capWritePath (s : State) (auth : Cap) (ea : Word) (v : Cap) (kind : Acc) :
    (s.capWritePath auth ea v kind).Meets s.cfg (CapWrite.Lawful s v) :=
  (meets_capWriteChecked s auth ea v kind).bind fun w hw => meets_tagRule s ea v w hw

theorem State.Keeps.putCap {s : State} {v : Cap} {w : CapWrite} (hw : w.Lawful s v) (hv : s.CapInv → v.lawful s.cfg = true) :
    s.Keeps (s.putCap w) :=
  ((State.Keeps.refl s).setCd w.cd).writeCap w.pa w.val hw.1 fun _ hc => hw.2 (hv hc)

theorem meets_capStore (s : State) (rs2 rs1 : Reg) (off : Word) (len : Nat) (hlen : len % 2 = 0) :
    (s.capStore rs2 rs1 off len).Meets s.cfg s.Keeps :=
  (meets_capWritePath s _ _ _ _).bind fun _ hw => (State.Keeps.putCap hw (·.rc rs2)).advance len hlen

theorem meets_cheriOk (s : State) : s.cheriOk.Meets s.cfg fun _ => True := (Res.Meets.check _ _ _).mono fun _ _ => trivial

/-! ## Atomics -/

theorem meets_amo (s : State) (op : AmoOp) (n : Nat) (rd rs1 rs2 : Reg) : (s.amo op n rd rs1 rs2).Meets s.cfg s.Keeps :=
  (meets_dataAccess s _ _ n _ _).bind fun _ _ => (((State.Keeps.refl s).storeBytes _ _).wx _ _).advance 4 rfl

theorem State.Keeps.resv {s t : State} (h : s.Keeps t) (r : Option (Nat × Nat)) : s.Keeps { t with resv := r } := h.congr rfl

theorem meets_lr (s : State) (n : Nat) (rd rs1 : Reg) : (s.lr n rd rs1).Meets s.cfg s.Keeps :=
  (meets_dataAccess s _ _ n _ _).bind fun _ _ => (((State.Keeps.refl s).resv _).wx _ _).advance 4 rfl

theorem meets_lrCap (s : State) (rd rs1 : Reg) : (s.lrCap rd rs1).Meets s.cfg s.Keeps :=
  (meets_capRead s _ _).bind fun _ hk => (((State.Keeps.refl s).resv _).wc rd _ fun _ hc => hk hc).advance 4 rfl

theorem meets_sc (s : State) (n : Nat) (rd rs1 rs2 : Reg) : (s.sc n rd rs1 rs2).Meets s.cfg s.Keeps :=
  (meets_dataAccess s _ _ n _ _).bind fun _ _ => .ite (fun _ => ((((State.Keeps.refl s).storeBytes _ _).resv none).wx rd 0).advance 4 rfl)
    fun _ => (((State.Keeps.refl s).resv none).wx rd 1).advance 4 rfl

theorem meets_scCap (s : State) (rd rs1 rs2 : Reg) : (s.scCap rd rs1 rs2).Meets s.cfg s.Keeps :=
  (meets_capWriteChecked s _ _ _ _).bind fun c hc => .ite
    (fun _ => (meets_tagRule s _ _ c hc).bind fun _ hw => (((State.Keeps.putCap hw (·.rc rs2)).resv none).wx rd 0).advance 4 rfl)
    fun _ => ((((State.Keeps.refl s).setCd c.cd).resv none).wx rd 1).advance 4 rfl

/-- The old value of AMOSWAP.C is read after the update of CD. -/
theorem meets_amoswapCap (s : State) (rd rs1 rs2 : Reg) : (s.amoswapCap rd rs1 rs2).Meets s.cfg s.Keeps :=
  (meets_capWritePath s _ _ _ _).bind fun w hw => by
    have marked := (State.Keeps.refl s).setCd w.cd
    refine ((State.Keeps.putCap hw (·.rc rs2)).wc rd _ fun hi hc => ?_).advance 4 rfl
    exact setCd_cfg s w.cd ▸ lawful_loadedCap (s.setCd w.cd) _ w.pa ((setCd_cfg s w.cd).symm ▸ hw.1) (marked.caps hi hc).mem

/-- A store-conditional's outcome is that of its value from the state without the reservation. -/
theorem keeps_of_scOut {s t : State} {r : Res State} (h : r.Meets s.cfg s.Keeps) (e : s.scOut r = .next t) : s.Keeps t := by
  have start := (State.Keeps.refl s).resv none
  have back : ({ s with resv := none } : State).Keeps s := (State.Keeps.refl _).congr rfl
  exact start.trans (keeps_of_run (h.mono fun _ hk => back.trans hk) e)

/-! ## Jumps -/

theorem meets_jumpDirect (s : State) (rd : Reg) (off : Word) (len : Nat) : (s.jumpDirect rd off len).Meets s.cfg s.Keeps :=
  (meets_pcrelCheck s).bind fun _ _ => (meets_checkTarget s _).bind fun _ heven =>
    ((State.Keeps.refl s).writeLink rd len _).jumpTo _ heven (truncX_targetAt s _)

theorem lawful_jumpedPcc (s : State) (k : Cap) (off : Word) (h : k.lawful s.cfg = true) : (s.jumpedPcc k off).lawful s.cfg = true :=
  lawful_withAddr s.cfg (k.unseal s.cfg) _ _ (lawful_unseal _ _ h) id (truncX_targetAt s _)

theorem meets_jumpCap (s : State) (rd rs1 : Reg) (off : Word) (len : Nat) : (s.jumpCap rd rs1 off len).Meets s.cfg s.Keeps :=
  (meets_pcrelCheck s).bind fun _ _ => (meets_checkJumpCap s _ off).bind fun _ heven =>
    ((State.Keeps.refl s).writeLink rd len true).setPcc _ (fun _ _ => (even_iff _).2 heven) fun _ hc => lawful_jumpedPcc s _ off (hc.rc rs1)

theorem meets_jumpInt (s : State) (rd rs1 : Reg) (off : Word) (len : Nat) : (s.jumpInt rd rs1 off len).Meets s.cfg s.Keeps :=
  (meets_pcrelCheck s).bind fun _ _ => (meets_checkTarget s _).bind fun _ heven =>
    ((State.Keeps.refl s).writeLink rd len false).jumpTo _ heven (truncX_targetAt s _)

theorem meets_jumpIndirect (s : State) (rd rs1 : Reg) (off : Word) (len : Nat) (capForm : Bool) :
    (s.jumpIndirect rd rs1 off len capForm).Meets s.cfg s.Keeps :=
  .ite (fun _ => meets_jumpCap s rd rs1 off len) fun _ => meets_jumpInt s rd rs1 off len

theorem meets_branch (s : State) (c : Cond) (a b off : Word) (len : Nat) (hlen : len % 2 = 0) : (s.branch c a b off len).Meets s.cfg s.Keeps :=
  (meets_pcrelCheck s).bind fun _ _ => .ite
    (fun _ => (meets_checkTarget s _).bind fun _ heven => (State.Keeps.refl s).jumpTo _ heven (truncX_targetAt s _))
    fun _ => (State.Keeps.refl s).advance len hlen

theorem meets_tableFetch (s : State) (index : BitVec 8) : (s.tableFetch index).Meets s.cfg fun _ => True :=
  .ite (fun _ => trivial) fun _ => .ite (fun _ => trivial) fun _ => .ite (fun _ => trivial) fun _ => .ite (fun _ => trivial) fun _ =>
    (meets_translateAs s _ _ _).bind fun _ _ => (meets_pmaCheck _ _ _ _).bind fun _ _ => trivial

theorem meets_tableJump (s : State) (index : BitVec 8) (link : Bool) : (s.tableJump index link).Meets s.cfg s.Keeps :=
  (meets_pcrelCheck s).bind fun _ _ => (meets_tableFetch s index).bind fun _ _ => (meets_checkTarget s _).bind fun _ heven => by
    refine State.Keeps.jumpTo ?_ _ heven (truncX_targetAt s _)
    split
    · exact (State.Keeps.refl s).writeLink _ _ _
    · exact .refl s

theorem meets_auipc (s : State) (rd : Reg) (imm : BitVec 20) : (s.pcrelCheck.bind fun _ =>
    .ok ((if s.capMode then s.wc rd (s.pcc.setAddr s.cfg (s.toX (s.pc + upperImm imm))) else s.wx rd (s.pc + upperImm imm)).advance 4)).Meets
      s.cfg s.Keeps :=
  (meets_pcrelCheck s).bind fun _ _ => by
    refine State.Keeps.advance ?_ 4 rfl
    split
    · exact (State.Keeps.refl s).wc rd _ fun _ hc => lawful_setAddr _ _ _ hc.pcc (truncX_toX s _)
    · exact (State.Keeps.refl s).wx _ _

/-! ## Capability inspection and manipulation -/

theorem meets_inspect (s : State) (rd : Reg) (v : Word) : (s.inspect rd v).Meets s.cfg s.Keeps :=
  (meets_cheriOk s).bind fun _ _ => ((State.Keeps.refl s).wx rd v).advance 4 rfl

theorem meets_capResult (s : State) (rd : Reg) (k : Cap) (hk : s.CapInv → k.lawful s.cfg = true) : (s.capResult rd k).Meets s.cfg s.Keeps :=
  (meets_cheriOk s).bind fun _ _ => ((State.Keeps.refl s).wc rd k fun _ hc => hk hc).advance 4 rfl

theorem lawful_acpermCap (p : Params) (k : Cap) (mask : Word) (h : k.lawful p = true) : (acpermCap p k mask).lawful p = true :=
  lawful_keepTag _ _ _ (lawful_withPerms p k _ _ h (sdp_and_lt _ _ _))

theorem lawful_cbldCap (p : Params) (a k : Cap) (h : k.lawful p = true) : (cbldCap p a k).lawful p = true :=
  lawful_of_derivable p _ (lawful_md p k h) (lawful_addr p k h) fun ht => by
    simp only [cbldCap, Bool.and_eq_true] at ht
    exact ht.1.2

/-- The mode switch writes the M bit, which the instruction asks for. -/
theorem meets_switchMode (s : State) (len : Nat) (hlen : len % 2 = 0) (hmode : s.cfg.mode = true) : (s.switchMode len).Meets s.cfg s.Keeps := by
  refine (meets_cheriOk s).bind fun _ _ => .ite (fun _ => ?debug) fun _ => ?outside
  case debug =>
    have toggled : s.Keeps { s with dinfcM := !s.dinfcM } := (State.Keeps.refl s).congr rfl
    exact (Res.Meets.check _ _ _).bind fun _ _ => toggled.advance len hlen
  case outside =>
    have toggled := (State.Keeps.refl s).setPcc { s.pcc with md := putBit s.pcc.md (mBit s.cfg) (!s.pcc.m s.cfg) } (fun hi hd => hi.pcc_even hd)
      fun _ hc => lawful_putMode _ _ _ hc.pcc hmode
    exact toggled.advance len hlen

theorem meets_shadd (s : State) (n : Nat) (uw : Bool) (rd rs1 rs2 : Reg) : (s.shadd n uw rd rs1 rs2).Meets s.cfg s.Keeps := by
  change s.Keeps (State.advance (if s.capMode then _ else _) 4)
  refine State.Keeps.advance ?_ 4 rfl
  split
  · exact (State.Keeps.refl s).wc rd _ fun _ hc => lawful_incAddr _ _ _ (hc.rc rs2)
  · exact (State.Keeps.refl s).wx _ _

theorem State.Keeps.moveTo {s t : State} (h : s.Keeps t) (rd : Reg) (rs : Reg) : s.Keeps (t.moveTo rd s rs) := by
  unfold State.moveTo
  split
  · exact h.wc rd _ fun _ hc => hc.rc rs
  · exact h.wx _ _

/-! ## Cache blocks -/

theorem meets_blockPages (s : State) (base : Word) (i n : Nat) : (s.blockPages base i n).Meets s.cfg fun _ => True := by
  induction n generalizing i with
  | zero => trivial
  | succ n ih => exact (meets_translateAs s _ _ _).bind fun _ _ => (ih _).bind fun _ _ => trivial

theorem meets_blockAccess (s : State) (ea : Word) : (s.blockAccess ea).Meets s.cfg fun _ => True := by
  refine Res.Meets.bind (Q := fun _ => True) (Res.Meets.reportAt ?_ ea) fun _ _ => (meets_pmaCheck _ _ _ _).bind fun _ _ => trivial
  exact .ite (fun _ => (meets_translateAs s _ _ _).bind fun _ _ => trivial) fun _ => meets_blockPages s _ _ _

theorem meets_cboManage (s : State) (rs1 : Reg) : (s.cboManage rs1).Meets s.cfg s.Keeps :=
  (Res.Meets.check _ _ _).bind fun _ _ => (meets_bpCheck s _ _).bind fun _ _ => .ite (fun _ => trivial) fun _ => .ite (fun _ => trivial) fun _ =>
    .ite (fun _ => trivial) fun _ => .ite (fun _ => trivial) fun _ => (meets_blockAccess s _).bind fun _ _ => (State.Keeps.refl s).advance 4 rfl

theorem meets_cboInval (s : State) (rs1 : Reg) : (s.cboInval rs1).Meets s.cfg s.Keeps :=
  (Res.Meets.check _ _ _).bind fun _ _ => (Res.Meets.check _ _ _).bind fun _ _ => (meets_bpCheck s _ _).bind fun _ _ =>
    (meets_checkData s _ _ _ _).bind fun _ _ => (meets_blockAccess s _).bind fun _ _ => (State.Keeps.refl s).advance 4 rfl

theorem meets_cboZero (s : State) (rs1 : Reg) : (s.cboZero rs1).Meets s.cfg s.Keeps :=
  (Res.Meets.check _ _ _).bind fun _ _ => (meets_bpCheck s _ _).bind fun _ _ => (meets_checkData s _ _ _ _).bind fun _ _ =>
    (meets_blockAccess s _).bind fun _ _ => ((State.Keeps.refl s).storeBytes _ _).advance 4 rfl

/-! ## System instructions -/

theorem meets_mret (s : State) : s.mret.Meets s.cfg s.Keeps :=
  (Res.Meets.check _ _ _).bind fun _ _ => (Res.Meets.check _ _ _).bind fun _ _ => State.Keeps.returnM s

theorem meets_sret (s : State) : s.sret.Meets s.cfg s.Keeps :=
  (Res.Meets.check _ _ _).bind fun _ _ => (Res.Meets.check _ _ _).bind fun _ _ => State.Keeps.returnS s

theorem meets_dret (s : State) : s.dret.Meets s.cfg s.Keeps := (Res.Meets.check _ _ _).bind fun _ _ => State.Keeps.leaveDebug s

theorem meets_ebreak (s : State) : s.ebreak.Meets s.cfg s.Keeps :=
  .ite (fun _ => (State.Keeps.refl s).congr rfl) fun _ => .ite
    (fun h => State.Keeps.enterDebug s 1 (by simp only [State.ebreakToDebug, Bool.and_eq_true] at h; exact h.1)) fun _ => trivial

theorem meets_wfi (s : State) : s.wfi.Meets s.cfg s.Keeps := (Res.Meets.check _ _ _).bind fun _ _ => (State.Keeps.refl s).advance 4 rfl

theorem meets_sfence (s : State) (rs1 rs2 : Reg) : (s.sfence rs1 rs2).Meets s.cfg s.Keeps :=
  (Res.Meets.check _ _ _).bind fun _ _ => ((State.Keeps.refl s).congr (u := s.flush rs1 rs2) rfl).advance 4 rfl

end Sys2Proof.Machine
end

section
/-!
PROOFS. What keeps the invariants: the CSRs, and the commands of the debugger.
-/
namespace Sys2Proof.Machine
open Sys2Proof

/-! ## Capability CSRs -/

theorem lawful_readCapCsr (s : State) (c : CapCsr) (h : s.CapInv) : (s.readCapCsr c).lawful s.cfg = true := by
  cases c with
  | mepcc => exact lawful_readEpcc s _ (h.csr .mepcc)
  | sepcc => exact lawful_readEpcc s _ (h.csr .sepcc)
  | dpcc => exact lawful_readDpcc s (h.csr .dpcc)
  | mtvecc => exact h.csr .mtvecc
  | mscratchc => exact h.csr .mscratchc
  | stvecc => exact h.csr .stvecc
  | sscratchc => exact h.csr .sscratchc
  | jvtc => exact h.csr .jvtc
  | dscratch0c => exact h.csr .dscratch0c
  | dscratch1c => exact h.csr .dscratch1c
  | dddc => exact h.csr .dddc
  | mtdc => exact h.csr .mtdc
  | stdc => exact h.csr .stdc
  | ddc => exact h.csr .ddc
  | dinfc => exact h.csr .dinfc

theorem truncX_small (p : Params) (v : Word) (h : v.toNat < 2 ^ 32) : truncX p v = v := by
  refine (truncX_eq_self_iff _ _).2 fun _ j hj => ?_
  rw [BitVec.getLsbD, Nat.testBit_lt_two_pow (h.trans_le (Nat.pow_le_pow_right (by decide) hj))]

/-- A legalised address fits where the one written and the stored one do. -/
theorem truncX_legalAddr (s : State) (c : CapCsr) (a : Word) (ha : truncX s.cfg a = a) :
    truncX s.cfg (s.legalAddr c a) = s.legalAddr c a := by
  have written : truncX s.cfg (if c.isTvec then legalTvec (s.rawCapCsr c).addr a else if c.isEpc then putBit a 0 false
      else if c = .jvtc then a &&& ~~~63#64 else a) = if c.isTvec then legalTvec (s.rawCapCsr c).addr a
      else if c.isEpc then putBit a 0 false else if c = .jvtc then a &&& ~~~63#64 else a := by
    split
    · unfold legalTvec
      split
      · exact truncX_putMask _ _ _ _ ha (.inl (truncX_small _ _ (by decide)))
      · exact ha
    · split
      · exact truncX_putBit _ _ _ _ ha (by unfold Params.xlenmax; split <;> decide)
      · split
        · exact truncX_and _ _ _ ha
        · exact ha
  unfold State.legalAddr
  simp only
  split
  · exact truncX_heldAddr _ _ _ written
  · exact written

theorem legalAddr_even (s : State) (c : CapCsr) (a : Word) (hc : c.isEpc = true) : (s.legalAddr c a).getLsbD 0 = false := by
  have clear : (putBit a 0 false).getLsbD 0 = false := by rw [getLsbD_putBit _ _ _ _ (by decide)]; rfl
  cases c with
  | mepcc | sepcc => exact (heldAddr_low _ _ _ 0 (by decide)).trans clear
  | _ => exact absurd hc (by decide)

theorem xlenValue_addr (s : State) (c : CapCsr) (v : Word) : (s.xlenValue c v).addr = s.legalAddr c (s.toX v) := by
  unfold State.xlenValue
  simp only
  split <;> rfl

theorem clenValue_addr (s : State) (c : CapCsr) (k : Cap) :
    (s.clenValue c k).addr = s.legalAddr c (if c.keepsReserved then k else k.dropReserved s.cfg).addr := by
  unfold State.clenValue
  simp only
  split
  · rfl
  · exact movedTo_addr _ _ _

theorem lawful_tvecValue (p : Params) (k : Cap) (v : Word) (h : k.lawful p = true) (hv : truncX p v = v) : (tvecValue p k v).lawful p = true :=
  lawful_keepTag _ _ _ (lawful_setAddr p k v h hv)

theorem lawful_xlenValue (s : State) (c : CapCsr) (v : Word) (h : s.CapInv) : (s.xlenValue c v).lawful s.cfg = true := by
  have fits := truncX_legalAddr s c _ (truncX_toX s v)
  unfold State.xlenValue
  simp only
  split
  · exact lawful_tvecValue _ _ _ (h.csr c) fits
  · exact lawful_setAddr _ _ _ (h.csr c) fits

theorem lawful_clenValue (s : State) (c : CapCsr) (k : Cap) (hk : k.lawful s.cfg = true) : (s.clenValue c k).lawful s.cfg = true := by
  have stored : (if c.keepsReserved then k else k.dropReserved s.cfg).lawful s.cfg = true := by
    split
    · exact hk
    · exact lawful_dropReserved _ _ hk
  have fits := truncX_legalAddr s c _ (lawful_addr _ _ stored)
  unfold State.clenValue
  simp only
  split
  · exact lawful_tvecValue _ _ _ stored fits
  · exact lawful_movedTo _ _ _ stored fits

/-- A value whose address is legal for the register keeps the invariants there. -/
theorem State.Keeps.putLegal {s t : State} (h : s.Keeps t) (c : CapCsr) (k : Cap) (a : Word) (ha : k.addr = t.legalAddr c a)
    (hk : s.Inv → s.CapInv → k.lawful s.cfg = true) : s.Keeps (t.putCapCsr c k) :=
  h.putCapCsr c k (fun _ he => (even_iff _).2 (ha ▸ legalAddr_even t c a he)) (fun _ e => by subst e; exact ha ▸ legalAddr_jvtc t a) hk

/-! ## XLEN-wide CSRs -/

theorem keeps_writeX (s : State) (x : XCsr) (v : Word) : s.Keeps (s.writeX x v) := by
  have start := State.Keeps.refl s
  cases x with
  | tdata1 =>
    refine start.setTrigger _ fun b _ => ?_
    by_cases h6 : bitsOf v (if s.cur64 then 60 else 28) 4 = 6
    · rw [tdata1Write_of_type6 s v b h6]
      cases s.writtenDmode v b with
      | false => rfl
      | true => exact Bool.or_true _
    · rw [tdata1Write_of_otherType s v b h6]
      rfl
  | tdata2 => exact start.setTrigger _ fun _ hb => hb
  | tselect =>
    unfold State.writeX
    simp only
    split
    · exact start.congr rfl
    · exact start
  | mseccfgh | machineInfo | counter | tdata3 | tinfo => exact start
  | _ => exact start.congr rfl

theorem writeX_debug (s : State) (x : XCsr) (v : Word) : (s.writeX x v).debug = s.debug := by
  cases x with
  | tdata1 | tdata2 => exact setTrigger_debug s _
  | tselect => unfold State.writeX; simp only; split <;> rfl
  | _ => rfl

theorem afterRead_guarded (s : State) (x : XCsr) : (s.afterRead x).guarded = s.guarded := by
  unfold State.afterRead
  split <;> rfl

/-! ## The instructions -/

theorem State.Keeps.csrPutX {s t : State} (h : s.Keeps t) (r : CsrRef) (op : CsrOp) (v : Word) : s.Keeps (t.csrPutX r op v) := by
  cases r with
  | wide c | alias_ c => exact h.putLegal c _ _ (xlenValue_addr t c _) fun hi hc => h.cfg ▸ lawful_xlenValue t c _ (h.caps hi hc)
  | plain x => exact h.trans (keeps_writeX t x _)

theorem csrPutX_debug (s : State) (r : CsrRef) (op : CsrOp) (v : Word) : (s.csrPutX r op v).debug = s.debug := by
  cases r with
  | wide c | alias_ c => exact putCapCsr_debug s c _
  | plain x => exact writeX_debug s x _

theorem keeps_csrGet (s : State) (r : CsrRef) (rd : Reg) : s.Keeps (s.csrGet r rd) := by
  have start := State.Keeps.refl s
  cases r with
  | wide c => exact start.wc rd _ fun _ hc => lawful_readCapCsr s c hc
  | alias_ c => exact start.wx rd _
  | plain x => exact (start.wx rd _).congr (afterRead_guarded _ x)

theorem csrGet_debug (s : State) (r : CsrRef) (rd : Reg) : (s.csrGet r rd).debug = s.debug := by
  cases r with
  | wide c => exact wc_debug s rd _
  | alias_ c => exact wx_debug s rd _
  | plain x => exact (congrArg Guarded.debug (afterRead_guarded (s.wx rd _) x)).trans (wx_debug s rd _)

theorem State.Keeps.csrPutW {s t : State} (h : s.Keeps t) (r : CsrRef) (k : Cap) (v : Word) (hk : s.CapInv → k.lawful s.cfg = true) :
    s.Keeps (t.csrPutW r k v) := by
  cases r with
  | wide c =>
    exact h.putLegal c _ _ (clenValue_addr t c k) fun _ hc => h.cfg ▸ lawful_clenValue t c k (h.cfg.symm ▸ hk hc)
  | alias_ c => exact h.csrPutX (.alias_ c) .write v
  | plain x => exact h.csrPutX (.plain x) .write v

theorem csrPutW_debug (s : State) (r : CsrRef) (k : Cap) (v : Word) : (s.csrPutW r k v).debug = s.debug := by
  cases r with
  | wide c => exact putCapCsr_debug s c _
  | alias_ c => exact csrPutX_debug s (.alias_ c) .write v
  | plain x => exact csrPutX_debug s (.plain x) .write v

/-- pcc moves on after an instruction that did not change to or from debug mode. -/
theorem State.Keeps.movedOn {s t : State} (h : s.Keeps t) (hd : t.debug = s.debug) : s.Keeps (t.movedOn s) :=
  h.setPcc _ (fun hi e => even_pccAt_add s 4 rfl (hi.pcc_even (hd ▸ e))) fun _ hc => lawful_pccAt s _ hc.pcc

theorem meets_csrCheck (s : State) (n : BitVec 12) (w : Bool) : (s.csrCheck n w).Meets s.cfg fun _ => True := by
  unfold State.csrCheck
  split
  · trivial
  · exact .ite (fun _ => trivial) fun _ => .ite (fun _ => trivial) fun _ => .ite (fun _ => trivial) fun _ => .ite (fun _ => trivial) fun _ =>
      .ite (fun _ => trivial) fun _ => .ite (fun _ => trivial) fun _ => trivial

theorem meets_csrSwap (s : State) (rd rs1 : Reg) (n : BitVec 12) : (s.csrSwap rd rs1 n).Meets s.cfg s.Keeps := by
  refine (meets_csrCheck s n true).bind fun r _ => ?_
  obtain ⟨t, hread, hdebug, e⟩ : ∃ t, s.Keeps t ∧ t.debug = s.debug ∧ (if rd = 0 then s else s.csrGet r rd) = t := by
    split
    · exact ⟨s, .refl s, rfl, rfl⟩
    · exact ⟨_, keeps_csrGet s r rd, csrGet_debug s r rd, rfl⟩
  rw [e]
  exact (hread.csrPutW r (s.rc rs1) (s.rx rs1) (·.rc rs1)).movedOn ((csrPutW_debug t r _ _).trans hdebug)

theorem meets_csrModify (s : State) (op : CsrOp) (rd : Reg) (v : Word) (n : BitVec 12) (doRead doWrite : Bool) :
    (s.csrModify op rd v n doRead doWrite).Meets s.cfg s.Keeps := by
  refine (meets_csrCheck s n doWrite).bind fun r _ => ?_
  obtain ⟨t, hread, hdebug, e⟩ : ∃ t, s.Keeps t ∧ t.debug = s.debug ∧ (if doRead then s.csrGet r rd else s) = t := by
    split
    · exact ⟨_, keeps_csrGet s r rd, csrGet_debug s r rd, rfl⟩
    · exact ⟨s, .refl s, rfl, rfl⟩
  simp only [e]
  cases doWrite with
  | false => exact hread.movedOn hdebug
  | true => exact (hread.csrPutX r op v).movedOn ((csrPutX_debug t r op v).trans hdebug)

end Sys2Proof.Machine
end

section
/-!
PROOFS. What keeps the invariants: the frames of Zcmp, and the commands of the debugger.
-/
namespace Sys2Proof.Machine
open Sys2Proof

/-! ## Sequences of accesses (48_zcmp_zcmt R323) -/

/-- What a sequence has done keeps the invariants of `s`, also where it stopped; debug-mode entry needs Sdext. -/
def Seq.Keeps (s : State) : Seq → Prop
  | .done t | .trap t _ => s.Keeps t
  | .halt t => s.Keeps t ∧ t.cfg.hasSdext = true

theorem Seq.Keeps.trans {s t : State} {r : Seq} (h : s.Keeps t) (hr : r.Keeps t) : r.Keeps s := by
  cases r with
  | done u => exact State.Keeps.trans h hr
  | trap u e => exact State.Keeps.trans h hr
  | halt u => exact ⟨State.Keeps.trans h hr.1, hr.2⟩

theorem Seq.Keeps.andThen {s : State} {r : Seq} {f : State → Res State} (h : r.Keeps s) (hf : ∀ t, (f t).Meets t.cfg t.Keeps) :
    (r.andThen f).Keeps s := by
  cases r with
  | done t =>
    have next := hf t
    cases e : f t with
    | ok u =>
      rw [e] at next
      simp only [Seq.andThen, e]
      exact State.Keeps.trans h next
    | exc x =>
      simp only [Seq.andThen, e]
      exact h
    | halt =>
      rw [e] at next
      simp only [Seq.andThen, e]
      exact ⟨h, next⟩
  | trap t e => exact h
  | halt t => exact h

/-- An instruction whose sequence keeps the invariants keeps them. -/
theorem keeps_of_seqRun {s t : State} {r : Seq} (h : r.Keeps s) (e : r.run = .next t) : s.Keeps t := by
  cases r with
  | done u => exact Host.Outcome.next.inj e ▸ h
  | trap u x => exact Host.Outcome.next.inj e ▸ State.Keeps.trans h (.takeException u x)
  | halt u => exact Host.Outcome.next.inj e ▸ h.1.trans (.enterDebug u 2 h.2)

theorem meets_pushOne (s : State) (r : Reg) (off : Word) : (s.pushOne r off).Meets s.cfg s.Keeps :=
  .ite (fun _ => (meets_capWritePath s _ _ _ _).bind fun _ hw => State.Keeps.putCap hw (·.rc r)) fun _ => meets_storeInt s _ _ _ _

theorem meets_popOne (s : State) (r : Reg) (off : Word) : (s.popOne r off).Meets s.cfg s.Keeps :=
  .ite (fun _ => (meets_capRead s _ _).bind fun _ hk => (State.Keeps.refl s).wc r _ fun _ hc => hk hc)
    fun _ => (meets_loadInt s _ _ _).bind fun _ _ => (State.Keeps.refl s).wx r _

theorem keeps_pushAll (rs : List Reg) (off : Word) (s : State) : (pushAll rs off s).Keeps s := by
  induction rs generalizing off s with
  | nil => exact State.Keeps.refl s
  | cons r rs ih =>
    have first := meets_pushOne s r (off - BitVec.ofNat 64 s.slot)
    unfold pushAll
    revert first
    cases s.pushOne r (off - BitVec.ofNat 64 s.slot) with
    | ok t => exact fun ht => (ih _ t).trans ht
    | exc e => exact fun _ => State.Keeps.refl s
    | halt => exact fun hd => ⟨State.Keeps.refl s, hd⟩

theorem keeps_popAll (rs : List Reg) (off : Word) (s : State) : (popAll rs off s).Keeps s := by
  induction rs generalizing off s with
  | nil => exact State.Keeps.refl s
  | cons r rs ih =>
    have first := meets_popOne s r (off - BitVec.ofNat 64 s.slot)
    unfold popAll
    revert first
    cases s.popOne r (off - BitVec.ofNat 64 s.slot) with
    | ok t => exact fun ht => (ih _ t).trans ht
    | exc e => exact fun _ => State.Keeps.refl s
    | halt => exact fun hd => ⟨State.Keeps.refl s, hd⟩

theorem meets_popReturn (s : State) (l : BitVec 4) (spimm : BitVec 2) (zero : Bool) : (s.popReturn l spimm zero).Meets s.cfg s.Keeps := by
  have zeroed : s.Keeps (if zero then s.wx 10 0 else s) := by
    split
    · exact (State.Keeps.refl s).wx 10 0
    · exact .refl s
  exact .ite (fun _ => (meets_checkJumpCap s _ 0).bind fun _ heven => (zeroed.spAdd _ _).setPcc _ (fun _ _ => (even_iff _).2 heven)
      fun _ hc => lawful_jumpedPcc s _ 0 (hc.rc 1))
    fun _ => (meets_checkTarget s _).bind fun _ heven => (zeroed.spAdd _ _).jumpTo _ heven (truncX_targetAt s _)

/-- The stack pointer is moved past the frame. -/
theorem meets_spMoved (s : State) (adj : Word) : (Res.ok ((s.spAdd spReg adj).advance 2)).Meets s.cfg s.Keeps :=
  ((State.Keeps.refl s).spAdd _ _).advance 2 rfl

/-- A return from a frame, after its check of pcc. -/
theorem keeps_popRet (s : State) (l : BitVec 4) (spimm : BitVec 2) (zero : Bool) : Seq.Keeps s (match s.pcrelCheck with
    | .ok _ => (s.popFrame l spimm).andThen fun t => t.popReturn l spimm zero
    | .exc e => .trap s e
    | .halt => .halt s) := by
  have checked := meets_pcrelCheck s
  revert checked
  cases s.pcrelCheck with
  | ok u => exact fun _ => (keeps_popAll _ _ s).andThen fun t => meets_popReturn t l spimm zero
  | exc e => exact fun _ => State.Keeps.refl s
  | halt => exact fun hd => ⟨State.Keeps.refl s, hd⟩

theorem keeps_cmPush (s t : State) (l : BitVec 4) (spimm : BitVec 2) (e : execCmPush l spimm s = .next t) : s.Keeps t :=
  keeps_of_seqRun ((keeps_pushAll _ 0 s).andThen fun u => meets_spMoved u _) e

theorem keeps_cmPop (s t : State) (l : BitVec 4) (spimm : BitVec 2) (e : execCmPop l spimm s = .next t) : s.Keeps t :=
  keeps_of_seqRun ((keeps_popAll _ _ s).andThen fun u => meets_spMoved u _) e

/-! ## Commands of the debugger (60_exceptions R396; log 42) -/

theorem meets_readDebugReg (s : State) (n : BitVec 16) : (s.readDebugReg n).Meets s.cfg fun x => s.Keeps x.2 := by
  refine .ite (fun _ => .refl s) fun _ => .ite (fun _ => .refl s) fun _ => .ite (fun _ => ?_) fun _ => trivial
  refine (meets_csrCheck s _ false).bind fun r _ => ?_
  cases r with
  | wide c | alias_ c => exact .refl s
  | plain x => exact (State.Keeps.refl s).congr (afterRead_guarded s x)

theorem meets_writeDebugReg (s : State) (n : BitVec 16) (v : Word) : (s.writeDebugReg n v).Meets s.cfg s.Keeps :=
  .ite (fun _ => (State.Keeps.refl s).wx _ _) fun _ => .ite (fun _ => ((State.Keeps.refl s).wf _ _).fsDirty) fun _ =>
    .ite (fun _ => (meets_csrCheck s _ true).bind fun r _ => (State.Keeps.refl s).csrPutX r _ _) fun _ => trivial

theorem meets_transfer (s : State) (c : DebugCmd) : (s.transfer c).Meets s.cfg s.Keeps :=
  .ite (fun _ => .refl s) fun _ => .ite (fun _ => trivial) fun _ => .ite (fun _ => meets_writeDebugReg s _ _)
    fun _ => (meets_readDebugReg s _).bind fun _ h => h.congr rfl

theorem keeps_runCommand (s : State) (c : DebugCmd) : s.Keeps (s.runCommand c) := by
  obtain e | e | ⟨t, ht, e⟩ := runCommand_cases s c <;> rw [e]
  · exact (State.Keeps.refl s).congr rfl
  · exact (State.Keeps.refl s).congr rfl
  · have moved := meets_transfer s c
    rw [ht] at moved
    exact State.Keeps.congr moved rfl

theorem keeps_debugIdle (s t : State) (e : s.debugIdle = .next t) : s.Keeps t := by
  unfold State.debugIdle at e
  split at e
  · exact Host.Outcome.next.inj e ▸ keeps_runCommand s _
  · refine Host.Outcome.next.inj e ▸ ?_
    split
    · exact .leaveDebug s
    · exact .refl s

end Sys2Proof.Machine
end

section
/-!
PROOFS. What keeps the invariants: every instruction, and every step.
-/
namespace Sys2Proof.Machine
open Sys2Proof

/-! ## The instructions -/

theorem formLen_even (f : Form) : formLen f % 2 = 0 := by cases f <;> rfl

theorem uwLen_even (f : UwForm) : uwLen f % 2 = 0 := by cases f <;> rfl

/-- The high half replaced, and the tag cleared (R177). -/
theorem lawful_schi (s : State) (rs2 : Reg) (k : Cap) (h : k.lawful s.cfg = true) : (Cap.mk false (s.rxm rs2) k.addr).lawful s.cfg = true :=
  (lawful_iff _ _).2 ⟨truncX_truncX _ _, lawful_addr _ k h, fun ht => nomatch ht⟩

/-- A capability instruction runs behind the check that CHERI's registers may be used. -/
theorem meets_cheriOk_bind {s : State} {r : Res State} (h : r.Meets s.cfg s.Keeps) : (s.cheriOk.bind fun _ => r).Meets s.cfg s.Keeps :=
  (meets_cheriOk s).bind fun _ _ => h

theorem meets_ok_advance (s : State) (n : Nat) (hn : n % 2 = 0) : (Res.ok (s.advance n)).Meets s.cfg s.Keeps := (State.Keeps.refl s).advance n hn

theorem meets_cMv (s : State) (rd rs2 : Reg) :
    (Res.ok ((if s.capMode then s.wc rd (s.rc rs2) else s.wx rd (s.rx rs2)).advance 2)).Meets s.cfg s.Keeps :=
  State.Keeps.advance ((State.Keeps.refl s).moveTo rd rs2) 2 rfl

theorem meets_spAdded (s : State) (rd : Reg) (off : Word) : (Res.ok ((s.spAdd rd off).advance 2)).Meets s.cfg s.Keeps :=
  ((State.Keeps.refl s).spAdd rd off).advance 2 rfl

theorem meets_moved (s : State) (a b c d : Reg) : (Res.ok (((s.moveTo a s b).moveTo c s d).advance 2)).Meets s.cfg s.Keeps :=
  (((State.Keeps.refl s).moveTo a b).moveTo c d).advance 2 rfl

theorem keeps_scC (s t : State) (rd rs1 rs2 : Reg) (aq rl : Bool) (e : execScC rd rs1 rs2 aq rl s = .next t) : s.Keeps t := by
  unfold execScC at e
  split at e
  · exact keeps_of_run (s := s) (r := .exc illegal) trivial e
  · exact keeps_of_scOut (meets_scCap s rd rs1 rs2) e

/-- Every instruction the decoder gives keeps the invariants; those that write the M bit need the mode. -/
theorem keeps_exec (s t : State) (i : Instr) (havail : s.ctx.available i = true) (e : exec i s = .next t) : s.Keeps t := by
  cases i with
  | gctag | gcperm | gchi | gcbase | gclen | cram | sceq | scss => exact keeps_of_run (meets_inspect s _ _) e
  | cmv rd rs1 => exact keeps_of_run (meets_capResult s rd _ (·.rc rs1)) e
  | cadd rd rs1 | caddi rd rs1 => exact keeps_of_run (meets_capResult s rd _ fun hc => lawful_incAddr _ _ _ (hc.rc rs1)) e
  | scaddr rd rs1 => exact keeps_of_run (meets_capResult s rd _ fun hc => lawful_setAddr _ _ _ (hc.rc rs1) (truncX_truncX _ _)) e
  | acperm rd rs1 => exact keeps_of_run (meets_capResult s rd _ fun hc => lawful_acpermCap _ _ _ (hc.rc rs1)) e
  | schi rd rs1 => exact keeps_of_run (meets_capResult s rd _ fun hc => lawful_schi s _ _ (hc.rc rs1)) e
  | sentry rd rs1 => exact keeps_of_run (meets_capResult s rd _ fun hc => lawful_keepTag _ _ _ (lawful_seal _ _ (hc.rc rs1))) e
  | cbld rd rs1 rs2 => exact keeps_of_run (meets_capResult s rd _ fun hc => lawful_cbldCap _ _ _ (hc.rc rs2)) e
  | scbnds rd rs1 | scbndsi rd rs1 | scbndsr rd rs1 =>
    exact keeps_of_run (meets_capResult s rd _ fun hc => lawful_setBounds _ _ _ _ (hc.rc rs1)) e
  | scmode rd rs1 => exact keeps_of_run (meets_capResult s rd _ fun hc => lawful_keepTag _ _ _ (lawful_putMode _ _ _ (hc.rc rs1) havail)) e
  | modesw => exact keeps_of_run (meets_switchMode s 4 rfl havail) e
  | cModesw => exact keeps_of_run (meets_switchMode s 2 rfl (Bool.and_eq_true_iff.1 havail).2) e
  | lc rd rs1 => exact keeps_of_run (meets_cheriOk_bind (meets_capLoad s rd rs1 _ 4 rfl)) e
  | sc rs2 rs1 => exact keeps_of_run (meets_cheriOk_bind (meets_capStore s rs2 rs1 _ 4 rfl)) e
  | cLc | cLcsp => exact keeps_of_run (meets_capLoad s _ _ _ 2 rfl) e
  | cSc | cScsp => exact keeps_of_run (meets_capStore s _ _ _ 2 rfl) e
  | auipc rd imm => exact keeps_of_run (meets_auipc s rd imm) e
  | jal | cJal | cJ => exact keeps_of_run (meets_jumpDirect s _ _ _) e
  | jalr | cJalr | cJr => exact keeps_of_run (meets_jumpIndirect s _ _ _ _ _) e
  | jalrMode => exact keeps_of_run (meets_cheriOk_bind (meets_jumpIndirect s _ _ _ _ _)) e
  | beq | bne | blt | bge | bltu | bgeu => exact keeps_of_run (meets_branch s _ _ _ _ 4 rfl) e
  | cBeqz | cBnez => exact keeps_of_run (meets_branch s _ _ _ _ 2 rfl) e
  | lb | lh | lw | ld | lbu | lhu | lwu => exact keeps_of_run (meets_intLoad s _ _ _ _ _ 4 rfl) e
  | cLw | cLd | cLwsp | cLdsp | cLbu | cLhu | cLh => exact keeps_of_run (meets_intLoad s _ _ _ _ _ 2 rfl) e
  | sb | sh | sw | sd => exact keeps_of_run (meets_intStore s _ _ _ _ 4 rfl) e
  | cSw | cSd | cSwsp | cSdsp | cSb | cSh => exact keeps_of_run (meets_intStore s _ _ _ _ 2 rfl) e
  | flh | flw | fld => exact keeps_of_run (meets_fpLoad s _ _ _ _ 4 rfl) e
  | cFlw | cFlwsp | cFld | cFldsp => exact keeps_of_run (meets_fpLoad s _ _ _ _ 2 rfl) e
  | fsh | fsw | fsd => exact keeps_of_run (meets_fpStore s _ _ _ _ 4 rfl) e
  | cFsw | cFswsp | cFsd | cFsdsp => exact keeps_of_run (meets_fpStore s _ _ _ _ 2 rfl) e
  | mret => exact keeps_of_run (meets_mret s) e
  | sret => exact keeps_of_run (meets_sret s) e
  | dret => exact keeps_of_run (meets_dret s) e
  | lui f | addi f | xori f | andi f | srli f | srai f | sub f | xor f | or f | and f | addiw f | addw f | subw f =>
    exact keeps_of_run (meets_compute s _ _ _ (formLen_even f)) e
  | slli f | add f => exact keeps_of_run (meets_compute s _ _ _ (uwLen_even f)) e
  | slti | sltiu | ori | sll | slt | sltu | srl | sra | slliw | srliw | sraiw | sllw | srlw | sraw =>
    exact keeps_of_run (meets_compute s _ _ 4 rfl) e
  | fence | fenceI | prefetchI | prefetchR | prefetchW => exact keeps_of_run (meets_ok_advance s 4 rfl) e
  | ecall => exact keeps_of_run (r := .exc ⟨s.ecallCode, 0⟩) trivial e
  | ebreak => exact keeps_of_run (meets_ebreak s) e
  | wfi => exact keeps_of_run (meets_wfi s) e
  | sfenceVma => exact keeps_of_run (meets_sfence s _ _) e
  | amoswapW | amoaddW | amoxorW | amoandW | amoorW | amominW | amomaxW | amominuW | amomaxuW
  | amoswapD | amoaddD | amoxorD | amoandD | amoorD | amominD | amomaxD | amominuD | amomaxuD => exact keeps_of_run (meets_amo s _ _ _ _ _) e
  | amoswapC => exact keeps_of_run (meets_cheriOk_bind (meets_amoswapCap s _ _ _)) e
  | lrB | lrH | lrW | lrD => exact keeps_of_run (meets_lr s _ _ _) e
  | lrC => exact keeps_of_run (meets_cheriOk_bind (meets_lrCap s _ _)) e
  | scB | scH | scW | scD => exact keeps_of_scOut (meets_sc s _ _ _ _) e
  | scC rd rs1 rs2 aq rl => exact keeps_scC s t rd rs1 rs2 aq rl e
  | csrrw => exact keeps_of_run (meets_csrSwap s _ _ _) e
  | csrrs | csrrc | csrrwi | csrrsi | csrrci => exact keeps_of_run (meets_csrModify s _ _ _ _ _ _) e
  | cMv rd rs2 => exact keeps_of_run (meets_cMv s rd rs2) e
  | cAddi16sp | cAddi4spn => exact keeps_of_run (meets_spAdded s _ _) e
  | cmPush l spimm => exact keeps_cmPush s t l spimm e
  | cmPop l spimm => exact keeps_cmPop s t l spimm e
  | cmPopretz l spimm => exact keeps_of_seqRun (keeps_popRet s l spimm true) e
  | cmPopret l spimm => exact keeps_of_seqRun (keeps_popRet s l spimm false) e
  | cmMvsa01 | cmMva01s => exact keeps_of_run (meets_moved s _ _ _ _) e
  | cmJt | cmJalt => exact keeps_of_run (meets_tableJump s _ _) e
  | cboInval => exact keeps_of_run (meets_cboInval s _) e
  | cboClean | cboFlush => exact keeps_of_run (meets_cboManage s _) e
  | cboZero => exact keeps_of_run (meets_cboZero s _) e
  | sh1add | sh2add | sh3add | sh1addUw | sh2addUw | sh3addUw | sh4add | sh4addUw => exact keeps_of_run (meets_shadd s _ _ _ _ _) e

/-! ## An encoding -/

theorem available_of_accept (c : Ctx) (o : Option Instr) (i : Instr) (h : c.accept o = .ok i) : c.available i = true := by
  unfold Ctx.accept at h
  split at h
  · exact nomatch h
  · split at h
    · split at h
      · next ha => exact Except.ok.inj h ▸ ha
      · exact nomatch h
    · exact nomatch h

theorem available_of_decodeEnc (c : Ctx) (x : Enc) (i : Instr) (h : decodeEnc c x = .ok i) : c.available i = true := by
  cases x with
  | half p =>
    simp only [decodeEnc] at h
    split at h
    · exact available_of_accept c _ i h
    · exact nomatch h
  | word w =>
    simp only [decodeEnc] at h
    split at h
    · exact nomatch h
    · exact available_of_accept c _ i h

theorem keeps_runEnc (s t : State) (x : Enc) (e : s.runEnc x = .next t) : s.Keeps t := by
  unfold State.runEnc at e
  split at e
  · next i hi => exact keeps_exec s t i (available_of_decodeEnc _ x i hi) e
  · split at e
    · next c _ => exact keeps_of_run (meets_compute s _ _ _ (formLen_even c.form)) e
    · split at e
      · next f _ => exact keeps_of_run (meets_fpCompute s f) e
      · exact keeps_of_run (r := .exc illegal) trivial e

/-! ## A step -/

theorem keeps_of_tickNext {s t : State} {o : Host.Outcome State Fault Refusal} (h : ∀ u, o = .next u → s.Keeps u) (e : tickNext o = .next t) :
    s.Keeps t := by
  cases o with
  | next u => exact Host.Outcome.next.inj e ▸ (h u rfl).congr rfl
  | fault f => exact nomatch e
  | refused r => exact nomatch e

theorem meets_pccCheck (s : State) : s.pccCheck.Meets s.cfg fun _ => True :=
  .ite (fun _ => trivial) fun _ => .ite (fun _ => trivial) fun _ => .ite (fun _ => trivial) fun _ => trivial

theorem meets_pccLength (s : State) (n : Nat) : (s.pccLength n).Meets s.cfg fun _ => True := (Res.Meets.check _ _ _).mono fun _ _ => trivial

theorem meets_parcel (s : State) (a : Word) : (s.parcel a).Meets s.cfg fun _ => True :=
  ((meets_translateAs s _ _ _).bind fun _ _ => (meets_pmaCheck _ _ _ _).bind fun _ _ => trivial : (s.parcelBytes a).Meets s.cfg fun _ => True).bind
    fun _ _ => trivial

theorem meets_fetch (s : State) : s.fetch.Meets s.cfg fun _ => True :=
  (meets_bpCheck s _ _).bind fun _ _ => (meets_pccCheck s).bind fun _ _ => (meets_pccLength s 2).bind fun _ _ => (meets_parcel s _).bind fun _ _ =>
    .ite (fun _ => trivial) fun _ => .ite (fun _ => trivial) fun _ => (meets_pccLength s 4).bind fun _ _ => (meets_parcel s _).bind fun _ _ => trivial

theorem keeps_runNext (s t : State) (e : s.runNext = .next t) : s.Keeps t := by
  refine keeps_of_tickNext (fun u hu => ?_) e
  have fetched := meets_fetch s
  split at hu
  · exact keeps_runEnc s u _ hu
  · exact Host.Outcome.next.inj hu ▸ .takeException s _
  · next h =>
    rw [h] at fetched
    exact Host.Outcome.next.inj hu ▸ .enterDebug s 2 fetched

theorem keeps_runBuffer (s t : State) (e : s.runBuffer = .next t) : s.Keeps t := by
  have rest (l : List (BitVec 16)) : s.Keeps { s with progBuf := l } := (State.Keeps.refl s).congr rfl
  unfold State.runBuffer at e
  split at e
  · exact keeps_debugIdle s t e
  · refine keeps_of_tickNext (fun u hu => ?_) e
    split at hu
    · exact (rest _).trans (keeps_runEnc _ u _ hu)
    · split at hu
      · exact (rest _).trans (keeps_runEnc _ u _ hu)
      · exact Host.Outcome.next.inj hu ▸ .takeException s _

theorem keeps_interrupt (s t : State) (hd : s.debug = false) (e : s.interrupt = some t) : s.Keeps t := by
  unfold State.interrupt at e
  split at e
  · exact Option.some.inj e ▸ .trapM s hd _ _ _
  · obtain ⟨i, hi, rfl⟩ := Option.map_eq_some_iff.1 e
    refine .trapS s hd ?_ _ _ _
    by_cases takes : s.takesS = true
    · exact (Bool.and_eq_true_iff.1 takes).1
    · rw [if_neg takes] at hi
      exact nomatch hi

theorem keeps_afterStep {s t : State} {o : Host.Outcome State Fault Refusal} (h : ∀ u, o = .next u → s.Keeps u)
    (e : afterStep s.stepping o = .next t) : s.Keeps t := by
  cases o with
  | next u =>
    refine Host.Outcome.next.inj e ▸ ?_
    split
    · next hstep =>
      have stepping := (Bool.and_eq_true_iff.1 (Bool.and_eq_true_iff.1 hstep).1).1
      exact (h u rfl).trans (.enterDebug u 4 ((congrArg Params.hasSdext (h u rfl).cfg).trans stepping))
    · exact h u rfl
  | fault f => exact nomatch e
  | refused r => exact nomatch e

theorem keeps_runHart (s t : State) (hd : s.debug = false) (e : s.runHart = .next t) : s.Keeps t := by
  refine keeps_afterStep (fun u hu => ?_) e
  split at hu
  · next v hv =>
    split at hv
    · exact nomatch hv
    · exact Host.Outcome.next.inj hu ▸ keeps_interrupt s v hd hv
  · exact keeps_runNext s u hu

theorem keeps_step (s t : State) (e : step s = .next t) : s.Keeps t := by
  unfold step at e
  split at e
  · exact keeps_runBuffer s t e
  · next hd =>
    split at e
    · next hr => exact Host.Outcome.next.inj e ▸ .enterDebug s _ (Bool.and_eq_true_iff.1 hr).2
    · exact keeps_runHart s t (Bool.eq_false_iff.2 hd) e

/-- Settles O11: what a step does is a sequence of operations of which each keeps the invariants. -/
theorem stepKeepsInvariant : Obligations.StepKeepsInvariant := by
  unfold Obligations.StepKeepsInvariant
  intro s t hinv e
  have kept := keeps_step s t e
  exact ⟨kept.inv hinv, kept.caps hinv, kept.cfg, kept.irqIn, kept.triggers⟩

end Sys2Proof.Machine
end

section
/-!
PROOFS. The tables of memory accesses: what an instruction of each does, and that an access which stops stops the instruction.
-/
namespace Sys2Proof.Machine
open Sys2Proof

/-! ## Immediates -/

theorem simm_zero {n : Nat} (i : BitVec n) : simm i 0 = i.signExtend 64 := BitVec.shiftLeft_zero _

theorem uimm_zero {n : Nat} (i : BitVec n) : uimm i 0 = i.setWidth 64 := BitVec.shiftLeft_zero _

/-! ## The meaning of the instructions of a table -/

theorem exec_of_intLoadTable (s : State) (i : Instr) (rd rs1 : Reg) (off : Word) (n : Nat) (sg : Bool) (len : Nat)
    (h : intLoadTable i = some (rd, rs1, off, n, sg, len)) : exec i s = (s.intLoad rd rs1 off n sg len).run (s.unreserved i) := by
  cases i with
  | lb | lbu | lh | lhu | lw | lwu | ld => cases h; rw [← simm_zero]; rfl
  | cLbu => cases h; rw [← uimm_zero]; rfl
  | cLw | cLd | cLwsp | cLdsp | cLhu | cLh => cases h; rfl
  | _ => exact nomatch h

theorem exec_of_intStoreTable (s : State) (i : Instr) (rs2 rs1 : Reg) (off : Word) (n len : Nat)
    (h : intStoreTable i = some (rs2, rs1, off, n, len)) : exec i s = (s.intStore rs2 rs1 off n len).run (s.unreserved i) := by
  cases i with
  | sb | sh | sw | sd => cases h; rw [← simm_zero]; rfl
  | cSb => cases h; rw [← uimm_zero]; rfl
  | cSw | cSd | cSwsp | cSdsp | cSh => cases h; rfl
  | _ => exact nomatch h

theorem exec_of_fpLoadTable (s : State) (i : Instr) (frd rs1 : Reg) (off : Word) (n len : Nat)
    (h : fpLoadTable i = some (frd, rs1, off, n, len)) : exec i s = (s.fpLoad frd rs1 off n len).run (s.unreserved i) := by
  cases i with
  | flh | flw | fld => cases h; rw [← simm_zero]; rfl
  | cFlw | cFlwsp | cFld | cFldsp => cases h; rfl
  | _ => exact nomatch h

theorem exec_of_fpStoreTable (s : State) (i : Instr) (fs2 rs1 : Reg) (off : Word) (n len : Nat)
    (h : fpStoreTable i = some (fs2, rs1, off, n, len)) : exec i s = (s.fpStore fs2 rs1 off n len).run (s.unreserved i) := by
  cases i with
  | fsh | fsw | fsd => cases h; rw [← simm_zero]; rfl
  | cFsw | cFswsp | cFsd | cFsdsp => cases h; rfl
  | _ => exact nomatch h

theorem State.ready.cheri {s : State} {i : Instr} (h : s.ready i) (hc : cheriTable i = true) : s.cheriRegsDisabled = false := h.1 hc
theorem State.ready.fs {s : State} {i : Instr} (h : s.ready i) (hf : (fpLoadTable i).isSome || (fpStoreTable i).isSome) :
    s.csr.mstatus.toNat / 2 ^ 13 % 4 ≠ 0 := h.2.1 hf
theorem State.ready.pcrel {s : State} {i : Instr} (h : s.ready i) (hp : pcrelTable i = true) : s.debug = false ∨ s.cfg.debugPcrelIllegal = false :=
  h.2.2 hp

/-- The check of CHERI register access passes for an instruction that is ready. -/
theorem cheriOk_of_ready (s : State) (i : Instr) (h : s.ready i) (hc : cheriTable i = true) : s.cheriOk = .ok () :=
  (Res.check_eq_ok _ _ _).2 (by rw [h.cheri hc]; rfl)

theorem exec_of_capLoadTable (s : State) (i : Instr) (rd rs1 : Reg) (off : Word) (len : Nat) (chk : Bool)
    (h : capLoadTable s.cfg i = some (rd, rs1, off, len, chk)) (hready : s.ready i) :
    exec i s = (s.capLoad rd rs1 off len).run (s.unreserved i) := by
  cases i with
  | lc rd rs1 imm =>
    cases h
    change (s.cheriOk.bind fun _ => s.capLoad rd rs1 (simm imm 0) 4).run s = _
    rw [cheriOk_of_ready s _ hready rfl, Res.bind_ok, simm_zero]
    rfl
  | cLc | cLcsp => cases h; rfl
  | _ => exact nomatch h

theorem exec_of_capStoreTable (s : State) (i : Instr) (rs2 rs1 : Reg) (off : Word) (len : Nat) (chk : Bool)
    (h : capStoreTable s.cfg i = some (rs2, rs1, off, len, chk)) (hready : s.ready i) :
    exec i s = (s.capStore rs2 rs1 off len).run (s.unreserved i) := by
  cases i with
  | sc rs2 rs1 imm =>
    cases h
    change (s.cheriOk.bind fun _ => s.capStore rs2 rs1 (simm imm 0) 4).run s = _
    rw [cheriOk_of_ready s _ hready rfl, Res.bind_ok, simm_zero]
    rfl
  | cSc | cScsp => cases h; rfl
  | _ => exact nomatch h

theorem exec_of_amoTable (s : State) (i : Instr) (rd rs1 rs2 : Reg) (n : Nat) (f : Word → Word → Word)
    (h : amoTable i = some (rd, rs1, rs2, n, f)) : ∃ op, exec i s = (s.amo op n rd rs1 rs2).run (s.unreserved i) := by
  cases i with
  | amoswapW | amoaddW | amoxorW | amoandW | amoorW | amominW | amomaxW | amominuW | amomaxuW
  | amoswapD | amoaddD | amoxorD | amoandD | amoorD | amominD | amomaxD | amominuD | amomaxuD => cases h; exact ⟨_, rfl⟩
  | _ => exact nomatch h

theorem exec_of_lrTable (s : State) (i : Instr) (rd rs1 : Reg) (n : Nat) (h : lrTable i = some (rd, rs1, n)) :
    exec i s = (s.lr n rd rs1).run (s.unreserved i) := by
  cases i with
  | lrB | lrH | lrW | lrD => cases h; rfl
  | _ => exact nomatch h

theorem exec_of_scTable (s : State) (i : Instr) (rd rs1 rs2 : Reg) (n : Nat) (h : scTable i = some (rd, rs1, rs2, n)) :
    exec i s = (s.sc n rd rs1 rs2).run (s.unreserved i) := by
  cases i with
  | scB | scH | scW | scD => cases h; rfl
  | _ => exact nomatch h

theorem exec_amoswapC (s : State) (rd rs1 rs2 : Reg) (aq rl : Bool) (h : s.ready (.amoswapC rd rs1 rs2 aq rl)) :
    exec (.amoswapC rd rs1 rs2 aq rl) s = (s.amoswapCap rd rs1 rs2).run s := by
  change (s.cheriOk.bind fun _ => s.amoswapCap rd rs1 rs2).run s = _
  rw [cheriOk_of_ready s _ h rfl, Res.bind_ok]

theorem exec_lrC (s : State) (rd rs1 : Reg) (aq rl : Bool) (h : s.ready (.lrC rd rs1 aq rl)) :
    exec (.lrC rd rs1 aq rl) s = (s.lrCap rd rs1).run s := by
  change (s.cheriOk.bind fun _ => s.lrCap rd rs1).run s = _
  rw [cheriOk_of_ready s _ h rfl, Res.bind_ok]

theorem exec_scC (s : State) (rd rs1 rs2 : Reg) (aq rl : Bool) (h : s.ready (.scC rd rs1 rs2 aq rl)) :
    exec (.scC rd rs1 rs2 aq rl) s = (s.scCap rd rs1 rs2).run { s with resv := none } := by
  have enabled : ¬s.cheriRegsDisabled = true := by rw [h.cheri rfl]; decide
  exact if_neg enabled

/-! ## An instruction stops where its access does -/

/-- Where `r` raises an exception or is stopped by a trigger, so is the instruction; a store-conditional has lost its reservation then
(44_atomics R250; log 29). -/
structure State.StopsAs {α : Type} (s : State) (i : Instr) (r : Res α) : Prop where
  exc : ∀ e, r = .exc e → exec i s = .next (takeException (s.unreserved i) e)
  halt : r = .halt → exec i s = .next ((s.unreserved i).enterDebug 2)

namespace State.StopsAs

theorem of_run {s : State} {i : Instr} {r : Res State} (h : exec i s = r.run (s.unreserved i)) : s.StopsAs i r := by
  refine ⟨fun e he => ?_, fun hh => ?_⟩
  · rw [h, he, Res.run_exc]
  · rw [h, hh]
    rfl

/-- The part that comes first. -/
theorem fst {α β : Type} {s : State} {i : Instr} {r : Res α} {f : α → Res β} (h : s.StopsAs i (r.bind f)) : s.StopsAs i r :=
  ⟨fun e he => h.exc e (by rw [he, Res.bind_exc]), fun hh => h.halt (by rw [hh, Res.bind_halt])⟩

/-- The part after a check that passes. -/
theorem snd {α β : Type} {s : State} {i : Instr} {r : Res α} {f : α → Res β} {a : α} (h : s.StopsAs i (r.bind f)) (ha : r = .ok a) :
    s.StopsAs i (f a) := by rwa [ha, Res.bind_ok] at h

/-- A sequence of accesses has done nothing where its first one stops. -/
theorem of_seq {s : State} {i : Instr} {r : Res State} {q : Seq} {g : State → Res State} (hu : s.unreserved i = s)
    (h : exec i s = (q.andThen g).run) (hexc : ∀ e, r = .exc e → q = .trap s e) (hhalt : r = .halt → q = .halt s) : s.StopsAs i r := by
  refine ⟨fun e he => ?_, fun hh => ?_⟩
  · rw [h, hexc e he, hu]
    rfl
  · rw [h, hhalt hh, hu]
    rfl

end State.StopsAs

/-! ## Frames (48_zcmp_zcmt R323) -/

theorem rlistDown_ne_nil (l : BitVec 4) (h : 4 ≤ l.toNat) : rlistDown l ≠ [] := by
  have count : 0 < rlistCount l := by
    unfold rlistCount
    split <;> omega
  rw [rlistDown, Ne, List.reverse_eq_nil_iff, List.take_eq_nil_iff, not_or]
  exact ⟨by omega, by decide⟩

/-- A list has a first register. -/
theorem rlistDown_eq_cons (l : BitVec 4) (h : 4 ≤ l.toNat) : ∃ b rest, rlistDown l = b :: rest := List.exists_cons_of_ne_nil (rlistDown_ne_nil l h)

theorem pushAll_cons_ok (r : Reg) (rs : List Reg) (off : Word) (s t : State) (h : s.pushOne r (off - BitVec.ofNat 64 s.slot) = .ok t) :
    pushAll (r :: rs) off s = pushAll rs (off - BitVec.ofNat 64 s.slot) t := by rw [pushAll, h]

theorem pushAll_cons_exc (r : Reg) (rs : List Reg) (off : Word) (s : State) (e : Exc) (h : s.pushOne r (off - BitVec.ofNat 64 s.slot) = .exc e) :
    pushAll (r :: rs) off s = .trap s e := by rw [pushAll, h]

theorem pushAll_cons_halt (r : Reg) (rs : List Reg) (off : Word) (s : State) (h : s.pushOne r (off - BitVec.ofNat 64 s.slot) = .halt) :
    pushAll (r :: rs) off s = .halt s := by rw [pushAll, h]

theorem popAll_cons_exc (r : Reg) (rs : List Reg) (off : Word) (s : State) (e : Exc) (h : s.popOne r (off - BitVec.ofNat 64 s.slot) = .exc e) :
    popAll (r :: rs) off s = .trap s e := by rw [popAll, h]

theorem popAll_cons_halt (r : Reg) (rs : List Reg) (off : Word) (s : State) (h : s.popOne r (off - BitVec.ofNat 64 s.slot) = .halt) :
    popAll (r :: rs) off s = .halt s := by rw [popAll, h]

theorem stopsAs_push (s : State) (l : BitVec 4) (e : BitVec 2) (b : Reg) (rest : List Reg) (h : rlistDown l = b :: rest) :
    s.StopsAs (.cmPush l e) (s.pushOne b (0 - BitVec.ofNat 64 s.slot)) :=
  .of_seq (q := pushAll (rlistDown l) 0 s) rfl rfl (fun x hx => h ▸ pushAll_cons_exc b rest 0 s x hx)
    fun hh => h ▸ pushAll_cons_halt b rest 0 s hh

/-- An instruction that begins with the loads of a frame. -/
theorem stopsAs_popFrame (s : State) (i : Instr) (l : BitVec 4) (e : BitVec 2) (b : Reg) (rest : List Reg) (g : State → Res State)
    (h : rlistDown l = b :: rest) (hu : s.unreserved i = s) (hi : exec i s = ((s.popFrame l e).andThen g).run) :
    s.StopsAs i (s.popOne b (BitVec.ofNat 64 (s.stackAdj l e) - BitVec.ofNat 64 s.slot)) :=
  .of_seq hu hi (fun x hx => (congrArg (popAll · _ s) h).trans (popAll_cons_exc b rest _ s x hx))
    fun hh => (congrArg (popAll · _ s) h).trans (popAll_cons_halt b rest _ s hh)

/-- The check that pcc may be updated passes for an instruction that is ready. -/
theorem pcrelCheck_of_ready (s : State) (i : Instr) (h : s.ready i) (hp : pcrelTable i = true) : s.pcrelCheck = .ok () :=
  (pcrelCheck_eq_ok s ()).2 (h.pcrel hp)

theorem exec_cmPopret (s : State) (l : BitVec 4) (e : BitVec 2) (h : s.ready (.cmPopret l e)) :
    exec (.cmPopret l e) s = ((s.popFrame l e).andThen fun t => t.popReturn l e false).run := by
  change execCmPopret l e s = _
  rw [execCmPopret, pcrelCheck_of_ready s _ h rfl]

theorem exec_cmPopretz (s : State) (l : BitVec 4) (e : BitVec 2) (h : s.ready (.cmPopretz l e)) :
    exec (.cmPopretz l e) s = ((s.popFrame l e).andThen fun t => t.popReturn l e true).run := by
  change execCmPopretz l e s = _
  rw [execCmPopretz, pcrelCheck_of_ready s _ h rfl]

end Sys2Proof.Machine
end

section
/-!
PROOFS. The page rules of Zcheri_pte for capability-wide stores (20_memory R120, R121).
-/
namespace Sys2Proof.Machine
open Sys2Proof

/-! ## The rules on a leaf entry -/

theorem cwRule_of_cwPages (s : State) (auth : Cap) (ea : Word) (a : Nat) (pte : Word) (v : Cap) (h : s.cwPages = true) :
    s.cwRule auth ea (some (a, pte)) v = (s.cwCd auth ea pte v).bind fun (w, set) => .ok (w, if set then some (a, putBit pte 60 true) else none) :=
  if_pos h

/-- CW clear, where the implementation faults. -/
theorem cwCd_cwClear_fault (s : State) (auth : Cap) (ea pte : Word) (v : Cap) (h59 : pte.getLsbD 59 = false) (hp : s.cfg.cwClear = .raiseFault)
    (hwc : grantsWC s.cfg auth = true) : s.cwCd auth ea pte v = .exc ⟨15, ea⟩ := by
  rw [State.cwCd, h59, if_pos Bool.not_false, if_pos ⟨hp, hwc⟩]

/-- CW clear, where the tag is not kept. -/
theorem cwCd_cwClear_strip (s : State) (auth : Cap) (ea pte : Word) (v : Cap) (h59 : pte.getLsbD 59 = false)
    (hp : s.cfg.cwClear = .strip ∨ grantsWC s.cfg auth = false) : s.cwCd auth ea pte v = .ok (v.keepTag false, false) := by
  have keeps : ¬(s.cfg.cwClear = .raiseFault ∧ grantsWC s.cfg auth = true) := by
    rintro ⟨hf, hwc⟩
    rcases hp with hs | hn
    · exact nomatch hf.symm.trans hs
    · exact nomatch hwc.symm.trans hn
  rw [State.cwCd, h59, if_pos Bool.not_false, if_neg keeps]

/-- CW set, CD clear and in use, a tagged value that keeps its tag. -/
theorem cwCd_cdClear (s : State) (auth : Cap) (ea pte : Word) (v : Cap) (h59 : pte.getLsbD 59 = true) (h60 : pte.getLsbD 60 = false)
    (hcde : s.cde = true) (hwc : grantsWC s.cfg auth = true) (ht : v.tag = true) :
    s.cwCd auth ea pte v = if s.cfg.cdHwUpdate then .ok (v, true) else .exc ⟨15, ea⟩ := by
  rw [State.cwCd, h59, if_neg (by decide), h60, hcde, hwc, ht]
  exact if_pos rfl

/-! ## A store that passed the checks before them -/

/-- A capability-wide store passed the checks that come before the page rules, and its translation used a leaf entry to which they apply. -/
structure State.PagedStore (s : State) (auth : Cap) (ea : Word) (kind : Acc) (pa : Nat) (leaf : Nat × Word) : Prop where
  permits : s.permits auth ea s.cfg.capBytes kind
  aligned : ea.toNat % s.cfg.capBytes = 0
  translated : s.translate kind ea = .ok ⟨pa, some leaf⟩
  cwPages : s.cwPages = true
  mapped : ∀ a ∈ span pa s.cfg.capBytes, Params.isMapped s.cfg a = true

namespace State.PagedStore
variable {s : State} {auth v : Cap} {ea : Word} {kind : Acc} {pa : Nat} {leaf : Nat × Word}

theorem dataPath (h : s.PagedStore auth ea kind pa leaf) :
    s.dataPath auth ea s.cfg.capBytes kind .strict = .ok ⟨span pa s.cfg.capBytes, some leaf⟩ :=
  (dataPath_eq_ok ..).2 ⟨h.permits, .inl ⟨h.aligned, _, h.translated, rfl⟩⟩

theorem pmaCheck (h : s.PagedStore auth ea kind pa leaf) : Machine.pmaCheck s.cfg kind ea (span pa s.cfg.capBytes) = .ok () :=
  (pmaCheck_eq_ok ..).2 h.mapped

/-- The rules raise an exception. -/
theorem capWriteChecked_exc (h : s.PagedStore auth ea kind pa leaf) (e : Exc)
    (hr : s.cwRule auth ea (some leaf) (v.keepTag (grantsWC s.cfg auth)) = .exc e) : s.capWriteChecked auth ea v kind = .exc e := by
  simp [State.capWriteChecked, h.dataPath, State.currentPath, State.setsCd, hr]

/-- The rules leave the entry as it is. -/
theorem capWriteChecked_unmarked (h : s.PagedStore auth ea kind pa leaf) (w : Cap)
    (hr : s.cwRule auth ea (some leaf) (v.keepTag (grantsWC s.cfg auth)) = .ok (w, none)) :
    s.capWriteChecked auth ea v kind = .ok ⟨pa, w, none⟩ := by
  simp [State.capWriteChecked, h.dataPath, State.currentPath, State.setsCd, hr, h.pmaCheck, firstByte_span _ _ (capBytes_pos _)]

/-- Hardware sets CD, in the entry memory holds, which is the one the translation used. -/
theorem capWriteChecked_marked (h : s.PagedStore auth ea kind pa leaf) (w : Cap) (cd : Nat × Word)
    (hr : s.cwRule auth ea (some leaf) (v.keepTag (grantsWC s.cfg auth)) = .ok (w, some cd))
    (hcur : s.uncached.translate kind ea = s.translate kind ea) : s.capWriteChecked auth ea v kind = .ok ⟨pa, w, some cd⟩ := by
  simp [State.capWriteChecked, h.dataPath, State.currentPath, State.setsCd, hr, hcur, h.translated, h.pmaCheck, firstByte_span _ _ (capBytes_pos _)]

end State.PagedStore

/-! ## The instructions -/

/-- The kind of access of a capability-wide store. -/
def capWriteKind : Instr → Acc
  | .amoswapC .. => .atomic
  | _ => .store

theorem orElse_cases {α : Type} {o o' : Option α} {x : α} (h : (o <|> o') = some x) : o = some x ∨ o' = some x := by
  cases o with
  | none => exact .inr h
  | some y => exact .inl h

theorem capWriteTable_cases (s : State) (i : Instr) (rs2 rs1 : Reg) (off : Word) (h : capWriteTable s i = some (rs2, rs1, off)) :
    (∃ len chk, capStoreTable s.cfg i = some (rs2, rs1, off, len, chk)) ∨ (∃ rd aq rl, i = .amoswapC rd rs1 rs2 aq rl ∧ off = 0) ∨
      (∃ rd aq rl, i = .scC rd rs1 rs2 aq rl ∧ off = 0) ∨
      (s.capMode = true ∧ rs1 = spReg ∧ off = 0 - BitVec.ofNat 64 s.slot ∧ ∃ l e rest, i = .cmPush l e ∧ rlistDown l = rs2 :: rest) := by
  obtain h | h := orElse_cases h
  · obtain ⟨⟨b, a, o, len, chk⟩, htable, hx⟩ := Option.map_eq_some_iff.1 h
    cases hx
    exact .inl ⟨len, chk, htable⟩
  · cases i with
    | amoswapC => cases h; exact .inr (.inl ⟨_, _, _, rfl, rfl⟩)
    | scC => cases h; exact .inr (.inr (.inl ⟨_, _, _, rfl, rfl⟩))
    | cmPush l e =>
      dsimp only at h
      split at h
      · next hmode =>
        obtain ⟨b, hb, hx⟩ := Option.map_eq_some_iff.1 h
        cases hx
        obtain ⟨rest, hl⟩ : ∃ rest, rlistDown l = rs2 :: rest := by
          cases hl : rlistDown l with
          | nil => rw [hl] at hb; exact nomatch hb
          | cons r rest => rw [hl] at hb; cases hb; exact ⟨rest, rfl⟩
        exact .inr (.inr (.inr ⟨hmode, rfl, rfl, l, e, rest, rfl, hl⟩))
      · exact nomatch h
    | _ => exact nomatch h

theorem capWriteKind_of_capStoreTable (p : Params) (i : Instr) (x : Reg × Reg × Word × Nat × Bool) (h : capStoreTable p i = some x) :
    capWriteKind i = .store := by
  cases i with
  | amoswapC => exact nomatch h
  | _ => rfl

/-- Where the checks of a capability-wide store stop, the instruction does. -/
theorem stopsAs_capWriteChecked (s : State) (i : Instr) (rs2 rs1 : Reg) (off : Word) (h : capWriteTable s i = some (rs2, rs1, off))
    (hready : s.ready i) : s.StopsAs i (s.capWriteChecked (s.authEa rs1 off).1 (s.authEa rs1 off).2 (s.rc rs2) (capWriteKind i)) := by
  obtain ⟨len, chk, htable⟩ | ⟨rd, aq, rl, rfl, rfl⟩ | ⟨rd, aq, rl, rfl, rfl⟩ | ⟨hmode, rfl, rfl, l, e, rest, rfl, hl⟩ :=
    capWriteTable_cases s i rs2 rs1 off h
  · rw [capWriteKind_of_capStoreTable _ i _ htable]
    exact (State.StopsAs.of_run (exec_of_capStoreTable s i rs2 rs1 off len chk htable hready)).fst.fst
  · exact (State.StopsAs.of_run (exec_amoswapC s rd rs1 rs2 aq rl hready)).fst.fst
  · exact (State.StopsAs.of_run (exec_scC s rd rs1 rs2 aq rl hready)).fst
  · have first := stopsAs_push s l e rs2 rest hl
    rw [State.pushOne, if_pos hmode] at first
    exact first.fst.fst

/-! ## The store itself -/

theorem capWritePath_of_checked (s : State) (auth : Cap) (ea : Word) (v : Cap) (kind : Acc) (w : CapWrite)
    (h : s.capWriteChecked auth ea v kind = .ok w) (ht : w.val.tag = true → Params.isTaggable s.cfg w.pa = true) :
    s.tagRule ea w = .ok w ∧ s.capWritePath auth ea v kind = .ok w := by
  have passes : s.tagRule ea w = .ok w := by
    unfold State.tagRule
    split
    · next hc =>
      obtain ⟨htag, hmain⟩ := Bool.and_eq_true_iff.1 hc
      rw [ht htag] at hmain
      exact nomatch hmain
    · rfl
  exact ⟨passes, by rw [State.capWritePath, h, Res.bind_ok, passes]⟩

theorem exec_capStore_of_checked (s : State) (i : Instr) (rs2 rs1 : Reg) (off : Word) (len : Nat) (chk : Bool) (w : CapWrite)
    (htable : capStoreTable s.cfg i = some (rs2, rs1, off, len, chk)) (hready : s.ready i)
    (h : s.capWritePath (s.authEa rs1 off).1 (s.authEa rs1 off).2 (s.rc rs2) .store = .ok w) : exec i s = .next ((s.putCap w).advance len) := by
  rw [exec_of_capStoreTable s i rs2 rs1 off len chk htable hready, State.capStore, h]
  rfl

theorem exec_amoswapC_of_checked (s : State) (rd rs1 rs2 : Reg) (aq rl : Bool) (w : CapWrite) (hready : s.ready (.amoswapC rd rs1 rs2 aq rl))
    (h : s.capWritePath (s.authEa rs1 0).1 (s.authEa rs1 0).2 (s.rc rs2) .atomic = .ok w) :
    exec (.amoswapC rd rs1 rs2 aq rl) s = .next (((s.putCap w).wc rd ((s.setCd w.cd).loadedCap (s.authEa rs1 0).1 w.pa)).advance 4) := by
  rw [exec_amoswapC s rd rs1 rs2 aq rl hready, State.amoswapCap, h]
  rfl

theorem exec_scC_reserved (s : State) (rd rs1 rs2 : Reg) (aq rl : Bool) (w : CapWrite) (hready : s.ready (.scC rd rs1 rs2 aq rl))
    (h : s.capWriteChecked (s.authEa rs1 0).1 (s.authEa rs1 0).2 (s.rc rs2) .store = .ok w) (ht : s.tagRule (s.authEa rs1 0).2 w = .ok w)
    (hr : (s.setCd w.cd).resv = some (w.pa, s.cfg.capBytes)) :
    exec (.scC rd rs1 rs2 aq rl) s = .next (({ s.putCap w with resv := none }.wx rd 0).advance 4) := by
  rw [exec_scC s rd rs1 rs2 aq rl hready, State.scCap, h, Res.bind_ok, if_pos hr, ht]
  rfl

theorem exec_scC_unreserved (s : State) (rd rs1 rs2 : Reg) (aq rl : Bool) (w : CapWrite) (hready : s.ready (.scC rd rs1 rs2 aq rl))
    (h : s.capWriteChecked (s.authEa rs1 0).1 (s.authEa rs1 0).2 (s.rc rs2) .store = .ok w)
    (hr : (s.setCd w.cd).resv ≠ some (w.pa, s.cfg.capBytes)) :
    exec (.scC rd rs1 rs2 aq rl) s = .next (({ s.setCd w.cd with resv := none }.wx rd 1).advance 4) := by
  rw [exec_scC s rd rs1 rs2 aq rl hready, State.scCap, h, Res.bind_ok, if_neg hr]
  rfl

/-- In Capability mode a stack pointer moved is `spAfter`, whatever was stored. -/
theorem spAdd_putCap (s : State) (w : CapWrite) (hmode : s.capMode = true) (d : Word) :
    (s.putCap w).spAdd spReg d = (s.putCap w).wc spReg (s.spAfter d) := by
  have sp : (s.putCap w).rc spReg = s.rc spReg := by simp [State.rc]
  rw [State.spAdd, putCap_capMode, if_pos hmode, sp, putCap_cfg, State.spAfter, if_pos hmode]
  rfl

/-- CM.PUSH of the list of ra alone. -/
theorem exec_cmPush_one (s : State) (e : BitVec 2) (w : CapWrite) (hmode : s.capMode = true)
    (h : s.capWritePath (s.authEa spReg (0 - BitVec.ofNat 64 s.slot)).1 (s.authEa spReg (0 - BitVec.ofNat 64 s.slot)).2 (s.rc 1) .store = .ok w) :
    exec (.cmPush 4 e) s =
      .next (((s.putCap w).wc 2 (s.spAfter (0 - BitVec.ofNat 64 ((s.slot + 15) / 16 * 16 + 16 * e.toNat)))).advance 2) := by
  have pushed : s.pushOne 1 (0 - BitVec.ofNat 64 s.slot) = .ok (s.putCap w) := by rw [State.pushOne, if_pos hmode, h, Res.bind_ok]
  have frame : pushAll (rlistDown 4) 0 s = .done (s.putCap w) := pushAll_cons_ok 1 [] 0 s _ pushed
  have adj : s.stackAdj 4 e = (s.slot + 15) / 16 * 16 + 16 * e.toNat := by
    rw [State.stackAdj, show rlistCount 4 = 1 from rfl, one_mul]
  change execCmPush 4 e s = _
  rw [execCmPush, frame, adj]
  exact congrArg (fun t => Host.Outcome.next (State.advance t 2)) (spAdd_putCap s w hmode _)

/-- What each capability-wide store does, from what its checks leave to be done. -/
theorem stores_of_checked (s t : State) (i : Instr) (rs2 rs1 : Reg) (off : Word) (w : CapWrite) (htable : capWriteTable s i = some (rs2, rs1, off))
    (hready : s.ready i)
    (h : s.capWriteChecked (s.authEa rs1 off).1 (s.authEa rs1 off).2 (s.rc rs2) (capWriteKind i) = .ok w)
    (ht : w.val.tag = true → Params.isTaggable s.cfg w.pa = true) (hcd : s.setCd w.cd = t) :
    (∀ len chk, capStoreTable s.cfg i = some (rs2, rs1, off, len, chk) → exec i s = .next ((t.writeCap w.pa w.val).advance len)) ∧
    (∀ rd aq rl, i = .amoswapC rd rs1 rs2 aq rl →
      exec i s = .next (((t.writeCap w.pa w.val).wc rd (t.loadedCap (s.authEa rs1 off).1 w.pa)).advance 4)) ∧
    (∀ rd aq rl, i = .scC rd rs1 rs2 aq rl →
      (t.resv = some (w.pa, s.cfg.capBytes) → exec i s = .next (({ t.writeCap w.pa w.val with resv := none }.wx rd 0).advance 4)) ∧
      (t.resv ≠ some (w.pa, s.cfg.capBytes) → exec i s = .next (({ t with resv := none }.wx rd 1).advance 4))) ∧
    ∀ e, i = .cmPush 4 e →
      exec i s = .next (((t.writeCap w.pa w.val).wc 2 (s.spAfter (0 - BitVec.ofNat 64 ((s.slot + 15) / 16 * 16 + 16 * e.toNat)))).advance 2) := by
  subst hcd
  obtain ⟨htag, hpath⟩ := capWritePath_of_checked s _ _ _ _ w h ht
  refine ⟨fun len chk hs => ?store, fun rd aq rl hi => ?swap, fun rd aq rl hi => ?conditional, fun e hi => ?push⟩
  case store =>
    rw [capWriteKind_of_capStoreTable _ i _ hs] at hpath
    exact exec_capStore_of_checked s i rs2 rs1 off len chk w hs hready hpath
  case swap =>
    subst hi
    cases htable
    exact exec_amoswapC_of_checked s rd rs1 rs2 aq rl w hready hpath
  case conditional =>
    subst hi
    cases htable
    exact ⟨exec_scC_reserved s rd rs1 rs2 aq rl w hready h htag, exec_scC_unreserved s rd rs1 rs2 aq rl w hready h⟩
  case push =>
    obtain ⟨len, chk, hs⟩ | ⟨rd, aq, rl, hx, -⟩ | ⟨rd, aq, rl, hx, -⟩ | ⟨hmode, rfl, rfl, l, e', rest, hx, hl⟩ :=
      capWriteTable_cases s i rs2 rs1 off htable
    · subst hi
      exact nomatch hs
    · exact nomatch hi.symm.trans hx
    · exact nomatch hi.symm.trans hx
    · subst hi
      cases hx
      cases (hl : [1] = rs2 :: rest)
      exact exec_cmPush_one s e w hmode hpath

/-- A value that may keep its tag. -/
theorem keepTag_true (k : Cap) : k.keepTag true = k := congrArg (fun t => Cap.mk t k.md k.addr) (Bool.and_true _)

theorem keepTag_false (k : Cap) : k.keepTag false = { k with tag := false } := congrArg (fun t => Cap.mk t k.md k.addr) (Bool.and_false _)

/-- Settles O36: what the rules make of the leaf entry decides what the checks leave to be done. -/
theorem capabilityPageRules : Obligations.CapabilityPageRules := by
  unfold Obligations.CapabilityPageRules
  intro i s rs2 rs1 off pa pteAddr pte htable hready auth ea u kind v wc marked hpermits haligned htrans hpages hmapped
  have paged : s.PagedStore auth ea (capWriteKind i) pa (pteAddr, pte) := ⟨hpermits, haligned, htrans, hpages, hmapped⟩
  have stops := stopsAs_capWriteChecked s i rs2 rs1 off htable hready
  have rule := cwRule_of_cwPages s auth ea pteAddr pte (v.keepTag (grantsWC s.cfg auth)) hpages
  refine ⟨fun h59 hp hwc => ?cwFault, fun h59 h60 hcde hwc ht hhw => ?cdFault, fun t k h => ?stored⟩
  case cwFault =>
    rw [cwCd_cwClear_fault s auth ea pte _ h59 hp hwc] at rule
    exact stops.exc _ (paged.capWriteChecked_exc _ rule)
  case cdFault =>
    have kept : (v.keepTag (grantsWC s.cfg auth)).tag = true := Bool.and_eq_true_iff.2 ⟨ht, hwc⟩
    rw [cwCd_cdClear s auth ea pte _ h59 h60 hcde hwc kept, hhw] at rule
    exact stops.exc _ (paged.capWriteChecked_exc _ rule)
  case stored =>
    obtain ⟨h59, hp, same, stored⟩ | ⟨h59, h60, hcde, hwc, ht, hhw, hmain, hcur, rfl, rfl⟩ := h
    · rw [same, stored]
      have stripped : (v.keepTag (grantsWC s.cfg auth)).keepTag false = { v with tag := false } := keepTag_false _
      rw [cwCd_cwClear_strip s auth ea pte _ h59 hp, stripped] at rule
      exact stores_of_checked s s i rs2 rs1 off _ htable hready (paged.capWriteChecked_unmarked _ rule) (fun e => nomatch e) rfl
    · have granted : grantsWC s.cfg auth = true := hwc
      rw [granted, keepTag_true, cwCd_cdClear s auth ea pte _ h59 h60 hcde granted ht, hhw] at rule
      refine stores_of_checked s marked i rs2 rs1 off ⟨pa, v, some (pteAddr, putBit pte 60 true)⟩ htable hready ?_ (fun _ => hmain) rfl
      exact paged.capWriteChecked_marked _ _ (by rw [granted, keepTag_true]; exact rule) hcur

end Sys2Proof.Machine
end

section
/-!
PROOFS. Where memory accesses fault (20_memory R105, R106; 60_exceptions R367 to R369).
-/
namespace Sys2Proof.Machine
open Sys2Proof

/-! ## The checks that fail -/

theorem bpCheck_of_haltHit (s : State) (kind : Acc) (a : Word) (h : s.haltHit kind a = true) : s.bpCheck kind a = .halt := if_pos h

theorem bpCheck_of_bpHit (s : State) (kind : Acc) (a : Word) (hh : s.haltHit kind a = false) (hb : s.bpHit kind a = true) :
    s.bpCheck kind a = .exc ⟨3, a⟩ := by
  rw [State.bpCheck, hh, if_neg Bool.false_ne_true, hb]
  rfl

theorem checkData_untagged (s : State) (auth : Cap) (ea : Word) (n : Nat) (kind : Acc) (ht : auth.tag = false) :
    s.checkData auth ea n kind = .exc ⟨28, 0x10000⟩ := by
  rw [State.checkData, ht]
  rfl

theorem checkData_sealed (s : State) (auth : Cap) (ea : Word) (n : Nat) (kind : Acc) (ht : auth.tag = true) (hs : auth.s s.cfg = true) :
    s.checkData auth ea n kind = .exc ⟨28, 0x10001⟩ := by
  rw [State.checkData, ht, hs]
  rfl

/-- R- and W-permission, each asked for by the kinds of access that need it. -/
theorem checkData_unpermitted (s : State) (auth : Cap) (ea : Word) (n : Nat) (kind : Acc) (hk : kind ≠ .fetch) (ht : auth.tag = true)
    (hs : auth.s s.cfg = false)
    (hp : ((!decide (kind ≠ .store) || (auth.perms s.cfg).r) && (!decide (kind ≠ .load) || (auth.perms s.cfg).w)) = false) :
    s.checkData auth ea n kind = .exc ⟨28, 0x10002⟩ := by
  rw [State.checkData, ht, hs]
  cases kind with
  | fetch => exact absurd rfl hk
  | load =>
    have hr : (auth.perms s.cfg).r = false := by simpa using hp
    rw [hr]
    rfl
  | store =>
    have hw : (auth.perms s.cfg).w = false := by simpa using hp
    rw [hw]
    rfl
  | atomic =>
    cases hr : (auth.perms s.cfg).r with
    | false => rfl
    | true =>
      have hw : (auth.perms s.cfg).w = false := by simpa [hr] using hp
      rw [hw]
      rfl

theorem checkData_uncovered (s : State) (auth : Cap) (ea : Word) (n : Nat) (kind : Acc) (hk : kind ≠ .fetch) (ht : auth.tag = true)
    (hs : auth.s s.cfg = false)
    (hp : ((!decide (kind ≠ .store) || (auth.perms s.cfg).r) && (!decide (kind ≠ .load) || (auth.perms s.cfg).w)) = true)
    (hc : s.covers auth ea n = false) : s.checkData auth ea n kind = .exc ⟨28, 0x10003⟩ := by
  obtain ⟨hr, hw⟩ := Bool.and_eq_true_iff.1 hp
  rw [State.checkData, ht, hs, hc]
  cases kind with
  | fetch => exact absurd rfl hk
  | load => rw [show (auth.perms s.cfg).r = true from hr]; rfl
  | store => rw [show (auth.perms s.cfg).w = true from hw]; rfl
  | atomic => rw [show (auth.perms s.cfg).r = true from hr, show (auth.perms s.cfg).w = true from hw]; rfl

/-- A misaligned address, where misaligned accesses of the kind are not supported. -/
theorem alignCheck_misaligned (p : Params) (ea : Word) (n : Nat) (kind : Acc) (al : Align) (ha : ea.toNat % n ≠ 0)
    (hal : al = .plain → p.misalignedIntOk = false) :
    alignCheck p ea n kind al = .exc ⟨if al = .zam ∧ p.hasZam = false then kind.accessFault else kind.misaligned, ea⟩ := by
  unfold alignCheck
  rw [if_neg ha]
  cases al with
  | plain => rw [hal rfl]; rfl
  | strict => rfl
  | zam => cases p.hasZam <;> rfl

/-! ## Translation that fails (log 12) -/

/-- A page fault or an access fault at the address. -/
def Exc.FaultsAt (e : Exc) (kind : Acc) (va : Word) : Prop := e.tval = va ∧ (e.code = kind.pageFault ∨ e.code = kind.accessFault)

theorem faultsAt_pageFault (kind : Acc) (va : Word) : (Exc.mk kind.pageFault va).FaultsAt kind va := ⟨rfl, .inl rfl⟩

theorem faultsAt_accessFault (kind : Acc) (va : Word) : (Exc.mk kind.accessFault va).FaultsAt kind va := ⟨rfl, .inr rfl⟩

theorem useLeaf_exc (s : State) (kind : Acc) (q : Priv) (va : Word) (m : SvMode) (l : Leaf) (e : Exc) (h : s.useLeaf kind q va m l = .exc e) :
    e.FaultsAt kind va := by
  unfold State.useLeaf at h
  split at h
  · exact Res.exc.inj h ▸ faultsAt_pageFault kind va
  · exact nomatch h

theorem translateAs_exc (s : State) (q : Priv) (kind : Acc) (va : Word) (e : Exc) (h : s.translateAs q kind va = .exc e) :
    e.FaultsAt kind va := by
  unfold State.translateAs State.leafOf at h
  split at h
  · exact nomatch h
  · next m root _ =>
    split at h
    · split at h
      · exact useLeaf_exc s kind q va m _ e h
      · obtain ⟨l, hw⟩ | hw | hw := walk_cases s kind va m m.levels root false <;> rw [hw] at h
        · exact useLeaf_exc s kind q va m l e h
        · exact Res.exc.inj h ▸ faultsAt_pageFault kind va
        · exact Res.exc.inj h ▸ faultsAt_accessFault kind va
    · exact Res.exc.inj h ▸ faultsAt_pageFault kind va

theorem Res.bind_eq_exc {α β : Type} (r : Res α) (f : α → Res β) (e : Exc) : r.bind f = .exc e ↔ r = .exc e ∨ ∃ a, r = .ok a ∧ f a = .exc e := by
  cases r <;> simp

theorem Res.reportAt_eq_exc {α : Type} (r : Res α) (v : Word) (e : Exc) (h : r.reportAt v = .exc e) :
    ∃ x, r = .exc x ∧ e = { x with tval := v } := by
  cases r with
  | exc x => exact ⟨x, rfl, (Res.exc.inj h).symm⟩
  | ok a => exact nomatch h
  | halt => exact nomatch h

theorem pmaCheck_eq_exc (p : Params) (kind : Acc) (va : Word) (as : List Nat) (e : Exc) (h : pmaCheck p kind va as = .exc e) :
    e = ⟨kind.accessFault, va⟩ := by
  rw [pmaCheck] at h
  cases hb : as.all (Params.isMapped p) with
  | true => rw [hb] at h; exact nomatch h
  | false => rw [hb] at h; exact (Res.exc.inj h).symm

/-- A vacant byte. -/
theorem pmaCheck_vacant (p : Params) (kind : Acc) (va : Word) (as : List Nat) (a : Nat) (ha : a ∈ as) (h : Params.isMapped p a = false) :
    pmaCheck p kind va as = .exc ⟨kind.accessFault, va⟩ := by
  have : as.all (Params.isMapped p) = false := List.all_eq_false.2 ⟨a, ha, by simp [h]⟩
  rw [pmaCheck, this]
  rfl

/-- Byte by byte, the exception reports the address of the access (log 33). -/
theorem translateBytes_exc (s : State) (kind : Acc) (ea : Word) (i n : Nat) (e : Exc) (h : s.translateBytes kind ea i n = .exc e) :
    e.FaultsAt kind ea := by
  induction n generalizing i with
  | zero => exact nomatch h
  | succ n ih =>
    obtain ht | ⟨x, -, h⟩ := (Res.bind_eq_exc _ _ _).1 h
    · obtain ⟨y, hy, rfl⟩ := Res.reportAt_eq_exc _ _ _ ht
      exact ⟨rfl, (translateAs_exc s _ kind _ y hy).2⟩
    · obtain hp | ⟨-, -, h⟩ := (Res.bind_eq_exc _ _ _).1 h
      · exact pmaCheck_eq_exc _ _ _ _ _ hp ▸ faultsAt_accessFault kind ea
      · obtain hr | ⟨r, -, hn⟩ := (Res.bind_eq_exc _ _ _).1 h
        · exact ih _ hr
        · exact nomatch hn

theorem translate_invalid (s : State) (kind : Acc) (ea : Word) (m : SvMode) (root : Nat) (hsv : s.svMode s.effPriv = some (m, root))
    (hv : m.valid ea = false) : s.translate kind ea = .exc ⟨kind.pageFault, ea⟩ := by
  rw [State.translate, State.translateAs, hsv]
  exact if_neg (by rw [hv]; exact Bool.false_ne_true)

/-- With no translation cached, what the walk raises. -/
theorem translate_of_walk_exc (s : State) (kind : Acc) (ea : Word) (m : SvMode) (root : Nat) (e : Exc) (hsv : s.svMode s.effPriv = some (m, root))
    (hv : m.valid ea = true) (hc : s.cachedLeaf m ea = none) (hw : s.walk kind ea m m.levels root false = .exc e) :
    s.translate kind ea = .exc e := by
  rw [State.translate, State.translateAs, hsv]
  refine (if_pos hv).trans ?_
  rw [leafOf_of_uncached s kind ea m root hc, hw, Res.bind_exc]

theorem levels_of_svMode (s : State) (q : Priv) (m : SvMode) (root : Nat) (h : s.svMode q = some (m, root)) : ∃ l, m.levels = l + 1 := by
  unfold State.svMode at h
  simp only at h
  split_ifs at h <;> cases h <;> exact ⟨_, rfl⟩

/-- The first step of the walk reads the entry of the root table. -/
theorem walk_root (s : State) (kind : Acc) (va : Word) (m : SvMode) (l root : Nat) (hl : m.levels = l + 1) :
    s.walk kind va m m.levels root false = (pmaCheck s.cfg kind va (rootEntry m root va)).bind fun _ =>
      let pte := s.entryAt (rootEntry m root va)
      let leaf := pte.getLsbD 1 || pte.getLsbD 3
      if pteBad s.cfg m leaf pte then .exc ⟨kind.pageFault, va⟩
      else if !leaf then s.walk kind va m l (m.ppn pte * 4096) (false || pte.getLsbD 5)
      else .ok ⟨l, root + va.toNat / 2 ^ (12 + l * m.vpnBits) % 2 ^ m.vpnBits * m.pteBytes, pte, false || pte.getLsbD 5⟩ := by
  have entry : rootEntry m root va = span (root + va.toNat / 2 ^ (12 + l * m.vpnBits) % 2 ^ m.vpnBits * m.pteBytes) m.pteBytes := by
    rw [rootEntry, hl, Nat.add_sub_cancel]
  rw [hl, entry, State.walk, bitsOf_eq_div_mod]
  rfl

theorem walk_root_vacant (s : State) (kind : Acc) (va : Word) (m : SvMode) (l root a : Nat) (hl : m.levels = l + 1) (ha : a ∈ rootEntry m root va)
    (h : Params.isMapped s.cfg a = false) : s.walk kind va m m.levels root false = .exc ⟨kind.accessFault, va⟩ := by
  rw [walk_root s kind va m l root hl, pmaCheck_vacant _ _ _ _ a ha h, Res.bind_exc]

theorem walk_root_invalid (s : State) (kind : Acc) (va : Word) (m : SvMode) (l root : Nat) (hl : m.levels = l + 1)
    (hm : ∀ a ∈ rootEntry m root va, Params.isMapped s.cfg a = true) (h : (s.entryAt (rootEntry m root va)).getLsbD 0 = false) :
    s.walk kind va m m.levels root false = .exc ⟨kind.pageFault, va⟩ := by
  have bad (leaf : Bool) : pteBad s.cfg m leaf (s.entryAt (rootEntry m root va)) = true := by
    rw [pteBad, h]
    rfl
  rw [walk_root s kind va m l root hl, (pmaCheck_eq_ok _ _ _ _ ()).2 hm, Res.bind_ok]
  exact if_pos (bad _)

/-! ## The path of an access that fails -/

section
variable (s : State) (auth : Cap) (ea : Word) (n : Nat) (kind : Acc) (al : Align)

theorem dataPath_haltHit (h : s.haltHit kind ea = true) : s.dataPath auth ea n kind al = .halt := by
  rw [State.dataPath, bpCheck_of_haltHit s kind ea h, Res.bind_halt]

theorem dataPath_bpHit (hh : s.haltHit kind ea = false) (hb : s.bpHit kind ea = true) : s.dataPath auth ea n kind al = .exc ⟨3, ea⟩ := by
  rw [State.dataPath, bpCheck_of_bpHit s kind ea hh hb, Res.bind_exc]

theorem dataPath_checkData (e : Exc) (hb : s.bpHit kind ea = false) (h : s.checkData auth ea n kind = .exc e) :
    s.dataPath auth ea n kind al = .exc e := by
  rw [State.dataPath, (bpCheck_eq_ok s kind ea ()).2 hb, Res.bind_ok, h, Res.bind_exc]

theorem dataPath_of_permits (h : s.permits auth ea n kind) : s.dataPath auth ea n kind al = (alignCheck s.cfg ea n kind al).bind fun _ =>
    if ea.toNat % n = 0 then (s.translate kind ea).bind fun x => .ok ⟨span x.pa n, x.leaf⟩
    else (s.translateBytes kind ea 0 n).bind fun as => .ok ⟨as, none⟩ := by
  obtain ⟨hb, hdata⟩ := h
  rw [State.dataPath, (bpCheck_eq_ok s kind ea ()).2 hb, Res.bind_ok, (checkData_eq_ok s auth ea n kind ()).2 hdata, Res.bind_ok]

theorem dataPath_misaligned (h : s.permits auth ea n kind) (ha : ea.toNat % n ≠ 0) (hal : al = .plain → s.cfg.misalignedIntOk = false) :
    s.dataPath auth ea n kind al = .exc ⟨if al = .zam ∧ s.cfg.hasZam = false then kind.accessFault else kind.misaligned, ea⟩ := by
  rw [dataPath_of_permits s auth ea n kind al h, alignCheck_misaligned _ _ _ _ _ ha hal, Res.bind_exc]

theorem dataPath_translate_exc (e : Exc) (h : s.permits auth ea n kind) (ha : ea.toNat % n = 0) (ht : s.translate kind ea = .exc e) :
    s.dataPath auth ea n kind al = .exc e := by
  rw [dataPath_of_permits s auth ea n kind al h, (alignCheck_eq_ok _ _ _ _ _ ()).2 (.inl ha), Res.bind_ok, if_pos ha, ht, Res.bind_exc]

theorem dataPath_translateBytes_exc (e : Exc) (h : s.permits auth ea n kind) (ha : ea.toNat % n ≠ 0) (hal : al = .plain)
    (hm : s.cfg.misalignedIntOk = true) (ht : s.translateBytes kind ea 0 n = .exc e) : s.dataPath auth ea n kind al = .exc e := by
  rw [dataPath_of_permits s auth ea n kind al h, (alignCheck_eq_ok _ _ _ _ _ ()).2 (.inr ⟨hal, hm⟩), Res.bind_ok, if_neg ha, ht, Res.bind_exc]

end

/-! ## The instructions of the table -/

/-- The page rules let a capability-wide store go on. -/
def State.PagesQuiet (s : State) (leaf : Option (Nat × Word)) : Prop :=
  ∀ b pte, leaf = some (b, pte) → s.cwPages = true → pte.getLsbD 59 = true ∧ (s.cde = false ∨ pte.getLsbD 60 = true)

theorem cwRule_of_quiet (s : State) (auth : Cap) (ea : Word) (leaf : Option (Nat × Word)) (v : Cap) (h : s.PagesQuiet leaf) :
    s.cwRule auth ea leaf v = .ok (v, none) := by
  cases leaf with
  | none => rfl
  | some x =>
    obtain ⟨a, pte⟩ := x
    by_cases hp : s.cwPages = true
    · obtain ⟨h59, hcd⟩ := h a pte rfl hp
      have unused : ¬(s.cde && !pte.getLsbD 60 && grantsWC s.cfg auth && v.tag) = true := by
        rcases hcd with hcde | h60
        · rw [hcde]
          exact Bool.false_ne_true
        · rw [h60, Bool.not_true, Bool.and_false]
          exact Bool.false_ne_true
      rw [cwRule_of_cwPages s auth ea a pte v hp, State.cwCd, h59, if_neg (by decide), if_neg unused]
      rfl
    · exact if_neg hp

/-- A capability-wide store to vacant memory. -/
theorem capWriteChecked_vacant (s : State) (auth : Cap) (ea : Word) (v : Cap) (kind : Acc) (x : Path) (a : Nat)
    (hx : s.dataPath auth ea s.cfg.capBytes kind .strict = .ok x) (hq : s.PagesQuiet x.leaf) (ha : a ∈ x.bytes)
    (hm : Params.isMapped s.cfg a = false) : s.capWriteChecked auth ea v kind = .exc ⟨kind.accessFault, ea⟩ := by
  have rule := cwRule_of_quiet s auth ea x.leaf (v.keepTag (grantsWC s.cfg auth)) hq
  simp [State.capWriteChecked, hx, State.currentPath, State.setsCd, rule, pmaCheck_vacant _ _ _ _ a ha hm]

theorem dataAccess_vacant (s : State) (auth : Cap) (ea : Word) (n : Nat) (kind : Acc) (al : Align) (x : Path) (a : Nat)
    (hx : s.dataPath auth ea n kind al = .ok x) (ha : a ∈ x.bytes) (hm : Params.isMapped s.cfg a = false) :
    s.dataAccess auth ea n kind al = .exc ⟨kind.accessFault, ea⟩ := by
  rw [State.dataAccess, hx, Res.bind_ok, pmaCheck_vacant _ _ _ _ a ha hm, Res.bind_exc]

/-- The instruction stops where its access does; the page rules bear on a capability-wide store alone. -/
def State.Accesses (s : State) (i : Instr) (auth : Cap) (ea : Word) (n : Nat) (kind : Acc) (al : Align) : Prop :=
  s.StopsAs i (s.dataAccess auth ea n kind al) ∨
    (al = .strict ∧ kind ≠ .load ∧ n = s.cfg.capBytes ∧ ∃ v, s.StopsAs i (s.capWriteChecked auth ea v kind))

theorem State.Accesses.stopsAs {s : State} {i : Instr} {auth : Cap} {ea : Word} {n : Nat} {kind : Acc} {al : Align}
    (h : s.Accesses i auth ea n kind al) : s.StopsAs i (s.dataPath auth ea n kind al) := by
  obtain h | ⟨rfl, -, rfl, v, h⟩ := h
  · exact h.fst
  · exact h.fst

theorem State.Accesses.vacant {s : State} {i : Instr} {auth : Cap} {ea : Word} {n : Nat} {kind : Acc} {al : Align}
    (h : s.Accesses i auth ea n kind al) (x : Path) (a : Nat) (hx : s.dataPath auth ea n kind al = .ok x) (ha : a ∈ x.bytes)
    (hm : Params.isMapped s.cfg a = false) (hq : al = .strict → kind ≠ .load → s.PagesQuiet x.leaf) :
    exec i s = .next (takeException (s.unreserved i) ⟨kind.accessFault, ea⟩) := by
  obtain h | ⟨rfl, hk, rfl, v, h⟩ := h
  · exact h.exc _ (dataAccess_vacant s auth ea n kind al x a hx ha hm)
  · exact h.exc _ (capWriteChecked_vacant s auth ea v kind x a hx (hq rfl hk) ha hm)

theorem fpCheck_of_ready (s : State) (i : Instr) (h : s.ready i) (hf : (fpLoadTable i).isSome || (fpStoreTable i).isSome) :
    Res.check (!s.fsOff) illegal = .ok () := by
  refine (Res.check_eq_ok _ _ _).2 ?_
  rw [State.fsOff, bitsOf_two]
  simpa using h.fs hf

/-- The first store of a push: capability-wide in Capability mode, of the XLEN bits in Legacy mode. -/
theorem accesses_cmPush (s : State) (l : BitVec 4) (e : BitVec 2) (hl : 4 ≤ l.toNat) :
    s.Accesses (.cmPush l e) (s.authEa spReg (0 - BitVec.ofNat 64 s.slot)).1 (s.authEa spReg (0 - BitVec.ofNat 64 s.slot)).2 s.slot .store
      (if s.capMode then .strict else .plain) := by
  obtain ⟨b, rest, hb⟩ := rlistDown_eq_cons l hl
  have first := stopsAs_push s l e b rest hb
  unfold State.pushOne at first
  split at first
  · next hmode =>
    rw [if_pos hmode, State.slot, if_pos hmode] at *
    exact .inr ⟨rfl, nofun, rfl, _, first.fst.fst⟩
  · next hmode =>
    rw [if_neg hmode]
    exact .inl first.fst

/-- The first load of a frame. -/
theorem accesses_popFrame (s : State) (i : Instr) (l : BitVec 4) (e : BitVec 2) (g : State → Res State) (hl : 4 ≤ l.toNat)
    (hu : s.unreserved i = s) (hi : exec i s = ((s.popFrame l e).andThen g).run) :
    s.Accesses i (s.authEa spReg (BitVec.ofNat 64 (s.stackAdj l e) - BitVec.ofNat 64 s.slot)).1
      (s.authEa spReg (BitVec.ofNat 64 (s.stackAdj l e) - BitVec.ofNat 64 s.slot)).2 s.slot .load (if s.capMode then .strict else .plain) := by
  obtain ⟨b, rest, hb⟩ := rlistDown_eq_cons l hl
  have first := stopsAs_popFrame s i l e b rest g hb hu hi
  unfold State.popOne at first
  split at first
  · next hmode =>
    rw [if_pos hmode]
    have width : s.slot = s.cfg.capBytes := if_pos hmode
    rw [width] at first ⊢
    exact .inl first.fst.fst
  · next hmode =>
    rw [if_neg hmode]
    exact .inl first.fst.fst

/-- Every instruction of the table. -/
theorem accesses_of_accessTable (s : State) (i : Instr) (rs1 : Reg) (off : Word) (n : Nat) (kind : Acc) (al : Align)
    (h : accessTable s i = some (rs1, off, n, kind, al)) (hready : s.ready i) :
    kind ≠ .fetch ∧ s.Accesses i (s.authEa rs1 off).1 (s.authEa rs1 off).2 n kind al := by
  unfold accessTable at h
  obtain h | h := orElse_cases h
  · obtain ⟨⟨rd, a, o, w, sg, len⟩, htable, hx⟩ := Option.map_eq_some_iff.1 h
    cases hx
    exact ⟨nofun, .inl (State.StopsAs.of_run (exec_of_intLoadTable s i rd rs1 off n sg len htable)).fst.fst⟩
  obtain h | h := orElse_cases h
  · obtain ⟨⟨b, a, o, w, len⟩, htable, hx⟩ := Option.map_eq_some_iff.1 h
    cases hx
    exact ⟨nofun, .inl (State.StopsAs.of_run (exec_of_intStoreTable s i b rs1 off n len htable)).fst.fst⟩
  obtain h | h := orElse_cases h
  · obtain ⟨⟨rd, a, o, w, len⟩, htable, hx⟩ := Option.map_eq_some_iff.1 h
    cases hx
    have enabled := fpCheck_of_ready s i hready (by rw [htable]; rfl)
    exact ⟨nofun, .inl ((State.StopsAs.of_run (exec_of_fpLoadTable s i rd rs1 off n len htable)).snd enabled).fst.fst⟩
  obtain h | h := orElse_cases h
  · obtain ⟨⟨b, a, o, w, len⟩, htable, hx⟩ := Option.map_eq_some_iff.1 h
    cases hx
    have enabled := fpCheck_of_ready s i hready (by rw [htable]; exact Bool.or_true _)
    exact ⟨nofun, .inl ((State.StopsAs.of_run (exec_of_fpStoreTable s i b rs1 off n len htable)).snd enabled).fst.fst⟩
  obtain h | h := orElse_cases h
  · obtain ⟨⟨rd, a, o, len, chk⟩, htable, hx⟩ := Option.map_eq_some_iff.1 h
    cases hx
    exact ⟨nofun, .inl (State.StopsAs.of_run (exec_of_capLoadTable s i rd rs1 off len chk htable hready)).fst.fst⟩
  obtain h | h := orElse_cases h
  · obtain ⟨⟨b, a, o, len, chk⟩, htable, hx⟩ := Option.map_eq_some_iff.1 h
    cases hx
    exact ⟨nofun, .inr ⟨rfl, nofun, rfl, _, (State.StopsAs.of_run (exec_of_capStoreTable s i b rs1 off len chk htable hready)).fst.fst⟩⟩
  obtain h | h := orElse_cases h
  · obtain ⟨⟨rd, a, b, w, f⟩, htable, hx⟩ := Option.map_eq_some_iff.1 h
    cases hx
    obtain ⟨op, hexec⟩ := exec_of_amoTable s i rd rs1 b n f htable
    exact ⟨nofun, .inl (State.StopsAs.of_run hexec).fst⟩
  obtain h | h := orElse_cases h
  · obtain ⟨⟨rd, a, w⟩, htable, hx⟩ := Option.map_eq_some_iff.1 h
    cases hx
    exact ⟨nofun, .inl (State.StopsAs.of_run (exec_of_lrTable s i rd rs1 n htable)).fst⟩
  obtain h | h := orElse_cases h
  · obtain ⟨⟨rd, a, b, w⟩, htable, hx⟩ := Option.map_eq_some_iff.1 h
    cases hx
    exact ⟨nofun, .inl (State.StopsAs.of_run (exec_of_scTable s i rd rs1 b n htable)).fst⟩
  cases i with
  | amoswapC rd a b aq rl =>
    cases h
    exact ⟨nofun, .inr ⟨rfl, nofun, rfl, _, (State.StopsAs.of_run (exec_amoswapC s rd rs1 b aq rl hready)).fst.fst⟩⟩
  | lrC rd a aq rl =>
    cases h
    exact ⟨nofun, .inl (State.StopsAs.of_run (exec_lrC s rd rs1 aq rl hready)).fst.fst⟩
  | scC rd a b aq rl =>
    cases h
    exact ⟨nofun, .inr ⟨rfl, nofun, rfl, _, (State.StopsAs.of_run (exec_scC s rd rs1 b aq rl hready)).fst⟩⟩
  | cmPush l e =>
    obtain ⟨hl, hx⟩ := Option.ite_none_right_eq_some.1 h
    cases hx
    exact ⟨nofun, accesses_cmPush s l e hl⟩
  | cmPop l e =>
    obtain ⟨hl, hx⟩ := Option.ite_none_right_eq_some.1 h
    cases hx
    exact ⟨nofun, accesses_popFrame s _ l e _ hl rfl rfl⟩
  | cmPopret l e =>
    obtain ⟨hl, hx⟩ := Option.ite_none_right_eq_some.1 h
    cases hx
    exact ⟨nofun, accesses_popFrame s _ l e _ hl rfl (exec_cmPopret s l e hready)⟩
  | cmPopretz l e =>
    obtain ⟨hl, hx⟩ := Option.ite_none_right_eq_some.1 h
    cases hx
    exact ⟨nofun, accesses_popFrame s _ l e _ hl rfl (exec_cmPopretz s l e hready)⟩
  | _ => exact nomatch h

/-! ## The obligation -/

theorem misaligned_of_ne_fetch (kind : Acc) (h : kind ≠ .fetch) : kind.misaligned = if kind = .load then 4 else 6 := by
  cases kind with
  | fetch => exact absurd rfl h
  | load | store | atomic => rfl

theorem accessFault_of_ne_fetch (kind : Acc) (h : kind ≠ .fetch) : kind.accessFault = if kind = .load then 5 else 7 := by
  cases kind with
  | fetch => exact absurd rfl h
  | load | store | atomic => rfl

theorem pageFault_of_ne_fetch (kind : Acc) (h : kind ≠ .fetch) : kind.pageFault = if kind = .load then 13 else 15 := by
  cases kind with
  | fetch => exact absurd rfl h
  | load | store | atomic => rfl

/-- Settles O33: the first check that fails stops the access, and with it the instruction. -/
theorem loadStoreFaults : Obligations.LoadStoreFaults := by
  unfold Obligations.LoadStoreFaults
  intro i s rs1 off n kind al htable hready auth ea u rd wr perm misaligned accessFault pageFault
  obtain ⟨hk, hacc⟩ := accesses_of_accessTable s i rs1 off n kind al htable hready
  have stops : s.StopsAs i (s.dataPath auth ea n kind al) := hacc.stopsAs
  have hmis : kind.misaligned = misaligned := misaligned_of_ne_fetch kind hk
  have hfault : kind.accessFault = accessFault := accessFault_of_ne_fetch kind hk
  have hpage : kind.pageFault = pageFault := pageFault_of_ne_fetch kind hk
  refine ⟨fun hh => ?halted, fun hh hb => ?breakpoint, fun hb ht => ?untagged, fun hb ht hs => ?sealed_, fun hb ht hs hp => ?unpermitted,
    fun hb ht hs hp hc => ?uncovered, fun hp => ⟨fun ha hal => ?misaligned, fun e he => ?translation, fun ha => ⟨fun m root hsv => ⟨fun hv => ?invalid,
      fun hv hc ⟨a, hmem, hm⟩ => ?rootVacant, fun hv hc hm h0 => ?rootInvalid⟩, fun x a hx hmem hm hq => ?vacant⟩⟩⟩
  case halted => exact stops.halt (dataPath_haltHit s auth ea n kind al hh)
  case breakpoint => exact stops.exc _ (dataPath_bpHit s auth ea n kind al hh hb)
  case untagged => exact stops.exc _ (dataPath_checkData s auth ea n kind al _ hb (checkData_untagged s auth ea n kind ht))
  case sealed_ => exact stops.exc _ (dataPath_checkData s auth ea n kind al _ hb (checkData_sealed s auth ea n kind ht hs))
  case unpermitted => exact stops.exc _ (dataPath_checkData s auth ea n kind al _ hb (checkData_unpermitted s auth ea n kind hk ht hs hp))
  case uncovered => exact stops.exc _ (dataPath_checkData s auth ea n kind al _ hb (checkData_uncovered s auth ea n kind hk ht hs hp hc))
  case misaligned =>
    rw [← hmis, ← hfault]
    exact stops.exc _ (dataPath_misaligned s auth ea n kind al hp ha hal)
  case translation =>
    rw [← hpage, ← hfault]
    obtain ⟨ha, ht⟩ | ⟨ha, hal, hmo, ht⟩ := he
    · obtain ⟨htval, hcode⟩ := translateAs_exc s _ kind ea e ht
      exact ⟨htval, hcode, stops.exc e (dataPath_translate_exc s auth ea n kind al e hp ha ht)⟩
    · obtain ⟨htval, hcode⟩ := translateBytes_exc s kind ea 0 n e ht
      exact ⟨htval, hcode, stops.exc e (dataPath_translateBytes_exc s auth ea n kind al e hp ha hal hmo ht)⟩
  case invalid =>
    rw [← hpage]
    exact stops.exc _ (dataPath_translate_exc s auth ea n kind al _ hp ha (translate_invalid s kind ea m root hsv hv))
  case rootVacant =>
    rw [← hfault]
    obtain ⟨l, hl⟩ := levels_of_svMode s _ m root hsv
    have walked := walk_root_vacant s kind ea m l root a hl hmem hm
    exact stops.exc _ (dataPath_translate_exc s auth ea n kind al _ hp ha (translate_of_walk_exc s kind ea m root _ hsv hv hc walked))
  case rootInvalid =>
    rw [← hpage]
    obtain ⟨l, hl⟩ := levels_of_svMode s _ m root hsv
    have walked := walk_root_invalid s kind ea m l root hl hm h0
    exact stops.exc _ (dataPath_translate_exc s auth ea n kind al _ hp ha (translate_of_walk_exc s kind ea m root _ hsv hv hc walked))
  case vacant =>
    rw [← hfault]
    have path : s.dataPath auth ea n kind al = .ok ⟨span x.pa n, x.leaf⟩ := (dataPath_eq_ok ..).2 ⟨hp, .inl ⟨ha, x, hx, rfl⟩⟩
    exact hacc.vacant _ a path hmem hm hq

end Sys2Proof.Machine
end

section
/-!
PROOFS. The formats of the 32-bit encodings (30_encoding R132, R133, R135): a word is the encoding of a format exactly when its fields are the given ones.
-/
namespace Sys2Proof

/-! ## Concatenations and fields -/

theorem eq_append_iff (m n : Nat) (x : BitVec m) (y : BitVec n) (w : BitVec (m + n)) :
    w = x ++ y ↔ w.extractLsb' n m = x ∧ w.extractLsb' 0 n = y := by
  constructor
  · rintro rfl
    exact ⟨BitVec.extractLsb'_append_eq_left, BitVec.extractLsb'_append_eq_right⟩
  · rintro ⟨rfl, rfl⟩
    exact BitVec.extractLsb'_append_extractLsb'.symm

theorem extractLsb'_extractLsb' {k : Nat} (w : BitVec k) (i n j m : Nat) (h : j + m ≤ n) :
    (w.extractLsb' i n).extractLsb' j m = w.extractLsb' (i + j) m := by
  ext l hl
  simp [show j + l < n by omega, Nat.add_assoc]

theorem extractLsb'_eq_ofBool_iff {k : Nat} (w : BitVec k) (i : Nat) (b : Bool) : w.extractLsb' i 1 = BitVec.ofBool b ↔ w.getLsbD i = b := by
  constructor
  · intro h
    simpa using congrArg (·.getLsbD 0) h
  · rintro rfl
    ext l hl
    simp [show l = 0 by omega]

/-! ## The formats -/

section
variable (w : BitVec 32) (a b d : Reg) (f3 : BitVec 3) (f7 op : BitVec 7)

theorem word_eq_encR_iff : .word w = encR f7 b a f3 d op ↔ fF7 w = f7 ∧ fRs2 w = b ∧ fRs1 w = a ∧ fF3 w = f3 ∧ fRd w = d ∧ opc w = op := by
  simp only [encR, Enc.word.injEq, eq_append_iff 7 25, eq_append_iff 5 20, eq_append_iff 5 15, eq_append_iff 3 12, eq_append_iff 5 7,
    extractLsb'_extractLsb', Nat.reduceLeDiff, Nat.reduceAdd]
  rfl

theorem word_eq_encI_iff (imm : BitVec 12) :
    .word w = encI imm a f3 d op ↔ immI w = imm ∧ fRs1 w = a ∧ fF3 w = f3 ∧ fRd w = d ∧ opc w = op := by
  simp only [encI, Enc.word.injEq, eq_append_iff 12 20, eq_append_iff 5 15, eq_append_iff 3 12, eq_append_iff 5 7, extractLsb'_extractLsb',
    Nat.reduceLeDiff, Nat.reduceAdd]
  rfl

theorem word_eq_encS_iff (imm : BitVec 12) :
    .word w = encS imm b a f3 op ↔ immS w = imm ∧ fRs2 w = b ∧ fRs1 w = a ∧ fF3 w = f3 ∧ opc w = op := by
  rw [eq_comm (a := immS w)]
  simp only [encS, immS, fF7, fRs2, fRs1, fF3, fRd, opc, Enc.word.injEq, eq_append_iff 7 25, eq_append_iff 5 20, eq_append_iff 5 15, eq_append_iff 3 12,
    eq_append_iff 5 7, eq_append_iff 7 5, extractLsb'_extractLsb', Nat.reduceLeDiff, Nat.reduceAdd, eq_comm (b := BitVec.extractLsb' _ _ imm)]
  tauto

theorem word_eq_encB_iff (off : BitVec 12) :
    .word w = encB off b a f3 ↔ offB w = off ∧ fRs2 w = b ∧ fRs1 w = a ∧ fF3 w = f3 ∧ opc w = 0x63 := by
  rw [eq_comm (a := offB w)]
  simp only [encB, offB, fRs2, fRs1, fF3, opc, Enc.word.injEq, eq_append_iff 1 31, eq_append_iff 6 25, eq_append_iff 5 20, eq_append_iff 5 15,
    eq_append_iff 3 12, eq_append_iff 4 8, eq_append_iff 1 7, eq_append_iff 1 11, eq_append_iff 1 10, eq_append_iff 6 4, extractLsb'_extractLsb',
    Nat.reduceLeDiff, Nat.reduceAdd, eq_comm (b := BitVec.extractLsb' _ _ off)]
  tauto

theorem word_eq_encU_iff (imm : BitVec 20) : .word w = encU imm d op ↔ immU w = imm ∧ fRd w = d ∧ opc w = op := by
  simp only [encU, Enc.word.injEq, eq_append_iff 20 12, eq_append_iff 5 7, extractLsb'_extractLsb', Nat.reduceLeDiff, Nat.reduceAdd]
  rfl

theorem word_eq_encJ_iff (off : BitVec 20) : .word w = encJ off d ↔ offJ w = off ∧ fRd w = d ∧ opc w = 0x6F := by
  rw [eq_comm (a := offJ w)]
  simp only [encJ, offJ, fRd, opc, Enc.word.injEq, eq_append_iff 1 31, eq_append_iff 10 21, eq_append_iff 1 20, eq_append_iff 8 12, eq_append_iff 5 7,
    eq_append_iff 1 19, eq_append_iff 8 11, eq_append_iff 1 10, extractLsb'_extractLsb', Nat.reduceLeDiff, Nat.reduceAdd,
    eq_comm (b := BitVec.extractLsb' _ _ off)]
  tauto

theorem word_eq_encSh_iff (f6 sh : BitVec 6) :
    .word w = encSh f6 sh a f3 d op ↔ fF6 w = f6 ∧ fShamt w = sh ∧ fRs1 w = a ∧ fF3 w = f3 ∧ fRd w = d ∧ opc w = op := by
  simp only [encSh, Enc.word.injEq, eq_append_iff 6 26, eq_append_iff 6 20, eq_append_iff 5 15, eq_append_iff 3 12, eq_append_iff 5 7,
    extractLsb'_extractLsb', Nat.reduceLeDiff, Nat.reduceAdd]
  rfl

theorem word_eq_encA_iff (f5 : BitVec 5) (q r : Bool) :
    .word w = encA f5 q r b a f3 d ↔
      fF5 w = f5 ∧ w.getLsbD 26 = q ∧ w.getLsbD 25 = r ∧ fRs2 w = b ∧ fRs1 w = a ∧ fF3 w = f3 ∧ fRd w = d ∧ opc w = 0x2F := by
  simp only [encA, Enc.word.injEq, eq_append_iff 5 27, eq_append_iff 1 26, eq_append_iff 1 25, eq_append_iff 5 20, eq_append_iff 5 15,
    eq_append_iff 3 12, eq_append_iff 5 7, extractLsb'_extractLsb', extractLsb'_eq_ofBool_iff, Nat.reduceLeDiff, Nat.reduceAdd]
  rfl

/-! ## Fields within fields -/

theorem fShamt_eq_append_iff (s : Bool) (i : BitVec 5) : fShamt w = BitVec.ofBool s ++ i ↔ w.getLsbD 25 = s ∧ fRs2 w = i := by
  rw [eq_append_iff 1 5, fShamt, extractLsb'_extractLsb' _ _ _ _ _ (by decide), extractLsb'_extractLsb' _ _ _ _ _ (by decide),
    extractLsb'_eq_ofBool_iff]
  rfl

theorem immI_eq_append_iff (k : BitVec 5) : immI w = f7 ++ k ↔ fF7 w = f7 ∧ fRs2 w = k := by
  rw [eq_append_iff 7 5, immI, extractLsb'_extractLsb' _ _ _ _ _ (by decide), extractLsb'_extractLsb' _ _ _ _ _ (by decide)]
  rfl

theorem fF6_eq : fF6 w = (fF7 w).extractLsb' 1 6 := (extractLsb'_extractLsb' w 25 7 1 6 (by decide)).symm

theorem low_immI : (immI w).extractLsb' 0 5 = fRs2 w := extractLsb'_extractLsb' w 20 12 0 5 (by decide)

end

end Sys2Proof
end

section
/-!
PROOFS. A word that decodes is the encoding of the instruction it decodes to: each row of a table of the decoder names the fields that the encoder writes there.
-/
namespace Sys2Proof

/-! ## What a decoder's table gives -/

/-- Whatever instruction a part of the decoder gives has the property. -/
def Gives (P : Instr → Prop) (o : Option Instr) : Prop := ∀ i, o = some i → P i

section
variable {P : Instr → Prop} {q : Prop} [Decidable q] {i : Instr} {x y : Option Instr}

theorem Gives.none : Gives P none := nofun

theorem Gives.some (h : P i) : Gives P (some i) := fun _ e => Option.some.inj e ▸ h

theorem Gives.ite (hx : q → Gives P x) (hy : ¬q → Gives P y) : Gives P (if q then x else y) := iteInduction hx hy

/-- One row of a table: the condition on the fields, and the instruction. -/
theorem Gives.row (h : q → P i) (rest : Gives P y) : Gives P (if q then .some i else y) := .ite (fun hq => .some (h hq)) fun _ => rest

end

theorem eq_seven_of_ne (v : BitVec 3) (h0 : v ≠ 0) (h1 : v ≠ 1) (h2 : v ≠ 2) (h3 : v ≠ 3) (h4 : v ≠ 4) (h5 : v ≠ 5) (h6 : v ≠ 6) : v = 7 := by
  bv_omega

/-! ## The major opcodes -/

section
variable (c : Ctx) (w : BitVec 32)

/-- The instructions the word is the encoding of. -/
def Encodes (i : Instr) : Prop := .word w = encode c i

theorem gives_decLoad (ho : opc w = 0x03) : Gives (Encodes c w) (decLoad c w) := by
  have row (f3) (h : fF3 w = f3) : .word w = encI (immI w) (fRs1 w) f3 (fRd w) 0x03 := (word_eq_encI_iff ..).2 ⟨rfl, rfl, h, rfl, ho⟩
  exact .row (row 0) <| .row (row 1) <| .row (row 2) <|
    .row (fun h => iteInduction (fun _ => row 3 h) fun hx => (row 3 h).trans (if_neg hx).symm) <|
    .row (row 4) <| .row (row 5) <| .row (row 6) .none

theorem gives_decStore (ho : opc w = 0x23) : Gives (Encodes c w) (decStore c w) := by
  have row (f3) (h : fF3 w = f3) : .word w = encS (immS w) (fRs2 w) (fRs1 w) f3 0x23 := (word_eq_encS_iff ..).2 ⟨rfl, rfl, rfl, h, ho⟩
  exact .row (row 0) <| .row (row 1) <| .row (row 2) <|
    .row (fun h => iteInduction (fun _ => row 3 h) fun hx => (row 3 h).trans (if_neg hx).symm) <|
    .ite (fun h => .row (fun hx => (row 4 h).trans (if_pos hx).symm) .none) fun _ => .none

theorem gives_decLoadFp (ho : opc w = 0x07) : Gives (Encodes c w) (decLoadFp w) := by
  have row (f3) (h : fF3 w = f3) : .word w = encI (immI w) (fRs1 w) f3 (fRd w) 0x07 := (word_eq_encI_iff ..).2 ⟨rfl, rfl, h, rfl, ho⟩
  exact .row (row 1) <| .row (row 2) <| .row (row 3) .none

theorem gives_decStoreFp (ho : opc w = 0x27) : Gives (Encodes c w) (decStoreFp w) := by
  have row (f3) (h : fF3 w = f3) : .word w = encS (immS w) (fRs2 w) (fRs1 w) f3 0x27 := (word_eq_encS_iff ..).2 ⟨rfl, rfl, rfl, h, ho⟩
  exact .row (row 1) <| .row (row 2) <| .row (row 3) .none

theorem gives_decMiscMem (ho : opc w = 0x0F) : Gives (Encodes c w) (decMiscMem c w) := by
  have row (f3) (h : fF3 w = f3) : .word w = encI (immI w) (fRs1 w) f3 (fRd w) 0x0F := (word_eq_encI_iff ..).2 ⟨rfl, rfl, h, rfl, ho⟩
  have cbo (imm) (h3 : fF3 w = 2) (hd : fRd w = 0) (hi : immI w = imm) : .word w = encI imm (fRs1 w) 2 0 0x0F :=
    (word_eq_encI_iff ..).2 ⟨hi, rfl, h3, hd, ho⟩
  exact .row (row 0) <| .row (row 1) <|
    .ite (fun h3 => .ite (fun _ => .none) fun hd =>
      .row (cbo 0 h3 (not_not.1 hd)) <| .row (cbo 1 h3 (not_not.1 hd)) <| .row (cbo 2 h3 (not_not.1 hd)) <| .row (cbo 4 h3 (not_not.1 hd)) .none) fun _ =>
    .ite (fun h => .row (fun hx => (row 4 h).trans (if_pos hx).symm) .none) fun _ => .none

/-- A prefetch is named by rd and the low five bits of the immediate. -/
theorem prefetchKind_eq_some (d : Reg) (imm : BitVec 12) (k : BitVec 5) (h : prefetchKind c d imm = some k) :
    c.cfg.hasZicbop = true ∧ d = 0 ∧ imm.extractLsb' 0 5 = k ∧ (k = 0 ∨ k = 1 ∨ k = 3) := by
  simp only [prefetchKind, Option.ite_none_right_eq_some, Option.some.injEq, Bool.and_eq_true, Bool.or_eq_true, beq_iff_eq, or_assoc] at h
  obtain ⟨⟨⟨hz, hd⟩, hk⟩, rfl⟩ := h
  exact ⟨hz, hd, rfl, hk⟩

theorem encodes_prefetch (ho : opc w = 0x13) (h3 : fF3 w = 6) (k : BitVec 5) (hp : prefetchKind c (fRd w) (immI w) = some k) :
    Encodes c w (if k = 0 then .prefetchI (fRs1 w) (fF7 w) else if k = 1 then .prefetchR (fRs1 w) (fF7 w) else .prefetchW (fRs1 w) (fF7 w)) := by
  obtain ⟨-, hd, hk, hks⟩ := prefetchKind_eq_some c _ _ k hp
  have row (k') (h : k = k') : .word w = encR (fF7 w) k' (fRs1 w) 6 0 0x13 :=
    (word_eq_encR_iff ..).2 ⟨rfl, (low_immI w).symm.trans (hk.trans h), rfl, h3, hd, ho⟩
  exact iteInduction (row 0) fun h0 => iteInduction (row 1) fun h1 => row 3 (by tauto)

theorem fF3_eq_five (h0 : fF3 w ≠ 0) (h1 : fF3 w ≠ 1) (h2 : fF3 w ≠ 2) (h3 : fF3 w ≠ 3) (h4 : fF3 w ≠ 4) (h6 : fF3 w ≠ 6) (h7 : fF3 w ≠ 7) :
    fF3 w = 5 := by
  bv_omega

theorem gives_decOpImm (ho : opc w = 0x13) : Gives (Encodes c w) (decOpImm c w) := by
  have row (f3) (h : fF3 w = f3) : .word w = encI (immI w) (fRs1 w) f3 (fRd w) 0x13 := (word_eq_encI_iff ..).2 ⟨rfl, rfl, h, rfl, ho⟩
  have shift (f6 f3) (h3 : fF3 w = f3) (h6 : fF6 w = f6) : .word w = encSh f6 (fShamt w) (fRs1 w) f3 (fRd w) 0x13 :=
    (word_eq_encSh_iff ..).2 ⟨h6, rfl, rfl, h3, rfl, ho⟩
  refine .ite (fun h => .some (row 0 h)) fun h0 => .ite (fun h => .some (row 2 h)) fun h2 => .ite (fun h => .some (row 3 h)) fun h3 =>
    .ite (fun h => .some (row 4 h)) fun h4 => .ite (fun h => ?prefetch) fun h6 => .ite (fun h => .some (row 7 h)) fun h7 =>
    .ite (fun h => .row (shift 0 1 h) .none) fun h1 => ?right
  case prefetch =>
    split
    · next k hk => exact .some (encodes_prefetch c w ho h k hk)
    · exact .some (row 6 h)
  case right =>
    have h5 : fF3 w = 5 := fF3_eq_five w h0 h1 h2 h3 h4 h6 h7
    have scaled : fShamt w = BitVec.ofBool (w.getLsbD 25) ++ fRs2 w := (fShamt_eq_append_iff ..).2 ⟨rfl, rfl⟩
    exact .row (shift 0 5 h5) <| .row (shift 0x10 5 h5) <| .row (fun h => (word_eq_encSh_iff ..).2 ⟨h, scaled, rfl, h5, rfl, ho⟩) .none

theorem gives_decOpImm32 (ho : opc w = 0x1B) : Gives (Encodes c w) (decOpImm32 w) := by
  have row (f3) (h : fF3 w = f3) : .word w = encI (immI w) (fRs1 w) f3 (fRd w) 0x1B := (word_eq_encI_iff ..).2 ⟨rfl, rfl, h, rfl, ho⟩
  have shift (f7 f3) (h3 : fF3 w = f3) (h7 : fF7 w = f7) : .word w = encR f7 (fRs2 w) (fRs1 w) f3 (fRd w) 0x1B :=
    (word_eq_encR_iff ..).2 ⟨h7, rfl, rfl, h3, rfl, ho⟩
  exact .row (row 0) <| .row (row 2) <|
    .ite (fun h => .row (shift 0 1 h) <| .row (fun h6 => (word_eq_encSh_iff ..).2 ⟨h6, rfl, rfl, h, rfl, ho⟩) .none) fun _ =>
    .ite (fun h => .row (shift 0 5 h) <| .row (shift 0x20 5 h) .none) fun _ => .none

/-- The register forms of OP and OP-32: the fields are the three registers, funct3 and funct7. -/
theorem word_eq_encR (f7 op : BitVec 7) (f3 : BitVec 3) (ho : opc w = op) (h7 : fF7 w = f7) (h3 : fF3 w = f3) :
    .word w = encR f7 (fRs2 w) (fRs1 w) f3 (fRd w) op := (word_eq_encR_iff ..).2 ⟨h7, rfl, rfl, h3, rfl, ho⟩

theorem gives_decOp08 (ho : opc w = 0x33) (h7 : fF7 w = 8) : Gives (Encodes c w) (decOp08 w) := by
  refine .ite (fun _ => .none) fun h3 => ?_
  have row (b) (h : fRs2 w = b) : .word w = encR 8 b (fRs1 w) 0 (fRd w) 0x33 := h ▸ word_eq_encR w 8 0x33 0 ho h7 (not_not.1 h3)
  exact .row (row 0) <| .row (row 1) <| .row (row 4) <| .row (row 5) <| .row (row 6) <| .row (row 7) <| .row (row 8) .none

theorem gives_decOp06 (ho : opc w = 0x33) (h7 : fF7 w = 6) : Gives (Encodes c w) (decOp06 w) := by
  have row (f3) := word_eq_encR w 6 0x33 f3 ho h7
  exact .ite (fun h => .some (iteInduction (fun hb => (word_eq_encR_iff ..).2 ⟨h7, hb, rfl, h, rfl, ho⟩) fun _ => row 0 h)) fun h0 =>
    .ite (fun h => .some (row 1 h)) fun h1 =>
    .ite (fun h => .some (row 2 h)) fun h2 => .ite (fun h => .some (row 3 h)) fun h3 => .ite (fun h => .some (row 4 h)) fun h4 =>
    .ite (fun h => .some (row 5 h)) fun h5 => .ite (fun h => .some (row 6 h)) fun h6 =>
    .some (row 7 (eq_seven_of_ne _ h0 h1 h2 h3 h4 h5 h6))

theorem gives_decOp (ho : opc w = 0x33) : Gives (Encodes c w) (decOp w) := by
  have row (f7 f3) (h7) (h3) := word_eq_encR w f7 0x33 f3 ho h7 h3
  refine .ite (fun h7 => ?base) fun _ => .ite (fun h7 => .row (row _ 0 h7) <| .row (row _ 5 h7) .none) fun _ => .ite (gives_decOp06 c w ho) fun _ =>
    .ite (fun h7 => .row (row _ 0 h7) <| .row (row _ 1 h7) .none) fun _ => .ite (gives_decOp08 c w ho) fun _ =>
    .ite (fun _ => .row (fun h => congrArg Enc.word h) .none) fun _ =>
    .ite (fun h7 => .row (row _ 2 h7) <| .row (row _ 4 h7) <| .row (row _ 6 h7) <| .row (row _ 7 h7) .none) fun _ => .none
  case base =>
    exact .ite (fun h => .some (row 0 0 h7 h)) fun h0 => .ite (fun h => .some (row 0 1 h7 h)) fun h1 =>
      .ite (fun h => .some (row 0 2 h7 h)) fun h2 => .ite (fun h => .some (row 0 3 h7 h)) fun h3 => .ite (fun h => .some (row 0 4 h7 h)) fun h4 =>
      .ite (fun h => .some (row 0 5 h7 h)) fun h5 => .ite (fun h => .some (row 0 6 h7 h)) fun h6 =>
      .some (row 0 7 h7 (eq_seven_of_ne _ h0 h1 h2 h3 h4 h5 h6))

theorem gives_decOp32 (ho : opc w = 0x3B) : Gives (Encodes c w) (decOp32 w) := by
  have row (f7 f3) (h7) (h3) := word_eq_encR w f7 0x3B f3 ho h7 h3
  exact .ite (fun h7 => .row (row 0 0 h7) <| .row (row 0 1 h7) <| .row (row 0 5 h7) .none) fun _ =>
    .ite (fun h7 => .row (row 0x20 0 h7) <| .row (row 0x20 5 h7) .none) fun _ => .ite (fun h7 => .row (row 4 0 h7) .none) fun _ =>
    .ite (fun h7 => .row (row 0x10 2 h7) <| .row (row 0x10 4 h7) <| .row (row 0x10 6 h7) <| .row (row 0x10 7 h7) .none) fun _ => .none

theorem gives_decBranch (ho : opc w = 0x63) : Gives (Encodes c w) (decBranch w) := by
  have row (f3) (h : fF3 w = f3) : .word w = encB (offB w) (fRs2 w) (fRs1 w) f3 := (word_eq_encB_iff ..).2 ⟨rfl, rfl, rfl, h, ho⟩
  exact .row (row 0) <| .row (row 1) <| .row (row 4) <| .row (row 5) <| .row (row 6) <| .row (row 7) .none

/-! ## Atomics -/

theorem word_eq_encA (f5 : BitVec 5) (f3 : BitVec 3) (b : Reg) (ho : opc w = 0x2F) (h3 : fF3 w = f3) (h5 : fF5 w = f5) (hb : fRs2 w = b) :
    .word w = encA f5 (w.getLsbD 26) (w.getLsbD 25) b (fRs1 w) f3 (fRd w) := (word_eq_encA_iff ..).2 ⟨h5, rfl, rfl, hb, rfl, h3, rfl, ho⟩

theorem gives_decAmoC (ho : opc w = 0x2F) (h3 : fF3 w = amoCF3 c) : Gives (Encodes c w) (decAmoC w) := by
  have lr := word_eq_encA w 2 _ 0 ho h3
  have row (f5) (h5) := word_eq_encA w f5 _ _ ho h3 h5 rfl
  exact .row (row 1) <| .ite (fun h => .row (lr h) .none) fun _ => .row (row 3) .none

theorem gives_decAmoW (ho : opc w = 0x2F) (h3 : fF3 w = 2) : Gives (Encodes c w) (decAmoW w) := by
  have lr := word_eq_encA w 2 _ 0 ho h3
  have row (f5) (h5) := word_eq_encA w f5 _ _ ho h3 h5 rfl
  exact .row (row 0) <| .row (row 1) <| .ite (fun h => .row (lr h) .none) fun _ => .row (row 3) <| .row (row 4) <| .row (row 8) <|
    .row (row 12) <| .row (row 16) <| .row (row 20) <| .row (row 24) <| .row (row 28) .none

theorem gives_decAmoD (ho : opc w = 0x2F) (h3 : fF3 w = 3) : Gives (Encodes c w) (decAmoD w) := by
  have lr := word_eq_encA w 2 _ 0 ho h3
  have row (f5) (h5) := word_eq_encA w f5 _ _ ho h3 h5 rfl
  exact .row (row 0) <| .row (row 1) <| .ite (fun h => .row (lr h) .none) fun _ => .row (row 3) <| .row (row 4) <| .row (row 8) <|
    .row (row 12) <| .row (row 16) <| .row (row 20) <| .row (row 24) <| .row (row 28) .none

theorem gives_decAmoBH (ho : opc w = 0x2F) (h3 : fF3 w = 0 ∨ fF3 w = 1) : Gives (Encodes c w) (decAmoBH w) := by
  have row (f3 f5 b) (h) := word_eq_encA w f5 f3 b ho h
  exact .ite (fun h5 => .row (fun hb => iteInduction (fun h => row 0 2 0 h h5 hb) fun h => row 1 2 0 (h3.resolve_left h) h5 hb) .none) fun _ =>
    .row (fun h5 => iteInduction (fun h => row 0 3 _ h h5 rfl) fun h => row 1 3 _ (h3.resolve_left h) h5 rfl) .none

theorem gives_decAmo (ho : opc w = 0x2F) : Gives (Encodes c w) (decAmo c w) := by
  have f3 (hx : c.cfg.xlenmax64 = true) : amoCF3 c = 4 := if_pos hx
  exact .ite (gives_decAmoBH c w ho) fun _ => .ite (gives_decAmoW c w ho) fun _ =>
    .ite (fun h => .ite (fun _ => gives_decAmoD c w ho h) fun hx => gives_decAmoC c w ho (h.trans (if_neg hx).symm)) fun _ =>
    .ite (fun h => .ite (fun hx => gives_decAmoC c w ho (h.trans (if_pos hx).symm)) fun _ => .none) fun _ => .none

/-! ## SYSTEM -/

theorem gives_decSystem (ho : opc w = 0x73) : Gives (Encodes c w) (decSystem w) := by
  have row (f3) (h : fF3 w = f3) : .word w = encI (immI w) (fRs1 w) f3 (fRd w) 0x73 := (word_eq_encI_iff ..).2 ⟨rfl, rfl, h, rfl, ho⟩
  have same (v) (h : w = v) : Enc.word w = .word v := congrArg Enc.word h
  exact .ite (fun h3 => .row (same _) <| .row (same _) <| .row (same _) <| .row (same _) <| .row (same _) <| .row (same _) <|
      .row (fun ⟨h7, hd⟩ => (word_eq_encR_iff ..).2 ⟨h7, rfl, rfl, h3, hd, ho⟩) .none) fun _ =>
    .row (row 1) <| .row (row 2) <| .row (row 3) <| .row (row 5) <| .row (row 6) <| .row (row 7) .none

/-- The encoder writes back every word that a row of the table decodes. -/
theorem gives_decode32 : Gives (Encodes c w) (decode32 c w) := by
  have upper (op) (ho : opc w = op) : .word w = encU (immU w) (fRd w) op := (word_eq_encU_iff ..).2 ⟨rfl, rfl, ho⟩
  exact .ite (gives_decLoad c w) fun _ => .ite (gives_decLoadFp c w) fun _ => .ite (gives_decMiscMem c w) fun _ => .ite (gives_decOpImm c w) fun _ =>
    .row (upper _) <| .ite (gives_decOpImm32 c w) fun _ => .ite (gives_decStore c w) fun _ => .ite (gives_decStoreFp c w) fun _ =>
    .ite (gives_decAmo c w) fun _ => .ite (gives_decOp c w) fun _ => .row (upper _) <| .ite (gives_decOp32 c w) fun _ => .ite (gives_decBranch c w) fun _ =>
    .ite (fun ho => .row (fun h3 => (word_eq_encI_iff ..).2 ⟨rfl, rfl, h3, rfl, ho⟩) <|
      .row (fun ⟨h3, hi⟩ => (word_eq_encI_iff ..).2 ⟨hi, rfl, h3, rfl, ho⟩) .none) fun _ =>
    .row (fun ho => (word_eq_encJ_iff ..).2 ⟨rfl, rfl, ho⟩) <| .ite (gives_decSystem c w) fun _ => .none

end

end Sys2Proof
end

section
/-!
PROOFS. The word that encodes a legal instruction decodes to it: its fields lead the decoder to the row of the instruction.
-/
namespace Sys2Proof
open Sys2Proof.Machine

section
variable (c : Ctx) (w : BitVec 32) {i : Instr}

theorem legal_iff : c.legal i = true ↔ wellFormed c i = true ∧ c.available i = true := Bool.and_eq_true_iff

theorem ne_of_fF7 (v : BitVec 32) (h7 : fF7 w ≠ fF7 v) : w ≠ v := fun h => h7 (congrArg fF7 h)

theorem fF7_ne_zero (h6 : fF6 w ≠ 0) : fF7 w ≠ 0 := fun h7 => h6 (by rw [fF6_eq, h7]; rfl)

theorem word_ne_ite_half (q : Prop) [Decidable q] (p p' : BitVec 16) : Enc.word w ≠ if q then .half p else .half p' := by
  split <;> exact nofun

/-- An ORI that names no register to change, with a prefetch's number in the low bits of its immediate. -/
theorem prefetchKind_of_fields (hz : c.cfg.hasZicbop = true) (hd : fRd w = 0) (k : BitVec 5) (hk : fRs2 w = k) (hks : k = 0 ∨ k = 1 ∨ k = 3) :
    prefetchKind c (fRd w) (immI w) = some k := by
  have low : (immI w).extractLsb' 0 5 = k := (low_immI w).trans hk
  rcases hks with rfl | rfl | rfl <;> simp [prefetchKind, hz, hd, low]

theorem decSystem_sfenceVma (h7 : fF7 w = 9) (h3 : fF3 w = 0) (hd : fRd w = 0) : decSystem w = some (.sfenceVma (fRs1 w) (fRs2 w)) := by
  have other (v : BitVec 32) (hv : fF7 v ≠ 9) : w ≠ v := ne_of_fF7 w v (h7.trans_ne hv.symm)
  simp [decSystem, h3, h7, hd, other 0x00000073#32 (by decide), other 0x00100073#32 (by decide), other 0x10200073#32 (by decide),
    other 0x30200073#32 (by decide), other 0x7B200073#32 (by decide), other 0x10500073#32 (by decide)]

theorem decAmo_eq_decAmoC (h3 : fF3 w = amoCF3 c) : decAmo c w = decAmoC w := by
  unfold amoCF3 at h3
  split at h3 <;> simp [decAmo, *]

/-- The decoder undoes the encoder on the 32-bit encodings. -/
theorem decode32_of_encodes (hs : ctxSane c) (hl : c.legal i = true) (he : Encodes c w i) : decode32 c w = some i := by
  obtain ⟨hx, -⟩ := hs
  obtain ⟨hwf, hav⟩ := (legal_iff c).1 hl
  cases i with
  | gctag d a | gcperm d a | gchi d a | gcbase d a | gclen d a | cram d a | sentry d a | cmv d a =>
    obtain ⟨h7, hb, rfl, h3, rfl, ho⟩ := (word_eq_encR_iff ..).1 he
    simp [decode32, ho, decOp, h7, decOp06, decOp08, h3, hb]
  | cadd d a b =>
    obtain ⟨h7, rfl, rfl, h3, rfl, ho⟩ := (word_eq_encR_iff ..).1 he
    have source : ¬fRs2 w = 0 := bne_iff_ne.1 (Bool.and_eq_true_iff.1 hwf).2
    simpa [decode32, ho, decOp, h7, decOp06, h3] using source
  | scaddr d a b | acperm d a b | schi d a b | sceq d a b | cbld d a b | scss d a b | scmode d a b
  | sll d a b | slt d a b | sltu d a b | srl d a b | sra d a b | scbnds d a b | scbndsr d a b | sh1add d a b | sh2add d a b | sh3add d a b
  | sh4add d a b | sllw d a b | srlw d a b | sraw d a b | sh1addUw d a b | sh2addUw d a b | sh3addUw d a b | sh4addUw d a b =>
    obtain ⟨h7, rfl, rfl, h3, rfl, ho⟩ := (word_eq_encR_iff ..).1 he
    simp [decode32, ho, decOp, decOp32, h7, decOp06, h3]
  | sub f d a b | xor f d a b | or f d a b | and f d a b | addw f d a b | subw f d a b =>
    cases f with
    | std =>
      obtain ⟨h7, rfl, rfl, h3, rfl, ho⟩ := (word_eq_encR_iff ..).1 he
      simp [decode32, ho, decOp, decOp32, h7, h3]
    | comp => exact nomatch he
  | add f d a b =>
    cases f with
    | std | uw =>
      obtain ⟨h7, rfl, rfl, h3, rfl, ho⟩ := (word_eq_encR_iff ..).1 he
      simp [decode32, ho, decOp, decOp32, h7, h3]
    | comp | compUw => exact nomatch he
  | slliw d a s | srliw d a s | sraiw d a s =>
    obtain ⟨h7, rfl, rfl, h3, rfl, ho⟩ := (word_eq_encR_iff ..).1 he
    simp [decode32, ho, decOpImm32, h7, h3]
  | lb d a k | lh d a k | lw d a k | lbu d a k | lhu d a k | lwu d a k | fence d a k | fenceI d a k | flh d a k | flw d a k | fld d a k
  | slti d a k | sltiu d a k | caddi d a k | jalr d a k =>
    obtain ⟨rfl, rfl, h3, rfl, ho⟩ := (word_eq_encI_iff ..).1 he
    simp [decode32, ho, decLoad, decMiscMem, decLoadFp, decOpImm, decOpImm32, h3]
  | csrrw d a n | csrrs d a n | csrrc d a n | csrrwi d a n | csrrsi d a n | csrrci d a n =>
    obtain ⟨rfl, rfl, h3, rfl, ho⟩ := (word_eq_encI_iff ..).1 he
    simp [decode32, ho, decSystem, h3]
  | ld d a k =>
    obtain ⟨rfl, rfl, h3, rfl, ho⟩ := (word_eq_encI_iff ..).1 he
    simp [decode32, ho, decLoad, h3, hx hav]
  | lc d a k =>
    by_cases hq : c.cfg.xlenmax64 = true
    · obtain ⟨rfl, rfl, h3, rfl, ho⟩ := (word_eq_encI_iff ..).1 (he.trans (if_pos hq))
      simp [decode32, ho, decMiscMem, h3, hq]
    · obtain ⟨rfl, rfl, h3, rfl, ho⟩ := (word_eq_encI_iff ..).1 (he.trans (if_neg hq))
      simp [decode32, ho, decLoad, h3, hq]
  | ori d a k =>
    obtain ⟨rfl, rfl, h3, rfl, ho⟩ := (word_eq_encI_iff ..).1 he
    simp [decode32, ho, decOpImm, h3, Option.isNone_iff_eq_none.1 hav]
  | cboInval a | cboClean a | cboFlush a | cboZero a =>
    obtain ⟨hi, rfl, h3, hd, ho⟩ := (word_eq_encI_iff ..).1 he
    simp [decode32, ho, decMiscMem, h3, hi, hd]
  | jalrMode d a =>
    obtain ⟨hi, rfl, h3, rfl, ho⟩ := (word_eq_encI_iff ..).1 he
    simp [decode32, ho, h3, hi]
  | addi f d a k | andi f d a k =>
    cases f with
    | std =>
      obtain ⟨rfl, rfl, h3, rfl, ho⟩ := (word_eq_encI_iff ..).1 he
      simp [decode32, ho, decOpImm, h3]
    | comp => exact (word_ne_ite_half _ _ _ _ he).elim
  | xori f d a k | addiw f d a k =>
    cases f with
    | std =>
      obtain ⟨rfl, rfl, h3, rfl, ho⟩ := (word_eq_encI_iff ..).1 he
      simp [decode32, ho, decOpImm, decOpImm32, h3]
    | comp => exact nomatch he
  | slli f d a s =>
    cases f with
    | std =>
      obtain ⟨h6, rfl, rfl, h3, rfl, ho⟩ := (word_eq_encSh_iff ..).1 he
      simp [decode32, ho, decOpImm, h3, h6]
    | uw =>
      obtain ⟨h6, rfl, rfl, h3, rfl, ho⟩ := (word_eq_encSh_iff ..).1 he
      have h7 : ¬fF7 w = 0 := fF7_ne_zero w (h6.trans_ne (by decide))
      simpa [decode32, ho, decOpImm32, h3, h6] using h7
    | comp | compUw => exact nomatch he
  | srli f d a s | srai f d a s =>
    cases f with
    | std =>
      obtain ⟨h6, rfl, rfl, h3, rfl, ho⟩ := (word_eq_encSh_iff ..).1 he
      simp [decode32, ho, decOpImm, h3, h6]
    | comp => exact nomatch he
  | scbndsi d a s k =>
    obtain ⟨h6, hsh, rfl, h3, rfl, ho⟩ := (word_eq_encSh_iff ..).1 he
    obtain ⟨rfl, rfl⟩ := (fShamt_eq_append_iff ..).1 hsh
    simp [decode32, ho, decOpImm, h3, h6]
  | prefetchI a o | prefetchR a o | prefetchW a o =>
    obtain ⟨rfl, hb, rfl, h3, hd, ho⟩ := (word_eq_encR_iff ..).1 he
    simp [decode32, ho, decOpImm, h3, prefetchKind_of_fields c w hav hd _ hb (by decide)]
  | sb b a k | sh b a k | sw b a k | fsh b a k | fsw b a k | fsd b a k =>
    obtain ⟨rfl, rfl, rfl, h3, ho⟩ := (word_eq_encS_iff ..).1 he
    simp [decode32, ho, decStore, decStoreFp, h3]
  | sd b a k =>
    obtain ⟨rfl, rfl, rfl, h3, ho⟩ := (word_eq_encS_iff ..).1 he
    simp [decode32, ho, decStore, h3, hx hav]
  | sc b a k =>
    by_cases hq : c.cfg.xlenmax64 = true
    · obtain ⟨rfl, rfl, rfl, h3, ho⟩ := (word_eq_encS_iff ..).1 (he.trans (if_pos hq))
      simp [decode32, ho, decStore, h3, hq]
    · obtain ⟨rfl, rfl, rfl, h3, ho⟩ := (word_eq_encS_iff ..).1 (he.trans (if_neg hq))
      simp [decode32, ho, decStore, h3, hq]
  | beq a b o | bne a b o | blt a b o | bge a b o | bltu a b o | bgeu a b o =>
    obtain ⟨rfl, rfl, rfl, h3, ho⟩ := (word_eq_encB_iff ..).1 he
    simp [decode32, ho, decBranch, h3]
  | auipc d k =>
    obtain ⟨rfl, rfl, ho⟩ := (word_eq_encU_iff ..).1 he
    simp [decode32, ho]
  | lui f d k =>
    cases f with
    | std =>
      obtain ⟨rfl, rfl, ho⟩ := (word_eq_encU_iff ..).1 he
      simp [decode32, ho]
    | comp => exact nomatch he
  | jal d o =>
    obtain ⟨rfl, rfl, ho⟩ := (word_eq_encJ_iff ..).1 he
    simp [decode32, ho]
  | amoswapW d a b q r | amoaddW d a b q r | amoxorW d a b q r | amoandW d a b q r | amoorW d a b q r | amominW d a b q r | amomaxW d a b q r
  | amominuW d a b q r | amomaxuW d a b q r | scB d a b q r | scH d a b q r | scW d a b q r =>
    obtain ⟨h5, rfl, rfl, rfl, rfl, h3, rfl, ho⟩ := (word_eq_encA_iff ..).1 he
    simp [decode32, ho, decAmo, decAmoW, decAmoBH, h3, h5]
  | lrB d a q r | lrH d a q r | lrW d a q r =>
    obtain ⟨h5, rfl, rfl, hb, rfl, h3, rfl, ho⟩ := (word_eq_encA_iff ..).1 he
    simp [decode32, ho, decAmo, decAmoW, decAmoBH, h3, h5, hb]
  | amoswapD d a b q r | amoaddD d a b q r | amoxorD d a b q r | amoandD d a b q r | amoorD d a b q r | amominD d a b q r | amomaxD d a b q r
  | amominuD d a b q r | amomaxuD d a b q r | scD d a b q r =>
    obtain ⟨h5, rfl, rfl, rfl, rfl, h3, rfl, ho⟩ := (word_eq_encA_iff ..).1 he
    simp [decode32, ho, decAmo, decAmoD, h3, h5, hx (Bool.and_eq_true_iff.1 hav).2]
  | lrD d a q r =>
    obtain ⟨h5, rfl, rfl, hb, rfl, h3, rfl, ho⟩ := (word_eq_encA_iff ..).1 he
    simp [decode32, ho, decAmo, decAmoD, h3, h5, hb, hx (Bool.and_eq_true_iff.1 hav).2]
  | amoswapC d a b q r | scC d a b q r =>
    obtain ⟨h5, rfl, rfl, rfl, rfl, h3, rfl, ho⟩ := (word_eq_encA_iff ..).1 he
    simp [decode32, ho, decAmo_eq_decAmoC c w h3, decAmoC, h5]
  | lrC d a q r =>
    obtain ⟨h5, rfl, rfl, hb, rfl, h3, rfl, ho⟩ := (word_eq_encA_iff ..).1 he
    simp [decode32, ho, decAmo_eq_decAmoC c w h3, decAmoC, h5, hb]
  | sfenceVma a b =>
    obtain ⟨h7, rfl, rfl, h3, hd, ho⟩ := (word_eq_encR_iff ..).1 he
    simp [decode32, ho, decSystem_sfenceVma w h7 h3 hd]
  | modesw | mret | sret | dret | ecall | wfi =>
    rw [Enc.word.inj he]
    rfl
  | ebreak f =>
    cases f with
    | std =>
      rw [Enc.word.inj he]
      rfl
    | comp => exact nomatch he
  | cLc d a o | cSc d a o => exact (word_ne_ite_half _ _ _ _ he).elim
  | cLcsp d o | cScsp d o => exact (word_ne_ite_half _ _ _ _ he).elim
  | _ => exact nomatch he

end

end Sys2Proof
end

section
/-!
PROOFS. The formats of the 16-bit encodings (30_encoding R143, 47_compressed, 48_zcmp_zcmt): a parcel is the encoding of a format exactly when its fields are
the given ones.
-/
namespace Sys2Proof

section
variable (p : BitVec 16)

/-- The quadrant, bits[1:0]. -/
def quad (p : BitVec 16) : BitVec 2 := p.extractLsb' 0 2

/-! ## Fields within fields -/

theorem pRd_eq_append_iff (k : BitVec 2) (r : CReg) : pRd p = k ++ r ↔ p.extractLsb' 10 2 = k ∧ pHi p = r := by
  simp only [eq_append_iff 2 3, pRd, pHi, extractLsb'_extractLsb', Nat.reduceLeDiff, Nat.reduceAdd]

theorem eq_pImm6_iff (imm : BitVec 6) : imm = pImm6 p ↔ p.extractLsb' 12 1 = imm.extractLsb' 5 1 ∧ pRs2 p = imm.extractLsb' 0 5 := by
  simp only [eq_append_iff 1 5, pImm6, pRs2, eq_comm (b := BitVec.extractLsb' _ _ imm)]

theorem pImm6_eq_zero_iff : pImm6 p = 0 ↔ pRs2 p = 0 ∧ p.getLsbD 12 = false := by
  rw [eq_comm, eq_pImm6_iff, and_comm]
  exact and_congr Iff.rfl (extractLsb'_eq_ofBool_iff p 12 false)

/-! ## Formats with one register or none -/

section
variable (f3 : BitVec 3) (d b : Reg) (q : BitVec 2)

theorem half_eq_encCI_iff (hi : Bool) (lo : BitVec 5) :
    .half p = encCI f3 (BitVec.ofBool hi) d lo q ↔ pF3 p = f3 ∧ p.getLsbD 12 = hi ∧ pRd p = d ∧ pRs2 p = lo ∧ quad p = q := by
  simp only [encCI, Enc.half.injEq, eq_append_iff 3 13, eq_append_iff 1 12, eq_append_iff 5 7, eq_append_iff 5 2, extractLsb'_extractLsb',
    extractLsb'_eq_ofBool_iff, Nat.reduceLeDiff, Nat.reduceAdd]
  rfl

theorem half_eq_encCI6_iff (imm : BitVec 6) : .half p = encCI6 f3 imm d q ↔ pF3 p = f3 ∧ pImm6 p = imm ∧ pRd p = d ∧ quad p = q := by
  rw [eq_comm (a := pImm6 p), eq_pImm6_iff]
  simp only [encCI6, encCI, pF3, pRd, pRs2, quad, Enc.half.injEq, eq_append_iff 3 13, eq_append_iff 1 12, eq_append_iff 5 7, eq_append_iff 5 2,
    extractLsb'_extractLsb', Nat.reduceLeDiff, Nat.reduceAdd]
  tauto

theorem half_eq_encWsp_iff (off : BitVec 6) : .half p = encWsp f3 off d ↔ pF3 p = f3 ∧ pOffWsp p = off ∧ pRd p = d ∧ quad p = 2 := by
  rw [eq_comm (a := pOffWsp p)]
  simp only [encWsp, encCI, pOffWsp, pF3, pRd, quad, Enc.half.injEq, eq_append_iff 3 13, eq_append_iff 1 12, eq_append_iff 5 7, eq_append_iff 5 2,
    eq_append_iff 3 2, eq_append_iff 2 4, eq_append_iff 1 3, extractLsb'_extractLsb', Nat.reduceLeDiff, Nat.reduceAdd, eq_comm (b := BitVec.extractLsb' _ _ off)]
  tauto

theorem half_eq_encDsp_iff (off : BitVec 6) : .half p = encDsp f3 off d ↔ pF3 p = f3 ∧ pOffDsp p = off ∧ pRd p = d ∧ quad p = 2 := by
  rw [eq_comm (a := pOffDsp p)]
  simp only [encDsp, encCI, pOffDsp, pF3, pRd, quad, Enc.half.injEq, eq_append_iff 3 13, eq_append_iff 1 12, eq_append_iff 5 7, eq_append_iff 5 2,
    eq_append_iff 2 3, eq_append_iff 3 3, eq_append_iff 1 2, extractLsb'_extractLsb', Nat.reduceLeDiff, Nat.reduceAdd, eq_comm (b := BitVec.extractLsb' _ _ off)]
  tauto

theorem half_eq_encQsp_iff (off : BitVec 6) : .half p = encQsp f3 off d ↔ pF3 p = f3 ∧ pOffQsp p = off ∧ pRd p = d ∧ quad p = 2 := by
  rw [eq_comm (a := pOffQsp p)]
  simp only [encQsp, encCI, pOffQsp, pF3, pRd, quad, Enc.half.injEq, eq_append_iff 3 13, eq_append_iff 1 12, eq_append_iff 5 7, eq_append_iff 5 2,
    eq_append_iff 1 4, eq_append_iff 4 2, eq_append_iff 1 1, extractLsb'_extractLsb', Nat.reduceLeDiff, Nat.reduceAdd, eq_comm (b := BitVec.extractLsb' _ _ off)]
  tauto

theorem half_eq_encWss_iff (off : BitVec 6) : .half p = encWss f3 off b ↔ pF3 p = f3 ∧ pOffWss p = off ∧ pRs2 p = b ∧ quad p = 2 := by
  rw [eq_comm (a := pOffWss p)]
  simp only [encWss, encCSS, pOffWss, pF3, pRs2, quad, Enc.half.injEq, eq_append_iff 3 13, eq_append_iff 6 7, eq_append_iff 5 2, eq_append_iff 4 2,
    eq_append_iff 2 4, extractLsb'_extractLsb', Nat.reduceLeDiff, Nat.reduceAdd, eq_comm (b := BitVec.extractLsb' _ _ off)]
  tauto

theorem half_eq_encDss_iff (off : BitVec 6) : .half p = encDss f3 off b ↔ pF3 p = f3 ∧ pOffDss p = off ∧ pRs2 p = b ∧ quad p = 2 := by
  rw [eq_comm (a := pOffDss p)]
  simp only [encDss, encCSS, pOffDss, pF3, pRs2, quad, Enc.half.injEq, eq_append_iff 3 13, eq_append_iff 6 7, eq_append_iff 5 2, eq_append_iff 3 3,
    extractLsb'_extractLsb', Nat.reduceLeDiff, Nat.reduceAdd, eq_comm (b := BitVec.extractLsb' _ _ off)]
  tauto

theorem half_eq_encQss_iff (off : BitVec 6) : .half p = encQss f3 off b ↔ pF3 p = f3 ∧ pOffQss p = off ∧ pRs2 p = b ∧ quad p = 2 := by
  rw [eq_comm (a := pOffQss p)]
  simp only [encQss, encCSS, pOffQss, pF3, pRs2, quad, Enc.half.injEq, eq_append_iff 3 13, eq_append_iff 6 7, eq_append_iff 5 2, eq_append_iff 2 4,
    eq_append_iff 4 2, extractLsb'_extractLsb', Nat.reduceLeDiff, Nat.reduceAdd, eq_comm (b := BitVec.extractLsb' _ _ off)]
  tauto

theorem half_eq_encCJ_iff (off : BitVec 11) : .half p = encCJ f3 off ↔ pF3 p = f3 ∧ pOffJ p = off ∧ quad p = 1 := by
  rw [eq_comm (a := pOffJ p)]
  simp only [encCJ, pOffJ, pF3, quad, Enc.half.injEq, eq_append_iff 3 13, eq_append_iff 1 12, eq_append_iff 1 11, eq_append_iff 2 9, eq_append_iff 1 8,
    eq_append_iff 1 7, eq_append_iff 1 6, eq_append_iff 3 3, eq_append_iff 1 2, eq_append_iff 1 10, eq_append_iff 1 9, eq_append_iff 2 7, eq_append_iff 1 5,
    eq_append_iff 1 4, eq_append_iff 1 3, extractLsb'_extractLsb', Nat.reduceLeDiff, Nat.reduceAdd, eq_comm (b := BitVec.extractLsb' _ _ off)]
  tauto

/-- C.ADDI16SP: CI with register 2. -/
theorem half_eq_encode_cAddi16sp_iff (c : Ctx) (imm : BitVec 6) :
    .half p = encode c (.cAddi16sp imm) ↔ pF3 p = 3 ∧ pImm16sp p = imm ∧ pRd p = 2 ∧ quad p = 1 := by
  rw [eq_comm (a := pImm16sp p)]
  simp only [encode, encCI, pImm16sp, pF3, pRd, quad, Enc.half.injEq, eq_append_iff 3 13, eq_append_iff 1 12, eq_append_iff 5 7, eq_append_iff 5 2,
    eq_append_iff 1 4, eq_append_iff 1 3, eq_append_iff 2 1, eq_append_iff 1 5, eq_append_iff 2 3, eq_append_iff 1 2, eq_append_iff 1 1,
    extractLsb'_extractLsb', Nat.reduceLeDiff, Nat.reduceAdd, eq_comm (b := BitVec.extractLsb' _ _ imm)]
  tauto

end

/-! ## Formats with three-bit register fields -/

section
variable (f3 : BitVec 3) (a d b : CReg)

theorem half_eq_encCLW_iff (off : BitVec 5) : .half p = encCLW f3 off a d ↔ pF3 p = f3 ∧ pOffW p = off ∧ pHi p = a ∧ pLo p = d ∧ quad p = 0 := by
  rw [eq_comm (a := pOffW p)]
  simp only [encCLW, encCL, pOffW, pF3, pHi, pLo, quad, Enc.half.injEq, eq_append_iff 3 13, eq_append_iff 3 10, eq_append_iff 3 7, eq_append_iff 2 5,
    eq_append_iff 3 2, eq_append_iff 1 1, eq_append_iff 1 4, eq_append_iff 3 1, extractLsb'_extractLsb', Nat.reduceLeDiff, Nat.reduceAdd,
    eq_comm (b := BitVec.extractLsb' _ _ off)]
  tauto

theorem half_eq_encCLD_iff (off : BitVec 5) : .half p = encCLD f3 off a d ↔ pF3 p = f3 ∧ pOffD p = off ∧ pHi p = a ∧ pLo p = d ∧ quad p = 0 := by
  rw [eq_comm (a := pOffD p)]
  simp only [encCLD, encCL, pOffD, pF3, pHi, pLo, quad, Enc.half.injEq, eq_append_iff 3 13, eq_append_iff 3 10, eq_append_iff 3 7, eq_append_iff 2 5,
    eq_append_iff 3 2, eq_append_iff 2 3, extractLsb'_extractLsb', Nat.reduceLeDiff, Nat.reduceAdd, eq_comm (b := BitVec.extractLsb' _ _ off)]
  tauto

theorem half_eq_encCLQ_iff (off : BitVec 5) : .half p = encCLQ f3 off a d ↔ pF3 p = f3 ∧ pOffQ p = off ∧ pHi p = a ∧ pLo p = d ∧ quad p = 0 := by
  rw [eq_comm (a := pOffQ p)]
  simp only [encCLQ, encCL, pOffQ, pF3, pHi, pLo, quad, Enc.half.injEq, eq_append_iff 3 13, eq_append_iff 3 10, eq_append_iff 3 7, eq_append_iff 2 5,
    eq_append_iff 3 2, eq_append_iff 2 1, eq_append_iff 1 4, eq_append_iff 2 2, extractLsb'_extractLsb', Nat.reduceLeDiff, Nat.reduceAdd,
    eq_comm (b := BitVec.extractLsb' _ _ off)]
  tauto

theorem half_eq_encode_cAddi4spn_iff (c : Ctx) (imm : BitVec 8) :
    .half p = encode c (.cAddi4spn d imm) ↔ pF3 p = 0 ∧ pImm4spn p = imm ∧ pLo p = d ∧ quad p = 0 := by
  rw [eq_comm (a := pImm4spn p)]
  simp only [encode, pImm4spn, pF3, pLo, quad, Enc.half.injEq, eq_append_iff 3 13, eq_append_iff 2 11, eq_append_iff 4 7, eq_append_iff 1 6,
    eq_append_iff 1 5, eq_append_iff 3 2, eq_append_iff 4 4, eq_append_iff 2 2, eq_append_iff 1 1, extractLsb'_extractLsb', Nat.reduceLeDiff,
    Nat.reduceAdd, eq_comm (b := BitVec.extractLsb' _ _ imm)]
  tauto

theorem half_eq_encCB_iff (off : BitVec 8) : .half p = encCB f3 off a ↔ pF3 p = f3 ∧ pOffB p = off ∧ pHi p = a ∧ quad p = 1 := by
  rw [eq_comm (a := pOffB p)]
  simp only [encCB, pOffB, pF3, pHi, quad, Enc.half.injEq, eq_append_iff 3 13, eq_append_iff 1 12, eq_append_iff 2 10, eq_append_iff 3 7,
    eq_append_iff 2 5, eq_append_iff 2 3, eq_append_iff 1 2, eq_append_iff 1 7, eq_append_iff 1 4, eq_append_iff 2 2,
    extractLsb'_extractLsb', Nat.reduceLeDiff, Nat.reduceAdd, eq_comm (b := BitVec.extractLsb' _ _ off)]
  tauto

/-- bits[15:10] as funct3, bit 12 and bits[11:10]. -/
theorem half_eq_encCA_iff (hi : Bool) (m : BitVec 2) (r : Reg) (k : BitVec 2) :
    .half p = encCA (f3 ++ (BitVec.ofBool hi ++ m)) r k b ↔
      pF3 p = f3 ∧ p.getLsbD 12 = hi ∧ p.extractLsb' 10 2 = m ∧ pHi p = low r ∧ p.extractLsb' 5 2 = k ∧ pLo p = b ∧ quad p = 1 := by
  simp only [encCA, Enc.half.injEq, eq_append_iff 6 10, eq_append_iff 3 3, eq_append_iff 1 2, eq_append_iff 3 7, eq_append_iff 2 5, eq_append_iff 3 2,
    extractLsb'_extractLsb', extractLsb'_eq_ofBool_iff, Nat.reduceLeDiff, Nat.reduceAdd, and_assoc]
  rfl

/-- The Zcb loads and stores of a byte, bits[15:10] as funct3 and bits[12:10]. -/
theorem half_eq_encCLB_byte_iff (m : BitVec 3) (off : BitVec 2) :
    .half p = encCLB (f3 ++ m) a (off.extractLsb' 0 1 ++ off.extractLsb' 1 1) d ↔
      pF3 p = f3 ∧ p.extractLsb' 10 3 = m ∧ pHi p = a ∧ p.extractLsb' 5 1 ++ p.extractLsb' 6 1 = off ∧ pLo p = d ∧ quad p = 0 := by
  rw [eq_comm (b := off)]
  simp only [encCLB, pF3, pHi, pLo, quad, Enc.half.injEq, eq_append_iff 6 10, eq_append_iff 3 3, eq_append_iff 3 7, eq_append_iff 2 5,
    eq_append_iff 3 2, eq_append_iff 1 1, extractLsb'_extractLsb', Nat.reduceLeDiff, Nat.reduceAdd, eq_comm (b := BitVec.extractLsb' _ _ off)]
  tauto

/-- And of a half. -/
theorem half_eq_encCLB_half_iff (m : BitVec 3) (k : Bool) (off : BitVec 1) :
    .half p = encCLB (f3 ++ m) a (BitVec.ofBool k ++ off) d ↔
      pF3 p = f3 ∧ p.extractLsb' 10 3 = m ∧ pHi p = a ∧ p.getLsbD 6 = k ∧ p.extractLsb' 5 1 = off ∧ pLo p = d ∧ quad p = 0 := by
  simp only [encCLB, Enc.half.injEq, eq_append_iff 6 10, eq_append_iff 3 3, eq_append_iff 3 7, eq_append_iff 2 5, eq_append_iff 3 2, eq_append_iff 1 1,
    extractLsb'_extractLsb', extractLsb'_eq_ofBool_iff, Nat.reduceLeDiff, Nat.reduceAdd, and_assoc]
  rfl

end

/-! ## Zcmp and Zcmt -/

theorem half_eq_encPP_iff (k : BitVec 5) (l : BitVec 4) (s : BitVec 2) :
    .half p = encPP k l s ↔ pF3 p = 5 ∧ p.extractLsb' 8 5 = k ∧ p.extractLsb' 4 4 = l ∧ p.extractLsb' 2 2 = s ∧ quad p = 2 := by
  simp only [encPP, Enc.half.injEq, eq_append_iff 3 13, eq_append_iff 5 8, eq_append_iff 4 4, eq_append_iff 2 2, extractLsb'_extractLsb',
    Nat.reduceLeDiff, Nat.reduceAdd]
  rfl

theorem half_eq_encMV_iff (a b : CReg) (k : BitVec 2) :
    .half p = encMV a k b ↔ pF3 p = 5 ∧ p.extractLsb' 10 3 = 3 ∧ pHi p = a ∧ p.extractLsb' 5 2 = k ∧ pLo p = b ∧ quad p = 2 := by
  rw [encMV, show 0x2B#6 = 5#3 ++ 3#3 from rfl]
  simp only [Enc.half.injEq, eq_append_iff 6 10, eq_append_iff 3 3, eq_append_iff 3 7, eq_append_iff 2 5, eq_append_iff 3 2, extractLsb'_extractLsb',
    Nat.reduceLeDiff, Nat.reduceAdd, and_assoc]
  rfl

theorem half_eq_encJT_iff (i : BitVec 8) : .half p = encJT i ↔ pF3 p = 5 ∧ p.extractLsb' 10 3 = 0 ∧ p.extractLsb' 2 8 = i ∧ quad p = 2 := by
  rw [encJT, show 0x28#6 = 5#3 ++ 0#3 from rfl]
  simp only [Enc.half.injEq, eq_append_iff 6 10, eq_append_iff 3 3, eq_append_iff 8 2, extractLsb'_extractLsb', Nat.reduceLeDiff, Nat.reduceAdd, and_assoc]
  rfl

end

end Sys2Proof
end

section
/-!
PROOFS. A parcel that decodes is the encoding of the instruction it decodes to, or one of the hints that decode to one no-op (30_encoding R140; log 14).
-/
namespace Sys2Proof
open Sys2Proof.Machine

section
variable (c : Ctx) (p : BitVec 16)

/-- The instructions the parcel is the encoding of, and the no-op where it is a hint. -/
def EncodesOrHints (i : Instr) : Prop := .half p = encode c i ∨ (i = hintNop ∧ hintParcel c p)

/-! ## Immediates and registers -/

theorem low_reg (r : CReg) : low r.reg = r := BitVec.extractLsb'_append_eq_right

theorem extractLsb'_signExtend (n : Nat) (h : 6 ≤ n) (v : BitVec 6) : (v.signExtend n).extractLsb' 0 6 = v := by
  ext j hj
  simp [BitVec.getElem_signExtend, hj, show j < n by omega]

theorem signExtend_ne_byte (v : BitVec 6) : v.signExtend 12 ≠ 0xFF := by
  intro h
  have low := extractLsb'_signExtend 12 (by decide) v
  rw [h] at low
  rw [← low] at h
  exact absurd h (by decide)

theorem eq_three_of_ne (v : BitVec 2) (h0 : v ≠ 0) (h1 : v ≠ 1) (h2 : v ≠ 2) : v = 3 := by
  bv_omega

/-! ## Quadrant 0 -/

theorem gives_decodeC0 (hq : quad p = 0) : Gives (EncodesOrHints c p) (decodeC0 c p) := by
  have word (f3) (h : pF3 p = f3) : .half p = encCLW f3 (pOffW p) (pHi p) (pLo p) := (half_eq_encCLW_iff ..).2 ⟨h, rfl, rfl, rfl, hq⟩
  have double (f3) (h : pF3 p = f3) : .half p = encCLD f3 (pOffD p) (pHi p) (pLo p) := (half_eq_encCLD_iff ..).2 ⟨h, rfl, rfl, rfl, hq⟩
  have quadword (f3) (h : pF3 p = f3) : .half p = encCLQ f3 (pOffQ p) (pHi p) (pLo p) := (half_eq_encCLQ_iff ..).2 ⟨h, rfl, rfl, rfl, hq⟩
  have byte (m) (h : pF3 p = 4) (hm : p.extractLsb' 10 3 = m) := (half_eq_encCLB_byte_iff p 4 _ _ m _).2 ⟨h, hm, rfl, rfl, rfl, hq⟩
  have halfword (m k) (h : pF3 p = 4) (hm : p.extractLsb' 10 3 = m) (hk : p.getLsbD 6 = k) :=
    (half_eq_encCLB_half_iff p 4 _ _ m k _).2 ⟨h, hm, rfl, hk, rfl, rfl, hq⟩
  have wide (h : (c.cap && c.cfg.xlenmax64) = true) : c.cfg.xlenmax64 = true := (Bool.and_eq_true_iff.1 h).2
  refine .ite (fun h => .some ?addi4spn) fun h0 => .ite (fun h => .some ?lcFld) fun h1 => .ite (fun h => .some (.inl (word 2 h))) fun h2 =>
    .ite (fun h => .some ?ldLcFlw) fun h3 => .ite (fun h => ?zcb) fun h4 => .ite (fun h => .some ?scFsd) fun h5 =>
    .ite (fun h => .some (.inl (word 6 h))) fun h6 => .some ?sdScFsw
  case addi4spn => exact .inl ((half_eq_encode_cAddi4spn_iff ..).2 ⟨h, rfl, rfl, hq⟩)
  case lcFld => exact iteInduction (fun hx => .inl ((quadword 1 h).trans (if_pos (wide hx)).symm)) fun _ => .inl (double 1 h)
  case ldLcFlw =>
    exact iteInduction (fun _ => .inl (double 3 h)) fun hx =>
      iteInduction (fun _ => .inl ((double 3 h).trans (if_neg hx).symm)) fun _ => .inl (word 3 h)
  case zcb =>
    exact .row (fun hm => .inl (byte 0 h hm)) <|
      .row (fun hm => iteInduction (fun hk => .inl (halfword 1 true h hm hk)) fun hk => .inl (halfword 1 false h hm (Bool.eq_false_iff.2 hk))) <|
      .row (fun hm => .inl (byte 2 h hm)) <|
      .ite (fun hm => .ite (fun _ => .none) fun hk => .some (.inl (halfword 3 false h hm (Bool.eq_false_iff.2 hk)))) fun _ => .none
  case scFsd => exact iteInduction (fun hx => .inl ((quadword 5 h).trans (if_pos (wide hx)).symm)) fun _ => .inl (double 5 h)
  case sdScFsw =>
    have h := eq_seven_of_ne _ h0 h1 h2 h3 h4 h5 h6
    exact iteInduction (fun _ => .inl (double 7 h)) fun hx =>
      iteInduction (fun _ => .inl ((double 7 h).trans (if_neg hx).symm)) fun _ => .inl (word 7 h)

/-! ## Quadrant 1 -/

theorem gives_decodeCA (hq : quad p = 1) (h3 : pF3 p = 4) (hm : p.extractLsb' 10 2 = 3) : Gives (EncodesOrHints c p) (decodeCA c p) := by
  have row (hi k b) (h12 : p.getLsbD 12 = hi) (hk : p.extractLsb' 5 2 = k) (hb : pLo p = b) :=
    (half_eq_encCA_iff p 4 b hi 3 (pHi p).reg k).2 ⟨h3, h12, hm, (low_reg _).symm, hk, hb, hq⟩
  have pair (hi k) (h12 : p.getLsbD 12 = hi) (hk : p.extractLsb' 5 2 = k) := row hi k _ h12 hk (low_reg (pLo p)).symm
  refine .row (fun h => .inl (congrArg Enc.half h.1)) <| .ite (fun h12 => ?one) fun h12 => ?zero
  case one =>
    exact .row (fun hk => .inl (pair true 0 h12 hk)) <| .row (fun hk => .inl (pair true 1 h12 hk)) <|
      .ite (fun hk => .row (fun hb => .inl (row true 3 0 h12 hk hb)) <| .row (fun hb => .inl (row true 3 4 h12 hk hb)) <|
        .row (fun hb => .inl (row true 3 5 h12 hk hb)) .none) fun _ => .none
  case zero =>
    have h12 := Bool.eq_false_iff.2 h12
    exact .ite (fun hk => .some (.inl (pair false 0 h12 hk))) fun h0 => .ite (fun hk => .some (.inl (pair false 1 h12 hk))) fun h1 =>
      .ite (fun hk => .some (.inl (pair false 2 h12 hk))) fun h2 => .some (.inl (pair false 3 h12 (eq_three_of_ne _ h0 h1 h2)))

/-- A hint that names a register, if the register exists. -/
theorem gives_hintOf (r : Reg) (h : c.reg r = true → hintParcel c p) : Gives (EncodesOrHints c p) (hintOf c r) := .row (fun hr => .inr ⟨rfl, h hr⟩) .none

theorem gives_decodeC1 (hq : quad p = 1) : Gives (EncodesOrHints c p) (decodeC1 c p) := by
  have ci (f3 d imm) (h : pF3 p = f3) (hi : pImm6 p = imm) (hd : pRd p = d) : .half p = encCI6 f3 imm d 1 :=
    (half_eq_encCI6_iff ..).2 ⟨h, hi, hd, hq⟩
  have cb (m imm) (h : pF3 p = 4) (hm : p.extractLsb' 10 2 = m) (hi : pImm6 p = imm) : .half p = encCI6 4 imm (m ++ low (pHi p).reg) 1 :=
    ci 4 _ imm h hi ((pRd_eq_append_iff ..).2 ⟨hm, (low_reg _).symm⟩)
  have low12 := (extractLsb'_signExtend 12 (by decide) (pImm6 p)).symm
  have low20 := (extractLsb'_signExtend 20 (by decide) (pImm6 p)).symm
  refine .ite (fun h => .ite (fun hint => gives_hintOf c p _ fun hr => ?hintAddi) fun _ => .some (.inl ?addi)) fun h0 =>
    .ite (fun h => .some (iteInduction (fun _ => .inl (ci 1 _ _ h low12 rfl)) fun _ => .inl ?jal)) fun h1 =>
    .ite (fun h => .some (iteInduction (fun hd => .inr ⟨rfl, ?hintLi⟩) fun hd => .inl ?li)) fun h2 =>
    .ite (fun h => .some (iteInduction (fun hd => .inl ?addi16sp) fun hd => .inl (ci 3 _ _ h low20 rfl))) fun h3 =>
    .ite (fun h => .ite (fun hm => .some (iteInduction (fun hi => .inr ⟨rfl, ?hintSrli⟩) fun _ => .inl (cb 0 _ h hm rfl))) fun hm0 =>
      .ite (fun hm => .some (iteInduction (fun hi => .inr ⟨rfl, ?hintSrai⟩) fun _ => .inl (cb 1 _ h hm rfl))) fun hm1 =>
      .ite (fun hm => .some (.inl ?andi)) fun hm2 => gives_decodeCA c p hq h (eq_three_of_ne _ hm0 hm1 hm2)) fun h4 =>
    .ite (fun h => .some (.inl ?j)) fun h5 => .ite (fun h => .some (.inl ?beqz)) fun h6 => .some (.inl ?bnez)
  case hintAddi => exact .inl ⟨hq, h, hint.1, (pImm6_eq_zero_iff p).1 hint.2, hr⟩
  case hintLi => exact .inr (.inl ⟨hq, h, hd⟩)
  case hintSrli => exact .inr (.inr (.inl ⟨hq, h, .inl hm, (pImm6_eq_zero_iff p).1 hi⟩))
  case hintSrai => exact .inr (.inr (.inl ⟨hq, h, .inr hm, (pImm6_eq_zero_iff p).1 hi⟩))
  case addi => exact (ci 0 _ _ h low12 rfl).trans (if_pos rfl).symm
  case li => exact (ci 2 _ _ h low12 rfl).trans (if_neg (Ne.symm hd)).symm
  case jal => exact (half_eq_encCJ_iff ..).2 ⟨h, rfl, hq⟩
  case j => exact (half_eq_encCJ_iff ..).2 ⟨h, rfl, hq⟩
  case addi16sp => exact (half_eq_encode_cAddi16sp_iff ..).2 ⟨h, rfl, hd, hq⟩
  case andi => exact (cb 2 _ h hm low12).trans (if_neg (signExtend_ne_byte _)).symm
  case beqz => exact (half_eq_encCB_iff ..).2 ⟨h, rfl, rfl, hq⟩
  case bnez => exact (half_eq_encCB_iff ..).2 ⟨eq_seven_of_ne _ h0 h1 h2 h3 h4 h5 h6, rfl, rfl, hq⟩

/-! ## Quadrant 2 -/

theorem gives_decodeZcm (hq : quad p = 2) (h5 : pF3 p = 5) : Gives (EncodesOrHints c p) (decodeZcm c p) := by
  have frame (k) (hk : (p.extractLsb' 8 5 == k) = true) : .half p = encPP k (p.extractLsb' 4 4) (p.extractLsb' 2 2) :=
    (half_eq_encPP_iff ..).2 ⟨h5, beq_iff_eq.1 hk, rfl, rfl, hq⟩
  have move (k) (hk : (p.extractLsb' 10 3 == 3 && p.extractLsb' 5 2 == k) = true) : .half p = encMV (pHi p) k (pLo p) := by
    obtain ⟨hm, hk⟩ := Bool.and_eq_true_iff.1 hk
    exact (half_eq_encMV_iff ..).2 ⟨h5, beq_iff_eq.1 hm, rfl, beq_iff_eq.1 hk, rfl, hq⟩
  have jump (hm : (p.extractLsb' 10 3 == 0) = true) : .half p = encJT (p.extractLsb' 2 8) :=
    (half_eq_encJT_iff ..).2 ⟨h5, beq_iff_eq.1 hm, rfl, hq⟩
  exact .ite (fun _ => .none) fun _ => .row (fun hk => .inl (frame _ hk)) <| .row (fun hk => .inl (frame _ hk)) <|
    .row (fun hk => .inl (frame _ hk)) <| .row (fun hk => .inl (frame _ hk)) <| .row (fun hk => .inl (move 1 hk)) <|
    .row (fun hk => .inl (move 3 hk)) <| .row (fun hm => iteInduction (fun _ => .inl (jump hm)) fun _ => .inl (jump hm)) .none

theorem gives_decodeC2 (hq : quad p = 2) : Gives (EncodesOrHints c p) (decodeC2 c p) := by
  have cr (f3 hi d b) (h : pF3 p = f3) (h12 : p.getLsbD 12 = hi) (hd : pRd p = d) (hb : pRs2 p = b) :=
    (half_eq_encCI_iff p f3 d 2 hi b).2 ⟨h, h12, hd, hb, hq⟩
  have loadWord (f3) (h : pF3 p = f3) := (half_eq_encWsp_iff p f3 _ _).2 ⟨h, rfl, rfl, hq⟩
  have loadDouble (f3) (h : pF3 p = f3) := (half_eq_encDsp_iff p f3 _ _).2 ⟨h, rfl, rfl, hq⟩
  have loadQuad (f3) (h : pF3 p = f3) := (half_eq_encQsp_iff p f3 _ _).2 ⟨h, rfl, rfl, hq⟩
  have storeWord (f3) (h : pF3 p = f3) := (half_eq_encWss_iff p f3 _ _).2 ⟨h, rfl, rfl, hq⟩
  have storeDouble (f3) (h : pF3 p = f3) := (half_eq_encDss_iff p f3 _ _).2 ⟨h, rfl, rfl, hq⟩
  have storeQuad (f3) (h : pF3 p = f3) := (half_eq_encQss_iff p f3 _ _).2 ⟨h, rfl, rfl, hq⟩
  have wide (h : (c.cap && c.cfg.xlenmax64) = true) : c.cfg.xlenmax64 = true := (Bool.and_eq_true_iff.1 h).2
  refine .ite (fun h => .ite (fun hint => gives_hintOf c p _ fun hr => ?hintSlli) fun _ => .some (.inl ?slli)) fun h0 =>
    .ite (fun h => .some ?lcspFldsp) fun h1 => .ite (fun h => .some (.inl (loadWord 2 h))) fun h2 => .ite (fun h => .some ?ldspLcspFlwsp) fun h3 =>
    .ite (fun h => .ite (fun h12 => ?jalrAdd) fun h12 => ?jrMv) fun h4 => .ite (fun h => ?zcmp) fun h5 =>
    .ite (fun h => .some (.inl (storeWord 6 h))) fun h6 => .some ?sdspScspFswsp
  case hintSlli => exact .inr (.inr (.inr (.inl ⟨hq, h, hint.1.imp_right (pImm6_eq_zero_iff p).1, hint.2, hr⟩)))
  case slli => exact (half_eq_encCI6_iff ..).2 ⟨h, rfl, rfl, hq⟩
  case lcspFldsp => exact iteInduction (fun hx => .inl ((loadQuad 1 h).trans (if_pos (wide hx)).symm)) fun _ => .inl (loadDouble 1 h)
  case ldspLcspFlwsp =>
    exact iteInduction (fun _ => .inl (loadDouble 3 h)) fun hx =>
      iteInduction (fun _ => .inl ((loadDouble 3 h).trans (if_neg hx).symm)) fun _ => .inl (loadWord 3 h)
  case jalrAdd =>
    exact .ite (fun hb => .some (iteInduction (fun hd => .inl (cr 4 true 0 0 h h12 hd hb)) fun _ => .inl (cr 4 true _ 0 h h12 rfl hb))) fun _ =>
      .some (.inl (cr 4 true _ _ h h12 rfl rfl))
  case jrMv =>
    have h12 := Bool.eq_false_iff.2 h12
    exact .ite (fun hb => .some (.inl (cr 4 false _ 0 h h12 rfl hb))) fun hb =>
      .ite (fun hd => gives_hintOf c p _ fun hr => .inr (.inr (.inr (.inr ⟨hq, h, h12, hd, hb, hr⟩)))) fun _ =>
      .some (.inl (cr 4 false _ _ h h12 rfl rfl))
  case zcmp =>
    split
    · next i hi => exact .some (gives_decodeZcm c p hq h i hi)
    · exact .some (iteInduction (fun hx => .inl ((storeQuad 5 h).trans (if_pos (wide hx)).symm)) fun _ => .inl (storeDouble 5 h))
  case sdspScspFswsp =>
    have h := eq_seven_of_ne _ h0 h1 h2 h3 h4 h5 h6
    exact iteInduction (fun _ => .inl (storeDouble 7 h)) fun hx =>
      iteInduction (fun _ => .inl ((storeDouble 7 h).trans (if_neg hx).symm)) fun _ => .inl (storeWord 7 h)

/-- The encoder writes back every parcel that a row of the table decodes, but for the hints. -/
theorem gives_decode16 : Gives (EncodesOrHints c p) (decode16 c p) :=
  .ite (gives_decodeC0 c p) fun _ => .ite (gives_decodeC1 c p) fun _ => .ite (gives_decodeC2 c p) fun _ => .none

end

end Sys2Proof
end

section
/-!
PROOFS. The parcel that encodes a legal instruction decodes to it.
-/
namespace Sys2Proof
open Sys2Proof.Machine

section
variable (c : Ctx) (p : BitVec 16) {i : Instr}

/-! ## The quadrants -/

theorem decode16_zero (hq : quad p = 0) : decode16 c p = decodeC0 c p := if_pos hq

theorem decode16_one (hq : quad p = 1) : decode16 c p = decodeC1 c p := by
  have h0 : ¬quad p = 0 := by rw [hq]; decide
  exact (if_neg h0).trans (if_pos hq)

theorem decode16_two (hq : quad p = 2) : decode16 c p = decodeC2 c p := by
  have h0 : ¬quad p = 0 := by rw [hq]; decide
  have h1 : ¬quad p = 1 := by rw [hq]; decide
  exact (if_neg h0).trans ((if_neg h1).trans (if_pos hq))

/-! ## Operands -/

theorem reg_low (r : Reg) (h : isCReg r = true) : (low r).reg = r :=
  ((eq_append_iff 2 3 ..).2 ⟨beq_iff_eq.1 h, rfl⟩).symm

theorem isImm6_iff (imm : BitVec 12) : isImm6 imm = true ↔ (imm.extractLsb' 0 6).signExtend 12 = imm := by
  rw [isImm6, beq_iff_eq, eq_comm]

/-! ## The slots that depend on XLENMAX and the mode -/

section
variable {half wide cap rest : Bool}

/-- The double-precision slots: not those of Capability mode with XLENMAX 64. -/
theorem narrow_of_available (hav : (half && !wide && rest) = true) : wide = false := by
  cases wide with
  | false => rfl
  | true => simp at hav

/-- The single-precision slots: XLENMAX 32 and Legacy mode. -/
theorem absent_of_available (hav : (half && !wide && !cap) = true) : wide = false ∧ cap = false := by
  cases wide <;> cases cap <;> simp_all

theorem cap_of_available (hav : (half && cap && rest) = true) : cap = true := by
  cases cap with
  | false => simp at hav
  | true => rfl

end

/-! ## Quadrant 1: six-bit immediates, and bits[15:10] = 100x11 -/

section
variable (d a b : Reg) (k : BitVec 12)

theorem decode16_addi (hwf : wellFormed c (.addi .comp d a k) = true) (he : .half p = encode c (.addi .comp d a k)) :
    decode16 c p = some (.addi .comp d a k) := by
  simp only [wellFormed, compAddi, Bool.and_eq_true, Bool.or_eq_true, beq_iff_eq, bne_iff_ne, isImm6_iff] at hwf
  obtain ⟨-, hk, ha⟩ := hwf
  by_cases had : a = d
  · obtain ⟨h3, hi, rfl, hq⟩ := (half_eq_encCI6_iff ..).1 (he.trans (if_pos had))
    have noHint : ¬(pRd p ≠ 0 ∧ pImm6 p = 0) := by
      rintro ⟨hd, h0⟩
      rw [← hi, h0] at hk
      exact ha.elim (fun h => hd (had ▸ h)) fun h => h.2 hk.symm
    rw [decode16_one c p hq, decodeC1, if_pos h3, if_neg noHint, hi, hk, had]
  · obtain ⟨h3, hi, rfl, hq⟩ := (half_eq_encCI6_iff ..).1 (he.trans (if_neg had))
    obtain rfl : a = 0 := ha.resolve_right fun h => had h.1
    have noHint : ¬pRd p = 0#5 := Ne.symm had
    simp [decode16_one c p hq, decodeC1, h3, hi, hk, noHint]

theorem decode16_lui (k : BitVec 20) (hwf : wellFormed c (.lui .comp d k) = true) (he : .half p = encode c (.lui .comp d k)) :
    decode16 c p = some (.lui .comp d k) := by
  simp only [wellFormed, Bool.and_eq_true, beq_iff_eq, bne_iff_ne] at hwf
  obtain ⟨⟨⟨-, hd⟩, -⟩, hk⟩ := hwf
  obtain ⟨h3, hi, rfl, hq⟩ := (half_eq_encCI6_iff ..).1 he
  have noAddi16sp : ¬pRd p = 2#5 := hd
  simp [decode16_one c p hq, decodeC1, h3, hi, ← hk, noAddi16sp]

theorem decode16_addiw (hwf : wellFormed c (.addiw .comp d a k) = true) (hx : c.x64 = true) (he : .half p = encode c (.addiw .comp d a k)) :
    decode16 c p = some (.addiw .comp d a k) := by
  simp only [wellFormed, Bool.and_eq_true, beq_iff_eq, bne_iff_ne, isImm6_iff] at hwf
  obtain ⟨⟨⟨-, rfl⟩, -⟩, hk⟩ := hwf
  obtain ⟨h3, hi, rfl, hq⟩ := (half_eq_encCI6_iff ..).1 he
  simp [decode16_one c p hq, decodeC1, h3, hi, hk, hx]

theorem decode16_shiftRight (m : BitVec 2) (s : BitVec 6) (hd : isCReg d = true) (hs : s ≠ 0) (he : .half p = encCI6 4 s (m ++ low d) 1) :
    (m = 0 → decode16 c p = some (.srli .comp d d s)) ∧ (m = 1 → decode16 c p = some (.srai .comp d d s)) := by
  obtain ⟨h3, rfl, hr, hq⟩ := (half_eq_encCI6_iff ..).1 he
  obtain ⟨hm, hHi⟩ := (pRd_eq_append_iff ..).1 hr
  have noHint : ¬pImm6 p = 0#6 := hs
  constructor <;> rintro rfl <;> simp [decode16_one c p hq, decodeC1, h3, hm, noHint, hHi, reg_low d hd]

theorem decode16_ca (h3 : pF3 p = 4) (hm : p.extractLsb' 10 2 = 3) (hq : quad p = 1) : decode16 c p = decodeCA c p := by
  simp [decode16_one c p hq, decodeC1, h3, hm]

/-- MODESW's parcel has bit 12 set and bits[6:5] clear. -/
theorem not_cModesw (h : p.getLsbD 12 = false ∨ p.extractLsb' 5 2 ≠ 0) : ¬(p = 0x9C1D#16 ∧ c.cfg.mode = true) := by
  rintro ⟨rfl, -⟩
  exact absurd h (by decide)

theorem not_cModesw_of_encCA (m : BitVec 2) (r : CReg) (hm : m ≠ 0) (he : .half p = encCA 0x27 d m r) :
    ¬(p = 0x9C1D#16 ∧ c.cfg.mode = true) := by
  obtain ⟨-, -, -, -, h5, -, -⟩ := (half_eq_encCA_iff p 4 _ true 3 ..).1 he
  exact not_cModesw c p (.inr (h5.trans_ne hm))

theorem decode16_andi (hwf : wellFormed c (.andi .comp d a k) = true) (he : .half p = encode c (.andi .comp d a k)) :
    decode16 c p = some (.andi .comp d a k) := by
  simp only [wellFormed, Bool.and_eq_true, Bool.or_eq_true, beq_iff_eq, isImm6_iff] at hwf
  obtain ⟨⟨rfl, hd⟩, hk⟩ := hwf
  by_cases hb : k = 0x0FF
  · obtain ⟨h3, h12, hm, hHi, h5, hLo, hq⟩ := (half_eq_encCA_iff p 4 _ true 3 ..).1 (he.trans (if_pos hb))
    have other := not_cModesw c p (.inr (h5.trans_ne (by decide)))
    rw [decode16_ca c p h3 hm hq, decodeCA, if_neg other, if_pos h12]
    simp [h5, hLo, hHi, reg_low d hd, hb]
  · obtain ⟨h3, hi, hr, hq⟩ := (half_eq_encCI6_iff ..).1 (he.trans (if_neg hb))
    obtain ⟨hm, hHi⟩ := (pRd_eq_append_iff ..).1 hr
    simp [decode16_one c p hq, decodeC1, h3, hm, hi, hk.resolve_right hb, hHi, reg_low d hd]

/-- The two-register forms that have bit 12 clear. -/
theorem decode16_ca_clear (m : BitVec 2) (hd : isCReg d = true) (hb : isCReg b = true) (he : .half p = encCA 0x23 d m (low b)) :
    decode16 c p = some (if m = 0 then .sub .comp d d b else if m = 1 then .xor .comp d d b
      else if m = 2 then .or .comp d d b else .and .comp d d b) := by
  obtain ⟨h3, h12, hm, hHi, h5, hLo, hq⟩ := (half_eq_encCA_iff p 4 _ false 3 ..).1 he
  rw [decode16_ca c p h3 hm hq, decodeCA, if_neg (not_cModesw c p (.inl h12)), h12, if_neg Bool.false_ne_true]
  simp only [hHi, hLo, reg_low d hd, reg_low b hb, h5]
  split_ifs <;> rfl

/-- Those that have it set. -/
theorem decode16_ca_set (m : BitVec 2) (r : CReg) (hd : isCReg d = true) (he : .half p = encCA 0x27 d m r)
    (h : ¬(p = 0x9C1D#16 ∧ c.cfg.mode = true)) : decode16 c p = if m = 0 then some (.subw .comp d d r.reg) else if m = 1 then some (.addw .comp d d r.reg) else
      if m = 3 then (if r = 0 then some (.andi .comp d d 0x0FF) else if r = 4 then some (.add .compUw d d 0)
        else if r = 5 then some (.xori .comp d d 0xFFF) else none) else none := by
  obtain ⟨h3, h12, hm, hHi, h5, hLo, hq⟩ := (half_eq_encCA_iff p 4 _ true 3 ..).1 he
  rw [decode16_ca c p h3 hm hq, decodeCA, if_neg h, if_pos h12]
  simp only [hHi, hLo, reg_low d hd, h5]

/-- Outside what C.SUBW leaves to MODESW, its parcel is not MODESW's. -/
theorem subw_ne_cModesw (hd : isCReg d = true) (hb : isCReg b = true) (hav : (c.cfg.mode && d == 8 && b == 15) = false)
    (he : .half p = encCA 0x27 d 0 (low b)) : ¬(p = 0x9C1D#16 ∧ c.cfg.mode = true) := by
  rintro ⟨rfl, hmode⟩
  obtain ⟨-, -, -, hHi, -, hLo, -⟩ := (half_eq_encCA_iff _ 4 _ true 3 ..).1 he
  have hd8 : d = 8 := by rw [← reg_low d hd, ← hHi]; decide
  have hb15 : b = 15 := by rw [← reg_low b hb, ← hLo]; decide
  simp [hmode, hd8, hb15] at hav

theorem decode16_xori (hwf : wellFormed c (.xori .comp d a k) = true) (he : .half p = encode c (.xori .comp d a k)) :
    decode16 c p = some (.xori .comp d a k) := by
  simp only [wellFormed, Bool.and_eq_true, beq_iff_eq] at hwf
  obtain ⟨⟨rfl, hd⟩, rfl⟩ := hwf
  exact decode16_ca_set c p d 3 5 hd he (not_cModesw_of_encCA c p d 3 5 (by decide) he)

theorem decode16_zextW (hwf : wellFormed c (.add .compUw d a b) = true) (he : .half p = encode c (.add .compUw d a b)) :
    decode16 c p = some (.add .compUw d a b) := by
  simp only [wellFormed, Bool.and_eq_true, beq_iff_eq] at hwf
  obtain ⟨⟨rfl, hd⟩, rfl⟩ := hwf
  exact decode16_ca_set c p d 3 4 hd he (not_cModesw_of_encCA c p d 3 4 (by decide) he)

theorem decode16_addw (hwf : wellFormed c (.addw .comp d a b) = true) (he : .half p = encode c (.addw .comp d a b)) :
    decode16 c p = some (.addw .comp d a b) := by
  simp only [wellFormed, compCA, Bool.and_eq_true, beq_iff_eq] at hwf
  obtain ⟨⟨rfl, hd⟩, hb⟩ := hwf
  have row := decode16_ca_set c p d 1 (low b) hd he (not_cModesw_of_encCA c p d 1 (low b) (by decide) he)
  rwa [reg_low b hb] at row

theorem decode16_subw (hwf : wellFormed c (.subw .comp d a b) = true) (hav : c.available (.subw .comp d a b) = true)
    (he : .half p = encode c (.subw .comp d a b)) : decode16 c p = some (.subw .comp d a b) := by
  simp only [wellFormed, compCA, Bool.and_eq_true, beq_iff_eq] at hwf
  obtain ⟨⟨rfl, hd⟩, hb⟩ := hwf
  have free := (Bool.not_eq_true' _).mp (Bool.and_eq_true_iff.1 hav).2
  have row := decode16_ca_set c p d 0 (low b) hd he (subw_ne_cModesw c p d b hd hb free he)
  rwa [reg_low b hb] at row

end

/-! ## Quadrant 2 -/

theorem decode16_cMv (d b : Reg) (hwf : wellFormed c (.cMv d b) = true) (he : .half p = encode c (.cMv d b)) : decode16 c p = some (.cMv d b) := by
  simp only [wellFormed, Bool.and_eq_true, bne_iff_ne] at hwf
  obtain ⟨⟨-, hd⟩, hb⟩ := hwf
  obtain ⟨h3, h12, rfl, rfl, hq⟩ := (half_eq_encCI_iff p 4 _ _ false _).1 he
  rw [decode16_two c p hq, decodeC2, h12, h3]
  simp [show ¬pRd p = 0#5 from hd, show ¬pRs2 p = 0#5 from hb]

theorem decode16_add (d a b : Reg) (hwf : wellFormed c (.add .comp d a b) = true) (he : .half p = encode c (.add .comp d a b)) :
    decode16 c p = some (.add .comp d a b) := by
  simp only [wellFormed, Bool.and_eq_true, beq_iff_eq, bne_iff_ne] at hwf
  obtain ⟨⟨-, rfl⟩, hb⟩ := hwf
  obtain ⟨h3, h12, rfl, rfl, hq⟩ := (half_eq_encCI_iff p 4 _ _ true _).1 he
  rw [decode16_two c p hq, decodeC2, h12, h3]
  simp [show ¬pRs2 p = 0#5 from hb]

theorem decode16_slli (d a : Reg) (s : BitVec 6) (hwf : wellFormed c (.slli .comp d a s) = true) (he : .half p = encode c (.slli .comp d a s)) :
    decode16 c p = some (.slli .comp d a s) := by
  simp only [wellFormed, Bool.and_eq_true, beq_iff_eq, bne_iff_ne] at hwf
  obtain ⟨⟨⟨⟨-, rfl⟩, hd⟩, hs⟩, -⟩ := hwf
  obtain ⟨h3, rfl, rfl, hq⟩ := (half_eq_encCI6_iff ..).1 he
  have noHint : ¬((pRd p = 0 ∨ pImm6 p = 0) ∧ (c.x64 = true ∨ p.getLsbD 12 = false)) := fun h => h.1.elim hd hs
  rw [decode16_two c p hq, decodeC2, if_pos h3, if_neg noHint]

theorem decode16_zcm (h3 : pF3 p = 5) (hq : quad p = 2) (hi : decodeZcm c p = some i) : decode16 c p = some i := by
  simp [decode16_two c p hq, decodeC2, h3, hi]

/-- What Zcmp and Zcmt leave of their slot is a store. -/
theorem decode16_of_notZcm (h3 : pF3 p = 5) (hq : quad p = 2) (hn : decodeZcm c p = none) :
    decode16 c p = some (if c.cap && c.cfg.xlenmax64 then .cScsp (pRs2 p) (pOffQss p) else .cFsdsp (pRs2 p) (pOffDss p)) := by
  simp [decode16_two c p hq, decodeC2, h3, hn]

/-- Bits[12:10] are the upper bits of what names a frame instruction. -/
theorem decodeZcm_noFrame (hm : p.extractLsb' 10 3 ≠ 6 ∧ p.extractLsb' 10 3 ≠ 7) :
    p.extractLsb' 8 5 ≠ 0x18#5 ∧ p.extractLsb' 8 5 ≠ 0x1A#5 ∧ p.extractLsb' 8 5 ≠ 0x1C#5 ∧ p.extractLsb' 8 5 ≠ 0x1E#5 := by
  rw [← extractLsb'_extractLsb' p 8 5 2 3 (by decide)] at hm
  refine ⟨fun h => hm.1 ?_, fun h => hm.1 ?_, fun h => hm.2 ?_, fun h => hm.2 ?_⟩ <;> rw [h] <;> rfl

theorem decode16_cFsdsp (b : Reg) (o : BitVec 6) (hav : c.available (.cFsdsp b o) = true) (he : .half p = encode c (.cFsdsp b o)) :
    decode16 c p = some (.cFsdsp b o) := by
  obtain ⟨h3, rfl, rfl, hq⟩ := (half_eq_encDss_iff ..).1 he
  have hn : decodeZcm c p = none := by
    rw [Enc.half.inj he]
    exact Option.isNone_iff_eq_none.1 (Bool.and_eq_true_iff.1 hav).2
  rw [decode16_of_notZcm c p h3 hq hn, narrow_of_available hav, if_neg Bool.false_ne_true]

theorem decode16_cScsp (b : Reg) (o : BitVec 6) (hav : c.available (.cScsp b o) = true) (he : .half p = encode c (.cScsp b o)) :
    decode16 c p = some (.cScsp b o) := by
  obtain ⟨slot, free⟩ := Bool.and_eq_true_iff.1 hav
  have hcap := cap_of_available slot
  by_cases hm : c.cfg.xlenmax64 = true
  · obtain ⟨h3, rfl, rfl, hq⟩ := (half_eq_encQss_iff ..).1 (he.trans (if_pos hm))
    have hn : decodeZcm c p = none := by
      rw [hm] at free
      rw [Enc.half.inj (he.trans (if_pos hm))]
      exact Option.isNone_iff_eq_none.1 free
    rw [decode16_of_notZcm c p h3 hq hn, hcap, hm]
    rfl
  · obtain ⟨h3, rfl, rfl, hq⟩ := (half_eq_encDss_iff ..).1 (he.trans (if_neg hm))
    simp [decode16_two c p hq, decodeC2, h3, hcap, hm]

/-! ## All instructions -/

theorem half_ne_ite_word (q : Prop) [Decidable q] (w w' : BitVec 32) : Enc.half p ≠ if q then .word w else .word w' := by
  split <;> exact nofun

/-- C is enabled where a parcel encodes an available instruction. -/
theorem compressed_of_available (hav : c.available i = true) (he : .half p = encode c i) : (c.cfg.hasC && c.c16) = true := by
  cases i with
  | lui f _ _ | addi f _ _ _ | srli f _ _ _ | srai f _ _ _ | sub f _ _ _ | xor f _ _ _ | or f _ _ _ | and f _ _ _ | ebreak f =>
    cases f with
    | std => exact nomatch he
    | comp => exact hav
  | xori f _ _ _ | andi f _ _ _ | addiw f _ _ _ | addw f _ _ _ =>
    cases f with
    | std => exact nomatch he
    | comp => exact (Bool.and_eq_true_iff.1 hav).1
  | subw f _ _ _ =>
    cases f with
    | std => exact nomatch he
    | comp => simp_all [Ctx.available]
  | slli f _ _ _ | add f _ _ _ =>
    cases f with
    | std | uw => exact nomatch he
    | comp => exact hav
    | compUw => simp_all [Ctx.available]
  | cBeqz | cBnez | cMv | cAddi16sp | cAddi4spn | cJalr | cJr | cJ | cLw | cLwsp | cSw | cSwsp => exact hav
  | cModesw | cJal | cLd | cLdsp | cSd | cSdsp | cLbu | cLhu | cLh | cSb | cSh | cmPush | cmPop | cmPopretz | cmPopret | cmMvsa01 | cmMva01s
  | cmJt | cmJalt => exact (Bool.and_eq_true_iff.1 hav).1
  | cFlw | cFlwsp | cFsw | cFswsp | cFld | cFldsp | cFsd | cFsdsp | cLc | cLcsp | cSc | cScsp => simp_all [Ctx.available]
  | lc d a k | sc b a k => exact (half_ne_ite_word _ _ _ _ he).elim
  | _ => exact nomatch he

/-- The decoder undoes the encoder on the 16-bit encodings. -/
theorem decode16_of_encodes (hs : ctxSane c) (hl : c.legal i = true) (he : .half p = encode c i) : decode16 c p = some i := by
  obtain ⟨hx, -⟩ := hs
  obtain ⟨hwf, hav⟩ := (legal_iff c).1 hl
  cases i with
  | cAddi4spn d k =>
    obtain ⟨h3, rfl, rfl, hq⟩ := (half_eq_encode_cAddi4spn_iff ..).1 he
    simp [decode16_zero c p hq, decodeC0, h3]
  | cLw d a o | cSw b a o =>
    obtain ⟨h3, rfl, rfl, rfl, hq⟩ := (half_eq_encCLW_iff ..).1 he
    simp [decode16_zero c p hq, decodeC0, h3]
  | cLd d a o | cSd b a o =>
    obtain ⟨h3, rfl, rfl, rfl, hq⟩ := (half_eq_encCLD_iff ..).1 he
    simp [decode16_zero c p hq, decodeC0, h3, hx (Bool.and_eq_true_iff.1 hav).2]
  | cFlw d a o | cFsw b a o =>
    obtain ⟨h3, rfl, rfl, rfl, hq⟩ := (half_eq_encCLW_iff ..).1 he
    obtain ⟨h32, hleg⟩ := absent_of_available hav
    simp [decode16_zero c p hq, decodeC0, h3, h32, hleg]
  | cFld d a o | cFsd b a o =>
    obtain ⟨h3, rfl, rfl, rfl, hq⟩ := (half_eq_encCLD_iff ..).1 he
    rw [decode16_zero c p hq, decodeC0, h3, narrow_of_available hav]
    rfl
  | cLc d a o | cSc b a o =>
    have hcap := cap_of_available hav
    by_cases hm : c.cfg.xlenmax64 = true
    · obtain ⟨h3, rfl, rfl, rfl, hq⟩ := (half_eq_encCLQ_iff ..).1 (he.trans (if_pos hm))
      simp [decode16_zero c p hq, decodeC0, h3, hcap, hm]
    · obtain ⟨h3, rfl, rfl, rfl, hq⟩ := (half_eq_encCLD_iff ..).1 (he.trans (if_neg hm))
      simp [decode16_zero c p hq, decodeC0, h3, hcap, hm]
  | cLbu d a o =>
    obtain ⟨h3, hm, rfl, rfl, rfl, hq⟩ := (half_eq_encCLB_byte_iff p 4 _ _ 0 _).1 he
    simp [decode16_zero c p hq, decodeC0, h3, hm]
  | cSb b a o =>
    obtain ⟨h3, hm, rfl, rfl, rfl, hq⟩ := (half_eq_encCLB_byte_iff p 4 _ _ 2 _).1 he
    simp [decode16_zero c p hq, decodeC0, h3, hm]
  | cLhu d a o =>
    obtain ⟨h3, hm, rfl, h6, rfl, rfl, hq⟩ := (half_eq_encCLB_half_iff p 4 _ _ 1 false _).1 he
    rw [decode16_zero c p hq, decodeC0, h6, h3, hm]
    rfl
  | cLh d a o =>
    obtain ⟨h3, hm, rfl, h6, rfl, rfl, hq⟩ := (half_eq_encCLB_half_iff p 4 _ _ 1 true _).1 he
    rw [decode16_zero c p hq, decodeC0, h6, h3, hm]
    rfl
  | cSh b a o =>
    obtain ⟨h3, hm, rfl, h6, rfl, rfl, hq⟩ := (half_eq_encCLB_half_iff p 4 _ _ 3 false _).1 he
    rw [decode16_zero c p hq, decodeC0, h6, h3, hm]
    rfl
  | addi f d a k =>
    cases f with
    | std => exact nomatch he
    | comp => exact decode16_addi c p d a k hwf he
  | addiw f d a k =>
    cases f with
    | std => exact nomatch he
    | comp => exact decode16_addiw c p d a k hwf (Bool.and_eq_true_iff.1 hav).2 he
  | andi f d a k =>
    cases f with
    | std => exact nomatch he
    | comp => exact decode16_andi c p d a k hwf he
  | xori f d a k =>
    cases f with
    | std => exact nomatch he
    | comp => exact decode16_xori c p d a k hwf he
  | lui f d k =>
    cases f with
    | std => exact nomatch he
    | comp => exact decode16_lui c p d k hwf he
  | srli f d a s =>
    cases f with
    | std => exact nomatch he
    | comp =>
      simp only [wellFormed, Bool.and_eq_true, beq_iff_eq, bne_iff_ne] at hwf
      obtain ⟨⟨⟨rfl, hd⟩, hs⟩, -⟩ := hwf
      exact (decode16_shiftRight c p d 0 s hd hs he).1 rfl
  | srai f d a s =>
    cases f with
    | std => exact nomatch he
    | comp =>
      simp only [wellFormed, Bool.and_eq_true, beq_iff_eq, bne_iff_ne] at hwf
      obtain ⟨⟨⟨rfl, hd⟩, hs⟩, -⟩ := hwf
      exact (decode16_shiftRight c p d 1 s hd hs he).2 rfl
  | sub f d a b | xor f d a b | or f d a b | and f d a b =>
    cases f with
    | std => exact nomatch he
    | comp =>
      simp only [wellFormed, compCA, Bool.and_eq_true, beq_iff_eq] at hwf
      obtain ⟨⟨rfl, hd⟩, hb⟩ := hwf
      exact decode16_ca_clear c p d b _ hd hb he
  | addw f d a b =>
    cases f with
    | std => exact nomatch he
    | comp => exact decode16_addw c p d a b hwf he
  | subw f d a b =>
    cases f with
    | std => exact nomatch he
    | comp => exact decode16_subw c p d a b hwf hav he
  | add f d a b =>
    cases f with
    | std | uw => exact nomatch he
    | comp => exact decode16_add c p d a b hwf he
    | compUw => exact decode16_zextW c p d a b hwf he
  | cModesw =>
    have hmode : c.cfg.mode = true := (Bool.and_eq_true_iff.1 hav).2
    obtain rfl : p = 0x9C1D#16 := Enc.half.inj he
    rw [decode16_ca c _ rfl rfl rfl, decodeCA, if_pos ⟨rfl, hmode⟩]
  | cAddi16sp k =>
    obtain ⟨h3, rfl, hd, hq⟩ := (half_eq_encode_cAddi16sp_iff ..).1 he
    simp [decode16_one c p hq, decodeC1, h3, hd]
  | cJ o =>
    obtain ⟨h3, rfl, hq⟩ := (half_eq_encCJ_iff ..).1 he
    simp [decode16_one c p hq, decodeC1, h3]
  | cJal o =>
    obtain ⟨h3, rfl, hq⟩ := (half_eq_encCJ_iff ..).1 he
    have h32 : c.x64 = false := (Bool.not_eq_true' _).mp (Bool.and_eq_true_iff.1 hav).2
    simp [decode16_one c p hq, decodeC1, h3, h32]
  | cBeqz a o | cBnez a o =>
    obtain ⟨h3, rfl, rfl, hq⟩ := (half_eq_encCB_iff ..).1 he
    simp [decode16_one c p hq, decodeC1, h3]
  | slli f d a s =>
    cases f with
    | std | uw => exact nomatch he
    | comp => exact decode16_slli c p d a s hwf he
    | compUw => exact nomatch hav
  | cLwsp d o =>
    obtain ⟨h3, rfl, rfl, hq⟩ := (half_eq_encWsp_iff ..).1 he
    simp [decode16_two c p hq, decodeC2, h3]
  | cSwsp b o =>
    obtain ⟨h3, rfl, rfl, hq⟩ := (half_eq_encWss_iff ..).1 he
    simp [decode16_two c p hq, decodeC2, h3]
  | cLdsp d o =>
    obtain ⟨h3, rfl, rfl, hq⟩ := (half_eq_encDsp_iff ..).1 he
    simp [decode16_two c p hq, decodeC2, h3, hx (Bool.and_eq_true_iff.1 hav).2]
  | cSdsp b o =>
    obtain ⟨h3, rfl, rfl, hq⟩ := (half_eq_encDss_iff ..).1 he
    simp [decode16_two c p hq, decodeC2, h3, hx (Bool.and_eq_true_iff.1 hav).2]
  | cFlwsp d o =>
    obtain ⟨h3, rfl, rfl, hq⟩ := (half_eq_encWsp_iff ..).1 he
    obtain ⟨h32, hleg⟩ := absent_of_available hav
    simp [decode16_two c p hq, decodeC2, h3, h32, hleg]
  | cFswsp b o =>
    obtain ⟨h3, rfl, rfl, hq⟩ := (half_eq_encWss_iff ..).1 he
    obtain ⟨h32, hleg⟩ := absent_of_available hav
    simp [decode16_two c p hq, decodeC2, h3, h32, hleg]
  | cFldsp d o =>
    obtain ⟨h3, rfl, rfl, hq⟩ := (half_eq_encDsp_iff ..).1 he
    rw [decode16_two c p hq, decodeC2, h3, narrow_of_available hav]
    rfl
  | cFsdsp b o => exact decode16_cFsdsp c p b o hav he
  | cLcsp d o =>
    have hcap := cap_of_available hav
    by_cases hm : c.cfg.xlenmax64 = true
    · obtain ⟨h3, rfl, rfl, hq⟩ := (half_eq_encQsp_iff ..).1 (he.trans (if_pos hm))
      simp [decode16_two c p hq, decodeC2, h3, hcap, hm]
    · obtain ⟨h3, rfl, rfl, hq⟩ := (half_eq_encDsp_iff ..).1 (he.trans (if_neg hm))
      simp [decode16_two c p hq, decodeC2, h3, hcap, hm]
  | cScsp b o => exact decode16_cScsp c p b o hav he
  | ebreak f =>
    cases f with
    | std => exact nomatch he
    | comp =>
      rw [Enc.half.inj he]
      rfl
  | cMv d b => exact decode16_cMv c p d b hwf he
  | cJr a =>
    obtain ⟨h3, h12, rfl, hb, hq⟩ := (half_eq_encCI_iff p 4 _ _ false _).1 he
    rw [decode16_two c p hq, decodeC2, h12, h3, hb]
    rfl
  | cJalr a =>
    have ha : a ≠ 0 := bne_iff_ne.1 (Bool.and_eq_true_iff.1 hwf).2
    obtain ⟨h3, h12, rfl, hb, hq⟩ := (half_eq_encCI_iff p 4 _ _ true _).1 he
    rw [decode16_two c p hq, decodeC2, h12, h3, hb]
    simp [show ¬pRd p = 0#5 from ha]
  | cmPush l e | cmPop l e | cmPopretz l e | cmPopret l e =>
    have hz : c.cfg.hasZcmp = true := (Bool.and_eq_true_iff.1 hav).2
    obtain ⟨h3, hk, rfl, rfl, hq⟩ := (half_eq_encPP_iff ..).1 he
    exact decode16_zcm c p h3 hq (by simp [decodeZcm, hz, hk])
  | cmMvsa01 a b | cmMva01s a b =>
    have hz : c.cfg.hasZcmp = true := (Bool.and_eq_true_iff.1 hav).2
    obtain ⟨h3, hm, rfl, hk, rfl, hq⟩ := (half_eq_encMV_iff ..).1 he
    obtain ⟨n1, n2, n3, n4⟩ := decodeZcm_noFrame p (by rw [hm]; decide)
    exact decode16_zcm c p h3 hq (by simp [decodeZcm, hz, n1, n2, n3, n4, hm, hk])
  | cmJt k =>
    have hz : c.cfg.hasZcmt = true := (Bool.and_eq_true_iff.1 hav).2
    obtain ⟨h3, hm, rfl, hq⟩ := (half_eq_encJT_iff ..).1 he
    obtain ⟨n1, n2, n3, n4⟩ := decodeZcm_noFrame p (by rw [hm]; decide)
    have low32 := of_decide_eq_true hwf
    exact decode16_zcm c p h3 hq (by simpa [decodeZcm, hz, n1, n2, n3, n4, hm] using low32)
  | cmJalt k =>
    have hz : c.cfg.hasZcmt = true := (Bool.and_eq_true_iff.1 hav).2
    obtain ⟨h3, hm, rfl, hq⟩ := (half_eq_encJT_iff ..).1 he
    obtain ⟨n1, n2, n3, n4⟩ := decodeZcm_noFrame p (by rw [hm]; decide)
    have high32 := of_decide_eq_true hwf
    exact decode16_zcm c p h3 hq (by simpa [decodeZcm, hz, n1, n2, n3, n4, hm] using high32)
  | lc d a k | sc b a k => exact (half_ne_ite_word _ _ _ _ he).elim
  | _ => exact nomatch he

end

end Sys2Proof
end

section
/-!
PROOFS. The decoder and the encoder agree, both ways (30_encoding R130 to R141).
-/
namespace Sys2Proof
open Sys2Proof.Machine

section
variable (c : Ctx) (i : Instr)

/-! ## What decoding accepts -/

theorem accept_eq_ok_iff (o : Option Instr) : c.accept o = .ok i ↔ o = some i ∧ c.legal i = true := by
  cases o with
  | none => simp [Ctx.accept]
  | some j =>
    rw [legal_iff, Ctx.accept]
    constructor
    · intro h
      split_ifs at h with hwf hav
      cases h
      exact ⟨rfl, hwf, hav⟩
    · rintro ⟨⟨⟩, hwf, hav⟩
      rw [if_pos hwf, if_pos hav]

theorem decodeEnc_half_eq_ok_iff (p : BitVec 16) :
    decodeEnc c (.half p) = .ok i ↔ (c.cfg.hasC && c.c16) = true ∧ decode16 c p = some i ∧ c.legal i = true := by
  rw [← accept_eq_ok_iff, decodeEnc]
  split_ifs with h <;> simp [h]

/-- A longer encoding (R131) has no major opcode of the table. -/
theorem decode32_of_long (w : BitVec 32) (h : w.extractLsb' 2 3 = 7 ∨ w.extractLsb' 0 2 ≠ 3) : decode32 c w = none := by
  rw [← extractLsb'_extractLsb' w 0 7 2 3 (by decide), ← extractLsb'_extractLsb' w 0 7 0 2 (by decide)] at h
  have other (op : BitVec 7) (hop : ¬(op.extractLsb' 2 3 = 7 ∨ op.extractLsb' 0 2 ≠ 3)) : ¬opc w = op := fun ho => hop (ho ▸ h)
  simp [decode32, other 0x03#7 (by decide), other 0x07#7 (by decide), other 0x0F#7 (by decide), other 0x13#7 (by decide), other 0x17#7 (by decide),
    other 0x1B#7 (by decide), other 0x23#7 (by decide), other 0x27#7 (by decide), other 0x2F#7 (by decide), other 0x33#7 (by decide),
    other 0x37#7 (by decide), other 0x3B#7 (by decide), other 0x63#7 (by decide), other 0x67#7 (by decide), other 0x6F#7 (by decide),
    other 0x73#7 (by decide)]

theorem decodeEnc_word_eq_ok_iff (w : BitVec 32) : decodeEnc c (.word w) = .ok i ↔ decode32 c w = some i ∧ c.legal i = true := by
  rw [decodeEnc]
  split_ifs with h
  · simp [decode32_of_long c w h]
  · exact accept_eq_ok_iff c i _

end

/-! ## The obligations -/

/-- Settles O2: the fields of the encoding, by format, lead the decoder to the instruction. -/
theorem decodeOfEncode : Obligations.DecodeOfEncode := by
  intro c i hs hl
  cases he : encode c i with
  | half p =>
    have available := ((legal_iff c).1 hl).2
    exact (decodeEnc_half_eq_ok_iff c i p).2 ⟨compressed_of_available c p available he.symm, decode16_of_encodes c p hs hl he.symm, hl⟩
  | word w => exact (decodeEnc_word_eq_ok_iff c i w).2 ⟨decode32_of_encodes c w hs hl he.symm, hl⟩

/-- Settles O3: each row of the decoder's tables, taken with the fields that selected it, is the encoder's row. -/
theorem decodedEncodingIsTheEncoding : Obligations.DecodedEncodingIsTheEncoding := by
  intro c e i h
  cases e with
  | half p =>
    obtain ⟨-, hi, hl⟩ := (decodeEnc_half_eq_ok_iff c i p).1 h
    exact ⟨hl, (gives_decode16 c p i hi).imp Eq.symm fun ⟨hnop, hint⟩ => ⟨hnop, p, rfl, hint⟩⟩
  | word w =>
    obtain ⟨hi, hl⟩ := (decodeEnc_word_eq_ok_iff c i w).1 h
    exact ⟨hl, .inl (gives_decode32 c w i hi).symm⟩

end Sys2Proof
end

section
/-!
PROOFS. What a step outside debug mode does with the bytes it fetched, and what one in debug mode does with an empty program buffer (30_encoding R130, R140,
60_exceptions R393, R395, R396).
-/
namespace Sys2Proof.Machine
open Sys2Proof

/-! ## Running an encoding -/

section
variable (s : State) (e : Enc) (d : DecodeError)

theorem runEnc_of_ext (x : ExtInstr) (hd : decodeEnc s.ctx e = .error d) (hx : decodeExt s.ctx e = some x) : s.runEnc e = execExt x s := by
  simp [State.runEnc, hd, hx]

theorem runEnc_of_fp (f : FpInstr) (hd : decodeEnc s.ctx e = .error d) (hx : decodeExt s.ctx e = none) (hf : decodeFp s.ctx e = some f) :
    s.runEnc e = execFp f s := by
  simp [State.runEnc, hd, hx, hf]

theorem runEnc_undecodable (hd : decodeEnc s.ctx e = .error d) (hx : decodeExt s.ctx e = none) (hf : decodeFp s.ctx e = none) :
    s.runEnc e = .next (takeException s ⟨2, 0⟩) := by
  simp [State.runEnc, hd, hx, hf, illegal]

/-! ## A step outside debug mode -/

theorem afterStep_tickNext (o : Host.Outcome State Fault Refusal) : afterStep s.stepping (tickNext o) = s.thenStep o := by
  cases o <;> rfl

/-- With no halt request and no interrupt to take, a step runs the bytes it fetched. -/
theorem step_of_fetch (hd : s.debug = false) (hr : (s.haltReq && s.cfg.hasSdext) = false) (hi : s.holdsInterrupts = true ∨ s.interrupt = none)
    (he : s.fetch = .ok e) : step s = s.thenStep (s.runEnc e) := by
  have none_taken : (if s.holdsInterrupts then none else s.interrupt) = none := by
    rcases hi with hi | hi <;> simp [hi]
  simp only [step, hd, hr, State.runHart, none_taken, State.runNext, he, Bool.false_eq_true, if_false]
  exact afterStep_tickNext s _

theorem thenStep_of_not_stepping (t : State) (h : s.stepping = false) : s.thenStep (.next t) = .next t.tick := by
  rw [← afterStep_tickNext, h, afterStep_false]
  rfl

end

/-! ## Debug mode with an empty program buffer -/

section
variable (s : State) (hd : s.debug = true) (hb : s.progBuf = [])
include hd hb

theorem step_debugIdle : step s = s.debugIdle := by
  rw [step_of_debug s hd, State.runBuffer, hb]

theorem step_command (c : DebugCmd) (hc : s.command = some c) : step s = .next (s.runCommand c) := by
  rw [step_debugIdle s hd hb, State.debugIdle, hc]

theorem step_noCommand (hc : s.command = none) : step s = .next (if s.resumeReq then s.leaveDebug else s) := by
  rw [step_debugIdle s hd hb, State.debugIdle, hc]

end

/-- Settles O4: outside debug mode by what the fetched bytes decode to, in debug mode by what the buffer and the requests hold. -/
theorem stepRunsDecodedInstruction : Obligations.StepRunsDecodedInstruction := by
  refine ⟨fun s e hd hr hi he => ⟨fun i h => ?instr, fun d x h hx => ?ext, fun d f h hx hf => ?fp⟩, step_buffer_half, step_buffer_word,
    fun s hd hb => ⟨fun c hc he => ?dropped, fun c t hc he ht => ?done, fun c e hc he ht => ?failed, fun hc hr => ?resume, fun hc hr => ?wait⟩⟩
  case instr => rw [step_of_fetch s e hd hr hi he, runEnc_of_decode s e i h]
  case ext => rw [step_of_fetch s e hd hr hi he, runEnc_of_ext s e d x h hx]
  case fp => rw [step_of_fetch s e hd hr hi he, runEnc_of_fp s e d f h hx hf]
  case dropped => rw [step_command s hd hb c hc, State.runCommand, he, if_pos rfl]
  case done => simp [step_command s hd hb c hc, State.runCommand, he, ht]
  case failed => simp [step_command s hd hb c hc, State.runCommand, he, ht]
  case resume => rw [step_noCommand s hd hb hc, hr, if_pos rfl]
  case wait => rw [step_noCommand s hd hb hc, hr, if_neg Bool.false_ne_true]

/-- Settles O6: no decoder takes the bytes, so the step takes the exception. -/
theorem undecodableIsIllegal : Obligations.UndecodableIsIllegal := by
  intro s e d hd hr hi hs he h hx hf
  rw [step_of_fetch s e hd hr hi he, runEnc_undecodable s e d h hx hf, thenStep_of_not_stepping s _ hs]

end Sys2Proof.Machine
end

section
/-!
PROOFS. The parcels of an instruction, and the first check of a fetch that fails (30_encoding R131, 20_memory R106, R112, R113, 60_exceptions R367, R369).
-/
namespace Sys2Proof.Machine
open Sys2Proof

/-! ## Translation for any privilege -/

section
variable (s : State) (q : Priv) (kind : Acc) (va : Word) (m : SvMode) (root : Nat) (hsv : s.svMode q = some (m, root))
include hsv

theorem translateAs_invalid (hv : m.valid va = false) : s.translateAs q kind va = .exc ⟨kind.pageFault, va⟩ := by
  rw [State.translateAs, hsv]
  exact if_neg (by rw [hv]; exact Bool.false_ne_true)

theorem translateAs_of_walk_exc (e : Exc) (hv : m.valid va = true) (hc : s.cachedLeaf m va = none)
    (hw : s.walk kind va m m.levels root false = .exc e) : s.translateAs q kind va = .exc e := by
  rw [State.translateAs, hsv]
  refine (if_pos hv).trans ?_
  rw [leafOf_of_uncached s kind va m root hc, hw, Res.bind_exc]

end

/-! ## A parcel -/

/-- Two bytes, the second the more significant. -/
theorem ofNat_leNat_pair (b0 b1 : Byte) : BitVec.ofNat 16 (leNat [b0, b1]) = b1 ++ b0 := by
  apply BitVec.eq_of_toNat_eq
  rw [BitVec.toNat_append, ← Nat.shiftLeft_add_eq_or_of_lt b0.isLt, Nat.shiftLeft_eq, BitVec.toNat_ofNat]
  simp only [leNat]
  omega

section
variable (s : State) (va : Word)

theorem parcel_of_translate_exc (e : Exc) (h : s.translateAs s.priv .fetch va = .exc e) : s.parcel va = .exc e := by
  rw [State.parcel, State.parcelBytes, h, Res.bind_exc, Res.bind_exc]

theorem parcel_vacant (x : Phys) (h : s.translateAs s.priv .fetch va = .ok x) (hv : ∃ a ∈ span x.pa 2, Params.isMapped s.cfg a = false) :
    s.parcel va = .exc ⟨1, va⟩ := by
  obtain ⟨a, ha, hm⟩ := hv
  rw [State.parcel, State.parcelBytes, h, Res.bind_ok, pmaCheck_vacant _ _ _ _ a ha hm, Res.bind_exc, Res.bind_exc]
  rfl

/-- A mapped parcel is read little-endian. -/
theorem parcel_mapped (x : Phys) (h : s.translateAs s.priv .fetch va = .ok x) (hm : ∀ a ∈ span x.pa 2, Params.isMapped s.cfg a = true) :
    s.parcel va = .ok (s.loadByte (x.pa + 1) ++ s.loadByte x.pa) := by
  rw [State.parcel, State.parcelBytes, h, Res.bind_ok, (pmaCheck_eq_ok _ _ _ _ ()).2 hm, Res.bind_ok, Res.bind_ok, ← ofNat_leNat_pair]
  rfl

end

/-! ## The fetch -/

theorem fetch_of_bpCheck_halt (s : State) (h : s.bpCheck .fetch s.fetchAddr = .halt) : s.fetch = .halt := by
  rw [State.fetch, h, Res.bind_halt]

theorem fetch_of_bpCheck_exc (s : State) (e : Exc) (h : s.bpCheck .fetch s.fetchAddr = .exc e) : s.fetch = .exc e := by
  rw [State.fetch, h, Res.bind_exc]

/-- What comes before the first parcel passes: no breakpoint, pcc tagged, unsealed and executable, the parcel in its bounds. -/
def State.FetchAllowed (s : State) : Prop :=
  s.bpHit .fetch s.fetchAddr = false ∧ s.pccCheck = .ok () ∧ s.pcc.inBounds s.cfg s.pcc.addr 2 = true

section
variable (s : State) (allowed : s.FetchAllowed)
include allowed

/-- Then a fetch is its parcels. -/
theorem fetch_of_allowed : s.fetch = (s.parcel s.fetchAddr).bind fun p =>
    if isHalf p then .ok (.half p) else if p.extractLsb' 2 3 = 7 then .exc illegal
    else (s.pccLength 4).bind fun _ => (s.parcel (s.nextParcel s.fetchAddr)).bind fun q => .ok (.word (q ++ p)) := by
  obtain ⟨hb, hc, h2⟩ := allowed
  rw [State.fetch, fetch_bpCheck s hb, Res.bind_ok, hc, Res.bind_ok, pccLength_eq_ok s 2 h2, Res.bind_ok]

theorem fetch_of_parcel_exc (e : Exc) (h : s.parcel s.fetchAddr = .exc e) : s.fetch = .exc e := by
  rw [fetch_of_allowed s allowed, h, Res.bind_exc]

theorem fetch_of_translate_exc (e : Exc) (h : s.translateAs s.priv .fetch s.fetchAddr = .exc e) : s.fetch = .exc e :=
  fetch_of_parcel_exc s allowed e (parcel_of_translate_exc s _ e h)

variable (p : BitVec 16) (hp : s.parcel s.fetchAddr = .ok p)
include hp

theorem fetch_half (h : p.extractLsb' 0 2 ≠ 3) : s.fetch = .ok (.half p) := by
  have hhalf : isHalf p = true := bne_iff_ne.2 h
  rw [fetch_of_allowed s allowed, hp, Res.bind_ok, hhalf, if_pos rfl]

theorem fetch_notHalf (h : p.extractLsb' 0 2 = 3) : s.fetch = if p.extractLsb' 2 3 = 7 then .exc illegal
    else (s.pccLength 4).bind fun _ => (s.parcel (s.nextParcel s.fetchAddr)).bind fun q => .ok (.word (q ++ p)) := by
  have hhalf : isHalf p = false := bne_eq_false_iff_eq.2 h
  rw [fetch_of_allowed s allowed, hp, Res.bind_ok, hhalf, if_neg Bool.false_ne_true]

theorem fetch_long (h : p.extractLsb' 0 2 = 3) (h7 : p.extractLsb' 2 3 = 7) : s.fetch = .exc ⟨2, 0⟩ := by
  rw [fetch_notHalf s allowed p hp h, if_pos h7, illegal]

theorem fetch_word (h : p.extractLsb' 0 2 = 3) (h7 : p.extractLsb' 2 3 ≠ 7) (h4 : s.pcc.inBounds s.cfg s.pcc.addr 4 = true) :
    s.fetch = (s.parcel (s.nextParcel s.fetchAddr)).bind fun q => .ok (.word (q ++ p)) := by
  rw [fetch_notHalf s allowed p hp h, if_neg h7, pccLength_eq_ok s 4 h4, Res.bind_ok]

end

/-- Settles O5: breakpoint, pcc, first parcel, length, second parcel, each with the exception of its first check that fails. -/
theorem fetchReadsParcels : Obligations.FetchReadsParcels := by
  intro s
  refine ⟨fun hh => fetch_of_bpCheck_halt s (bpCheck_of_haltHit s _ _ hh), fun hh hb => fetch_of_bpCheck_exc s _ (bpCheck_of_bpHit s _ _ hh hb),
    fun hb ht hs hx h2 => ?_⟩
  have allowed : s.FetchAllowed := ⟨hb, pccCheck_executable s ht hs hx, h2⟩
  refine ⟨fetch_of_translate_exc s allowed, fun m root hsv hv => ?invalid,
    fun m root hsv hv hc => ⟨fun ⟨a, ha, hm⟩ => ?rootVacant, fun hm h0 => ?rootInvalid⟩, fun x hx => ⟨fun hv => ?vacant, fun hm => ?parcels⟩⟩
  case invalid => exact fetch_of_translate_exc s allowed _ (translateAs_invalid s _ .fetch _ m root hsv hv)
  case rootVacant =>
    obtain ⟨l, hl⟩ := levels_of_svMode s _ m root hsv
    have walked := walk_root_vacant s .fetch s.fetchAddr m l root a hl ha hm
    exact fetch_of_translate_exc s allowed _ (translateAs_of_walk_exc s _ .fetch _ m root hsv _ hv hc walked)
  case rootInvalid =>
    obtain ⟨l, hl⟩ := levels_of_svMode s _ m root hsv
    have walked := walk_root_invalid s .fetch s.fetchAddr m l root hl hm h0
    exact fetch_of_translate_exc s allowed _ (translateAs_of_walk_exc s _ .fetch _ m root hsv _ hv hc walked)
  case vacant => exact fetch_of_parcel_exc s allowed _ (parcel_vacant s _ x hx hv)
  case parcels =>
    have hp := parcel_mapped s s.fetchAddr x hx hm
    refine ⟨fetch_half s allowed _ hp, fetch_long s allowed _ hp, fun h h7 h4 => ?_⟩
    have word := fetch_word s allowed _ hp h h7 h4
    refine ⟨fun e he => ?_, fun y hy => ⟨fun hv => ?_, fun hm => ?_⟩⟩
    · rw [word, State.nextParcel, parcel_of_translate_exc s _ e he, Res.bind_exc]
    · rw [word, State.nextParcel, parcel_vacant s _ y hy hv, Res.bind_exc]
    · rw [word, State.nextParcel, parcel_mapped s _ y hy hm, Res.bind_ok]

end Sys2Proof.Machine
end

section
/-!
PROOFS. The words written out from the spec's encodings and examples (30_encoding).
-/
namespace Sys2Proof.Machine
open Sys2Proof

/-- Settles O1: closed facts, the decoder run on each of the words. -/
theorem decodeSanityWords : Obligations.DecodeSanityWords := by
  unfold Obligations.DecodeSanityWords
  decide

end Sys2Proof.Machine
end

section
/-!
PROOFS. The capability inspection instructions (40_cap_inspect R160 to R168).
-/
namespace Sys2Proof.Machine
open Sys2Proof

/-! ## One register written, pcc moved on -/

theorem wrote_wc_advance (s : State) (rd : Reg) (k : Cap) (n : Nat) : s.wrote ((s.wc rd k).advance n) rd k (s.nextPcc n) := by
  refine ⟨?pcc, fun j => rc_wc s rd j k, ?others⟩
  case pcc => simp [State.nextPcc, State.pccAt, State.toX, State.pc]
  case others =>
    unfold State.sameButRegs State.wc
    split <;> rfl

theorem wrote_wx_advance (s : State) (rd : Reg) (v : Word) (n : Nat) : s.wrote ((s.wx rd v).advance n) rd (s.intCap v) (s.nextPcc n) :=
  wrote_wc_advance s rd (s.intCap v) n

/-! ## GCLEN (R165) -/

theorem truncX_allOnes (p : Params) : truncX p (BitVec.allOnes 64) = BitVec.ofNat 64 (2 ^ p.xlenmax - 1) := by
  unfold truncX Params.xlenmax
  split <;> rfl

/-- The length of the whole address space is cut to the largest value of XLENMAX bits (92 D3). -/
theorem gclenVal_eq_min (p : Params) (k : Cap) :
    gclenVal p k = if k.malformed p then 0 else BitVec.ofNat 64 (min (k.length p) (2 ^ p.xlenmax - 1)) := by
  have positive : 0 < 2 ^ p.xlenmax := Nat.two_pow_pos _
  rw [gclenVal]
  congr 1
  split
  · next whole => rw [truncX_allOnes, Nat.min_eq_right (by omega)]
  · next part => rw [Nat.min_eq_left (by omega)]

/-! ## CRAM (R166) -/

theorem toNat_truncX (p : Params) (v : Word) : (truncX p v).toNat = v.toNat % 2 ^ p.xlenmax := by
  unfold truncX Params.xlenmax
  split
  · exact (Nat.mod_eq_of_lt v.isLt).symm
  · simp only [BitVec.toNat_setWidth]
    omega

/-- The search for the exponent takes the first of the exponents in order that fits. -/
theorem findExp_eq_find? (p : Params) (base top fuel e : Nat) :
    findExp p base top fuel e = ((List.range' e fuel).find? (expFits p base top)).getD (e + fuel) := by
  induction fuel generalizing e with
  | zero => rfl
  | succ fuel ih =>
    rw [findExp, List.range'_succ, List.find?_cons]
    split
    · next fits => simp [fits]
    · next short => simp [short, ih, Nat.add_right_comm, Nat.add_assoc]

/-- With base 0 only the length is rounded. -/
theorem expFits_zero (p : Params) (len e : Nat) :
    expFits p 0 len e = decide ((len + 2 ^ (e + hw p) - 1) / 2 ^ (e + hw p) * 2 ^ (e + hw p) < 2 ^ (e + mw p - 1)) := by
  simp [expFits, ceilTo, floorTo]

theorem requestExp_zero (p : Params) (len : Nat) : requestExp p 0 len = ((List.range (capMaxE p)).find? fun e =>
    decide ((len + 2 ^ (e + hw p) - 1) / 2 ^ (e + hw p) * 2 ^ (e + hw p) < 2 ^ (e + mw p - 1))).getD (capMaxE p) := by
  rw [requestExp, findExp_eq_find?, Nat.zero_add, Nat.zero_add, ← List.range_eq_range', funext (expFits_zero p len)]

/-- The mask in the exponent-zero format and in the other. -/
theorem cramMask_eq_ite (p : Params) (len : Nat) :
    cramMask p len = if smallLen p len then BitVec.allOnes 64 else ~~~(BitVec.ofNat 64 (2 ^ (requestExp p 0 len + hw p) - 1)) := by
  cases h : smallLen p len <;> simp [cramMask, encodeBounds, requestExp, h]

theorem cramMask_eq_cramOf (p : Params) (len : Nat) : cramMask p len = cramOf p len := by
  simp only [cramMask_eq_ite, smallLen_iff, requestExp_zero]
  rfl

/-! ## The instructions -/

theorem cheriOk_of_enabled (s : State) (h : s.cheriRegsDisabled = false) : s.cheriOk = .ok () := by
  rw [State.cheriOk, h, Bool.not_false, Res.check_true]

/-- With CHERI register access enabled an inspection writes its value and goes on (R160). -/
theorem run_inspect (s : State) (rd : Reg) (v : Word) (h : s.cheriRegsDisabled = false) :
    (s.inspect rd v).run s = .next ((s.wx rd v).advance 4) := by
  rw [State.inspect, cheriOk_of_enabled s h, Res.bind_ok, Res.run_ok]

theorem exec_of_inspectTable (s : State) (i : Instr) (rd : Reg) (v : Word) (h : inspectTable s i = some (rd, v)) :
    exec i s = (s.inspect rd v).run s := by
  cases i with
  | gctag | gchi | gcbase | sceq | scss => cases h; rfl
  | gcperm => cases h; rw [Nat.mul_comm 65536]; rfl
  | gclen => cases h; rw [← gclenVal_eq_min]; rfl
  | cram => cases h; rw [← toNat_truncX, ← cramMask_eq_cramOf]; rfl
  | _ => exact nomatch h

/-- Settles O24: each instruction inspects with the table's value, and an inspection writes that and moves pcc on. -/
theorem inspectionResults : Obligations.InspectionResults := by
  intro i s rd v enabled htable
  exact ⟨_, (exec_of_inspectTable s i rd v htable).trans (run_inspect s rd v enabled), wrote_wx_advance s rd v 4⟩

end Sys2Proof.Machine
end

section
/-!
PROOFS. The capability manipulation instructions (41_cap_manipulate R170 to R184): what setting bounds leaves, the result that each writes, and the mode switch.
-/
namespace Sys2Proof.Machine
open Sys2Proof

/-! ## Setting bounds (R179, R181) -/

/-- Where the encoder says exact, its bounds are the request. -/
theorem encodeBounds_of_exact (p : Params) (base len : Nat) (h : (encodeBounds p base len).exact = true) :
    (encodeBounds p base len).base = base ∧ (encodeBounds p base len).top = base + len := by
  cases hs : smallLen p len
  · rw [encodeBounds_of_large p _ _ hs] at h ⊢
    simpa using h
  · rw [encodeBounds_of_small p _ _ hs]
    exact ⟨rfl, rfl⟩

/-- The bounds that are set are not malformed: the result has the encoder's bits up to EF. -/
theorem malformed_setBounds (p : Params) (k : Cap) (len : Nat) (ex : Bool) (ha : truncX p k.addr = k.addr) :
    (k.setBounds p len ex).malformed p = false := by
  have encoded : (Cap.mk true (encodeBounds p k.addr.toNat len).bits k.addr).malformed p = false :=
    malformed_of_encodeBounds p _ k.addr.toNat len (toNat_lt_of_truncX p _ ha) rfl
  refine (malformed_congr p _ _ fun j hj => ?_).trans encoded
  rw [Cap.setBounds, getLsbD_putMask, getLsbD_boundsMask, if_pos (decide_eq_true hj)]

/-- Settles O29: the result's bounds are those of the encoder's bits, and these decode to the bounds the encoder names. -/
theorem setBoundsDecodesBack : Obligations.SetBoundsDecodesBack := by
  intro p k len ex ha hl
  have decoded := decodeBounds_setBounds p k len ex ha hl
  obtain ⟨below, above⟩ := encodeBounds_contains p k.addr.toNat len
  exact ⟨malformed_setBounds p k len ex ha, congrArg Prod.fst decoded, congrArg Prod.snd decoded, below, above,
    encodeBounds_of_exact p k.addr.toNat len⟩

/-! ## Results (R171 to R183) -/

/-- With CHERI register access enabled a manipulation writes its capability and goes on (R170). -/
theorem run_capResult (s : State) (rd : Reg) (k : Cap) (h : s.cheriRegsDisabled = false) :
    (s.capResult rd k).run s = .next ((s.wc rd k).advance 4) := by
  rw [State.capResult, cheriOk_of_enabled s h, Res.bind_ok, Res.run_ok]

theorem scbndsiLen_eq_ite (h : Bool) (u : BitVec 5) : scbndsiLen h u = if h then 16 * u.toNat else u.toNat := by
  rw [scbndsiLen, Nat.mul_comm]

theorem exec_of_manipTable (s : State) (i : Instr) (rd : Reg) (k : Cap) (h : manipTable s i = some (rd, k)) :
    exec i s = (s.capResult rd k).run s := by
  cases i with
  | cmv | cadd | scaddr | acperm | schi | sentry | cbld | scmode => cases h; rfl
  | caddi => cases h; rw [← simm_zero]; rfl
  | scbnds | scbndsr => cases h; rw [← toNat_truncX]; rfl
  | scbndsi => cases h; rw [← scbndsiLen_eq_ite]; rfl
  | _ => exact nomatch h

/-- Settles O25: each instruction has the table's capability as its result, which is written, and pcc is moved on. -/
theorem capabilityResults : Obligations.CapabilityResults := by
  intro i s rd k enabled htable
  exact ⟨_, (exec_of_manipTable s i rd k htable).trans (run_capResult s rd k enabled), wrote_wc_advance s rd k 4⟩

/-! ## MODESW (R184) -/

theorem putBit_not_getLsbD (v : Word) (i : Nat) (hi : i < 64) : putBit v i (!v.getLsbD i) = v ^^^ (1#64 <<< i) := by
  apply BitVec.eq_of_getLsbD_eq
  intro j hj
  rw [getLsbD_putBit _ _ _ _ hi, BitVec.getLsbD_xor, ← BitVec.twoPow_eq, BitVec.getLsbD_twoPow]
  by_cases hji : j = i
  · simp [hji, hi]
  · simp [hji, Ne.symm hji]

theorem mBit_lt (p : Params) : mBit p < 64 := by unfold mBit; split <;> decide

/-- What a mode switch does with CHERI register access enabled, outside debug mode and in it. -/
theorem run_switchMode (s : State) (n : Nat) (h : s.cheriRegsDisabled = false) :
    (s.switchMode n).run s =
      if s.debug then
        if s.cfg.debugModesw then .next ({ s with dinfcM := !s.dinfcM }.advance n) else .next (takeException s illegal)
      else .next ((s.setPcc { s.pcc with md := s.pcc.md ^^^ (1#64 <<< mBit s.cfg) }).advance n) := by
  rw [State.switchMode, cheriOk_of_enabled s h, Res.bind_ok, Cap.m, putBit_not_getLsbD _ _ (mBit_lt _)]
  cases s.debug <;> cases s.cfg.debugModesw <;> rfl

theorem exec_modeSwitch (s : State) (n : Nat) (i : Instr) (h : (i = .modesw ∧ n = 4) ∨ (i = .cModesw ∧ n = 2)) :
    exec i s = (s.switchMode n).run s := by
  obtain ⟨rfl, rfl⟩ | ⟨rfl, rfl⟩ := h <;> rfl

/-- Settles O26: the three clauses are the branches of the mode switch. -/
theorem modeSwitch : Obligations.ModeSwitch := by
  intro s n i enabled hi
  have meaning := (exec_modeSwitch s n i hi).trans (run_switchMode s n enabled)
  exact ⟨fun outside => ⟨_, meaning.trans (if_neg (Bool.eq_false_iff.1 outside)), rfl, rfl⟩,
    fun inside supported => meaning.trans ((if_pos inside).trans (if_pos supported)),
    fun inside unsupported => meaning.trans ((if_pos inside).trans (if_neg (Bool.eq_false_iff.1 unsupported)))⟩

end Sys2Proof.Machine
end

section
/-!
PROOFS. LC, SC and their compressed forms (42_cap_loadstore R191, R192): what a load gives, what a store leaves, and where they fault.
-/
namespace Sys2Proof.Machine
open Sys2Proof

/-! ## What comes before the access -/

/-- Of the conditions on an instruction before its access, those of a capability load and store are CHERI register access alone. -/
theorem ready_of_capLoadTable (s : State) (i : Instr) (rd rs1 : Reg) (off : Word) (len : Nat) (chk : Bool)
    (h : capLoadTable s.cfg i = some (rd, rs1, off, len, chk)) (hchk : chk = true → s.cheriRegsDisabled = false) :
    s.ready i ∧ s.unreserved i = s := by
  cases i with
  | lc => cases h; exact ⟨⟨fun _ => hchk rfl, nofun, nofun⟩, rfl⟩
  | cLc | cLcsp => cases h; exact ⟨⟨nofun, nofun, nofun⟩, rfl⟩
  | _ => exact nomatch h

theorem ready_of_capStoreTable (s : State) (i : Instr) (rs2 rs1 : Reg) (off : Word) (len : Nat) (chk : Bool)
    (h : capStoreTable s.cfg i = some (rs2, rs1, off, len, chk)) (hchk : chk = true → s.cheriRegsDisabled = false) :
    s.ready i ∧ s.unreserved i = s := by
  cases i with
  | sc => cases h; exact ⟨⟨fun _ => hchk rfl, nofun, nofun⟩, rfl⟩
  | cSc | cScsp => cases h; exact ⟨⟨nofun, nofun, nofun⟩, rfl⟩
  | _ => exact nomatch h

/-! ## Reading a granule (R191) -/

/-- A capability-wide access that can be made is aligned, and its bytes are the granule at the translated address (20_memory R101). -/
theorem bytes_of_canAccess_strict (s : State) (auth : Cap) (ea : Word) (n : Nat) (kind : Acc) (as : List Nat) (x : Phys)
    (h : s.canAccess auth ea n kind .strict as) (hx : s.translate kind ea = .ok x) : as = span x.pa n := by
  obtain ⟨-, ⟨-, y, hy, has⟩ | ⟨-, hal, -⟩, -⟩ := h
  · cases hx.symm.trans hy
    exact has
  · exact nomatch hal

theorem capRead_of_canAccess (s : State) (auth : Cap) (ea : Word) (as : List Nat) (x : Phys)
    (h : s.canAccess auth ea s.cfg.capBytes .load .strict as) (hx : s.translate .load ea = .ok x) :
    s.capRead auth ea = .ok (x.pa, s.loadedCap auth x.pa) := by
  have first : firstByte as = x.pa := by
    rw [bytes_of_canAccess_strict s auth ea _ .load as x h hx, firstByte_span _ _ (capBytes_pos _)]
  rw [State.capRead, (dataAccess_eq_ok ..).2 h, Res.bind_ok, first]

theorem capLoad_of_canAccess (s : State) (rd rs1 : Reg) (off : Word) (len : Nat) (as : List Nat) (x : Phys)
    (h : s.canAccess (s.authEa rs1 off).1 (s.authEa rs1 off).2 s.cfg.capBytes .load .strict as)
    (hx : s.translate .load (s.authEa rs1 off).2 = .ok x) :
    s.capLoad rd rs1 off len = .ok ((s.wc rd (s.loadedCap (s.authEa rs1 off).1 x.pa)).advance len) := by
  rw [State.capLoad, capRead_of_canAccess s _ _ as x h hx, Res.bind_ok]

/-- Settles O34: the load gives `loadedCap` of the granule, or stops where its misaligned path does. -/
theorem capabilityLoads : Obligations.CapabilityLoads := by
  intro i s rd rs1 off len chk htable hchk auth ea
  obtain ⟨hready, unreserved⟩ := ready_of_capLoadTable s i rd rs1 off len chk htable hchk
  have meaning := exec_of_capLoadTable s i rd rs1 off len chk htable hready
  refine ⟨fun as x hacc hx => ?loaded, fun hp ha => ?misaligned⟩
  case loaded =>
    rw [capLoad_of_canAccess s rd rs1 off len as x hacc hx, Res.run_ok] at meaning
    exact ⟨_, meaning, wrote_wc_advance s rd (s.loadedCap auth x.pa) len⟩
  case misaligned =>
    have stops : s.StopsAs i (s.dataPath auth ea s.cfg.capBytes .load .strict) := (State.StopsAs.of_run meaning).fst.fst.fst
    have fault := stops.exc _ (dataPath_misaligned s auth ea s.cfg.capBytes .load .strict hp ha nofun)
    rwa [unreserved] at fault

/-! ## Storing to a granule (R192) -/

/-- What a store that passed its checks leaves, with no page entry to update. -/
theorem stored_writeCap_advance (s : State) (pa : Nat) (k : Cap) (len : Nat) (hwf : s.mem.wf = true) :
    let t := (s.writeCap pa k).advance len
    s.capStoredAt t pa k ∧ t.pcc = s.nextPcc len ∧ t.regs = s.regs ∧ s.sameButMem t :=
  ⟨capStoredAt_writeCap s pa k hwf, rfl, rfl, rfl⟩

/-- Where the page rules let a value go on that stays tagged, they do so whatever the value (20_memory R120). -/
theorem pagesQuiet_of_cwQuiet (s : State) (auth : Cap) (leaf : Option (Nat × Word)) (v : Cap) (h : s.cwQuiet auth leaf v)
    (ht : (v.tag && (auth.perms s.cfg).w && (auth.perms s.cfg).c) = true) : s.PagesQuiet leaf := by
  intro b pte hleaf hpages
  obtain notPages | noLeaf | ⟨a, pte', hleaf', h59, hcd⟩ := h
  · exact nomatch hpages.symm.trans notPages
  · exact nomatch hleaf.symm.trans noLeaf
  · cases hleaf.symm.trans hleaf'
    obtain hcde | h60 | untagged := hcd
    · exact ⟨h59, .inl hcde⟩
    · exact ⟨h59, .inr h60⟩
    · exact nomatch ht.symm.trans untagged

/-- With the page rules quiet and no byte vacant, what is left to store is the value as its authority lets it be (20_memory R107). -/
theorem capWriteChecked_of_quiet (s : State) (auth : Cap) (ea : Word) (v : Cap) (kind : Acc) (x : Path)
    (hx : s.dataPath auth ea s.cfg.capBytes kind .strict = .ok x) (hq : s.PagesQuiet x.leaf)
    (hm : ∀ a ∈ x.bytes, Params.isMapped s.cfg a = true) :
    s.capWriteChecked auth ea v kind = .ok ⟨firstByte x.bytes, v.keepTag (grantsWC s.cfg auth), none⟩ := by
  have rule := cwRule_of_quiet s auth ea x.leaf (v.keepTag (grantsWC s.cfg auth)) hq
  simp [State.capWriteChecked, hx, State.currentPath, State.setsCd, rule, (pmaCheck_eq_ok _ _ _ _ ()).2 hm]

/-- A tagged value for memory that is not taggable, where the implementation faults (20_memory R110). -/
theorem tagRule_raiseFault (s : State) (ea : Word) (w : CapWrite) (hf : s.cfg.taggedToUntaggable = .raiseFault) (ht : w.val.tag = true)
    (hm : Params.isTaggable s.cfg w.pa = false) : s.tagRule ea w = .exc ⟨7, ea⟩ := by
  have untaggable : (w.val.tag && !Params.isTaggable s.cfg w.pa) = true := by rw [ht, hm]; rfl
  rw [State.tagRule, if_pos untaggable, if_pos hf]

theorem capWritePath_of_untaggable (s : State) (auth : Cap) (ea : Word) (v : Cap) (kind : Acc) (pa : Nat)
    (h : s.untaggable auth ea v kind pa) : s.capWritePath auth ea v kind = .exc ⟨7, ea⟩ := by
  obtain ⟨hp, ha, ⟨x, hx, rfl, hq⟩, hm, hf, hmain, ht⟩ := h
  have path : s.dataPath auth ea s.cfg.capBytes kind .strict = .ok ⟨span x.pa s.cfg.capBytes, x.leaf⟩ :=
    (dataPath_eq_ok ..).2 ⟨hp, .inl ⟨ha, x, hx, rfl⟩⟩
  have checked := capWriteChecked_of_quiet s auth ea v kind _ path (pagesQuiet_of_cwQuiet s auth x.leaf v hq ht) hm
  rw [firstByte_span _ _ (capBytes_pos _)] at checked
  have tagged : (v.keepTag (grantsWC s.cfg auth)).tag = true := (Bool.and_assoc ..).symm.trans ht
  rw [State.capWritePath, checked, Res.bind_ok, tagRule_raiseFault s ea _ hf tagged hmain]

/-- Settles O35: the store leaves `storedCap` in the granule, or stops where its misaligned path or the tag rule does. -/
theorem capabilityStores : Obligations.CapabilityStores := by
  intro i s rs2 rs1 off len chk htable hchk auth ea
  obtain ⟨hready, unreserved⟩ := ready_of_capStoreTable s i rs2 rs1 off len chk htable hchk
  have stops : s.StopsAs i (s.capWritePath auth ea (s.rc rs2) .store) :=
    (State.StopsAs.of_run (exec_of_capStoreTable s i rs2 rs1 off len chk htable hready)).fst
  refine ⟨fun pa hwf hst => ?stored, fun hp ha => ?misaligned, fun pa hun => ?untaggable⟩
  case stored =>
    have passed := capWritePath_of_canStoreCap s auth ea (s.rc rs2) .store pa hst
    exact ⟨_, exec_capStore_of_checked s i rs2 rs1 off len chk _ htable hready passed,
      stored_writeCap_advance s pa (s.storedCap auth pa (s.rc rs2)) len hwf⟩
  case misaligned =>
    have fault := stops.fst.fst.exc _ (dataPath_misaligned s auth ea s.cfg.capBytes .store .strict hp ha nofun)
    rwa [unreserved] at fault
  case untaggable =>
    have fault := stops.exc _ (capWritePath_of_untaggable s auth ea (s.rc rs2) .store pa hun)
    rwa [unreserved] at fault

end Sys2Proof.Machine
end

section
/-!
PROOFS. The integer loads and stores (43_base_integer R214 to R227): what an access that can be made gives, and what it leaves.
-/
namespace Sys2Proof.Machine
open Sys2Proof

/-! ## Loads (R214 to R222) -/

theorem intLoad_of_canAccess (s : State) (rd rs1 : Reg) (off : Word) (n : Nat) (sg : Bool) (len : Nat) (as : List Nat)
    (h : s.canAccess (s.authEa rs1 off).1 (s.authEa rs1 off).2 n .load .plain as) :
    s.intLoad rd rs1 off n sg len = .ok ((s.wx rd (if sg then sextBytes n (s.readInt as) else s.readInt as)).advance len) := by
  rw [State.intLoad, State.loadInt, (dataAccess_eq_ok ..).2 h, Res.bind_ok, Res.bind_ok]

/-- Settles O31: the load reads the bytes of its access, and a register write moves on from there. -/
theorem integerLoads : Obligations.IntegerLoads := by
  intro i s rd rs1 off n sg len as htable hacc v
  have meaning := exec_of_intLoadTable s i rd rs1 off n sg len htable
  rw [intLoad_of_canAccess s rd rs1 off n sg len as hacc, Res.run_ok] at meaning
  exact ⟨_, meaning, wrote_wx_advance s rd (if sg then sextBytes n v else v) len⟩

/-! ## Stores (R223 to R227) -/

theorem width_of_intStoreTable (i : Instr) (rs2 rs1 : Reg) (off : Word) (n len : Nat) (h : intStoreTable i = some (rs2, rs1, off, n, len)) :
    n ≤ 8 := by
  cases i with
  | sb | sh | sw | sd | cSw | cSd | cSwsp | cSdsp | cSb | cSh => cases h; decide
  | _ => exact nomatch h

theorem ordered_length (be : Bool) (bs : List Byte) : (ordered be bs).length = bs.length := by
  cases be
  · rfl
  · exact List.length_reverse

/-- What a store to distinct bytes does, in the byte order of data accesses (20_memory R98, R103). -/
theorem storedAt_writeInt (s : State) (as : List Nat) (v : Word) (hwf : s.mem.wf = true) (hn : as.Nodup) :
    s.storedAt (s.writeInt as v) as (ordered s.effBe (leBytes as.length v.toNat)) :=
  storedAt_storeBytes s as _ hwf hn (by rw [ordered_length, leBytes_length])

theorem intStore_of_canAccess (s : State) (rs2 rs1 : Reg) (off : Word) (n len : Nat) (as : List Nat)
    (h : s.canAccess (s.authEa rs1 off).1 (s.authEa rs1 off).2 n .store .plain as) :
    s.intStore rs2 rs1 off n len = .ok ((s.writeInt as (s.rx rs2)).advance len) := by
  rw [State.intStore, State.storeInt, (dataAccess_eq_ok ..).2 h, Res.bind_ok, Res.bind_ok]

/-- Settles O32: the bytes of the access are distinct, and the store writes those of the register to them. -/
theorem integerStores : Obligations.IntegerStores := by
  intro i s rs2 rs1 off n len as htable hwf hacc
  have meaning := exec_of_intStoreTable s i rs2 rs1 off n len htable
  rw [intStore_of_canAccess s rs2 rs1 off n len as hacc, Res.run_ok] at meaning
  have narrow : n ≤ 4096 := (width_of_intStoreTable i rs2 rs1 off n len htable).trans (by decide)
  obtain ⟨length, distinct⟩ := canAccess_bytes s _ _ n .store .plain as narrow hacc
  have stored := storedAt_writeInt s as (s.rx rs2) hwf distinct
  rw [length] at stored
  exact ⟨_, meaning, stored, rfl, rfl, rfl⟩

end Sys2Proof.Machine
end

section
/-!
PROOFS. MRET, SRET and DRET (43_base_integer R228 to R230; 60_exceptions R376, R397): the status a return restores, and where the returns trap.
-/
namespace Sys2Proof.Machine
open Sys2Proof

/-! ## The status after a return -/

/-- MPRV is kept in M-mode and cleared below it; no other bit is touched. -/
theorem getLsbD_mprvCleared (m : Word) (dst : Priv) (j : Nat) : (if dst = .machine then m else putBit m 17 false).getLsbD j =
    if j = 17 then m.getLsbD 17 && decide (dst = .machine) else m.getLsbD j := by
  by_cases hd : dst = .machine
  · rw [if_pos hd, decide_eq_true hd, Bool.and_true]
    split
    · next mprv => rw [mprv]
    · rfl
  · rw [if_neg hd, decide_eq_false hd, Bool.and_false, getLsbD_putBit _ _ _ _ (by decide)]

theorem getLsbD_mppField (j : Nat) : (3#64 <<< 11).getLsbD j = decide (j = 11 ∨ j = 12) := getLsbD_mppMask j

/-- Every bit of mstatus after MRET outside MPP. -/
theorem getLsbD_mstatusMret (m : Word) (dst least : Priv) (j : Nat) (h : ¬(j = 11 ∨ j = 12)) : (mstatusMret m dst least).getLsbD j =
    if j = 17 then m.getLsbD 17 && decide (dst = .machine) else if j = 7 then true else if j = 3 then m.getLsbD 7 else m.getLsbD j := by
  have outside (j : Nat) (h : ¬(j = 11 ∨ j = 12)) : (3#64 <<< 11).getLsbD j = false := (getLsbD_mppField j).trans (decide_eq_false h)
  simp only [mstatusMret, getLsbD_mprvCleared, getLsbD_putMask, outside j h, outside 17 (by decide), getLsbD_putBit _ 3 _ _ (by decide : 3 < 64),
    getLsbD_putBit _ 7 _ _ (by decide : 7 < 64)]
  rfl

theorem mpp_mstatusMret (m : Word) (dst least : Priv) : bitsOf (mstatusMret m dst least) 11 2 = least.num := by
  have written : bitsOf (mstatusMret m dst least) 11 2 = bitsOf (BitVec.ofNat 64 (least.num * 2 ^ 11)) 11 2 := by
    refine bitsOf_congr _ _ 11 2 fun j hlo hhi => ?_
    have inside : (3#64 <<< 11).getLsbD j = true := (getLsbD_mppField j).trans (decide_eq_true (by omega))
    have other : j ≠ 17 := by omega
    rw [mstatusMret, getLsbD_mprvCleared, if_neg other, getLsbD_putMask, if_pos inside]
  rw [written]
  cases least <;> rfl

/-- Every bit of mstatus after SRET. -/
theorem getLsbD_mstatusSret (m : Word) (dst : Priv) (j : Nat) : (mstatusSret m dst).getLsbD j =
    if j = 17 then m.getLsbD 17 && decide (dst = .machine) else if j = 8 then false else if j = 5 then true else if j = 1 then m.getLsbD 5
    else m.getLsbD j := by
  simp only [mstatusSret, getLsbD_mprvCleared, getLsbD_putBit _ 1 _ _ (by decide : 1 < 64), getLsbD_putBit _ 5 _ _ (by decide : 5 < 64),
    getLsbD_putBit _ 8 _ _ (by decide : 8 < 64)]
  rfl

theorem leastPriv_num (s : State) : s.leastPriv.num = if s.cfg.hasU then 0 else if s.cfg.hasS then 1 else 3 := by
  unfold State.leastPriv
  cases s.cfg.hasU <;> cases s.cfg.hasS <;> rfl

/-! ## The checks of a return -/

section
variable (s : State)

theorem asrOk_iff : s.asrOk = true ↔ s.debug = true ∨ (s.pcc.perms s.cfg).asr = true := by
  rw [State.asrOk, Bool.or_eq_true]

/-- The check of SRET: S-mode's privilege, and TSR clear where the mode is S itself. -/
theorem sret_check : (s.atLeast .supervisor && (s.debug || !(s.priv == .supervisor && s.st 22))) = true ↔
    s.debug = true ∨ s.priv = .machine ∨ (s.priv = .supervisor ∧ s.st 22 = false) := by
  rw [Bool.and_eq_true, atLeast_supervisor]
  cases s.debug <;> cases s.priv <;> simp

theorem exec_mret_allowed (hp : s.debug = true ∨ s.priv = .machine) (ha : s.debug = true ∨ (s.pcc.perms s.cfg).asr = true) :
    exec .mret s = .next s.returnM := by
  change s.mret.run s = _
  rw [State.mret, (atLeast_machine s).2 hp, (asrOk_iff s).2 ha, Res.check_true, Res.check_true, Res.bind_ok, Res.bind_ok, Res.run_ok]

theorem exec_sret_allowed (hp : s.debug = true ∨ s.priv = .machine ∨ (s.priv = .supervisor ∧ s.st 22 = false))
    (ha : s.debug = true ∨ (s.pcc.perms s.cfg).asr = true) : exec .sret s = .next s.returnS := by
  change s.sret.run s = _
  rw [State.sret, (sret_check s).2 hp, (asrOk_iff s).2 ha, Res.check_true, Res.check_true, Res.bind_ok, Res.bind_ok, Res.run_ok]

theorem exec_dret_debug (hd : s.debug = true) : exec .dret s = .next s.leaveDebug := by
  change s.dret.run s = _
  rw [State.dret, hd, Res.check_true, Res.bind_ok, Res.run_ok]

variable (hd : s.debug = false)
include hd

theorem asrOk_eq_false (ha : (s.pcc.perms s.cfg).asr = false) : s.asrOk = false := by rw [State.asrOk, hd, ha, Bool.or_false]

theorem exec_mret_unprivileged (hp : s.priv ≠ .machine) : exec .mret s = .next (takeException s ⟨2, 0⟩) := by
  have below : s.atLeast .machine = false := by simp [Bool.eq_false_iff, atLeast_machine, hd, hp]
  change s.mret.run s = _
  rw [State.mret, below, Res.check_false, Res.bind_exc, Res.run_exc, illegal]

theorem exec_mret_noAsr (hp : s.priv = .machine) (ha : (s.pcc.perms s.cfg).asr = false) : exec .mret s = .next (takeException s ⟨28, 2⟩) := by
  change s.mret.run s = _
  rw [State.mret, (atLeast_machine s).2 (.inr hp), Res.check_true, Res.bind_ok, asrOk_eq_false s hd ha, Res.check_false, Res.bind_exc]
  rfl

theorem exec_sret_unprivileged (hp : s.priv = .user ∨ (s.priv = .supervisor ∧ s.st 22 = true)) :
    exec .sret s = .next (takeException s ⟨2, 0⟩) := by
  have refused : (s.atLeast .supervisor && (s.debug || !(s.priv == .supervisor && s.st 22))) = false := by
    rw [Bool.eq_false_iff, ne_eq, sret_check]
    obtain hu | ⟨hS, htsr⟩ := hp
    · simp [hd, hu]
    · simp [hd, hS, htsr]
  change s.sret.run s = _
  rw [State.sret, refused, Res.check_false, Res.bind_exc, Res.run_exc, illegal]

theorem exec_sret_noAsr (hp : (s.priv = .supervisor ∧ s.st 22 = false) ∨ s.priv = .machine) (ha : (s.pcc.perms s.cfg).asr = false) :
    exec .sret s = .next (takeException s ⟨28, 2⟩) := by
  change s.sret.run s = _
  rw [State.sret, (sret_check s).2 (.inr hp.symm), Res.check_true, Res.bind_ok, asrOk_eq_false s hd ha, Res.check_false, Res.bind_exc]
  rfl

theorem exec_dret_outside : exec .dret s = .next (takeException s ⟨2, 0⟩) := by
  change s.dret.run s = _
  rw [State.dret, hd, Res.check_false, Res.bind_exc, Res.run_exc, illegal]

end

/-! ## The obligations -/

/-- Settles O18: an allowed MRET is `returnM`; the bits of its status are those of `mstatusMret`. -/
theorem mretReturns : Obligations.MretReturns := by
  intro s hp ha
  have bit (j : Nat) (h : ¬(j = 11 ∨ j = 12)) : s.returnM.st j = _ := getLsbD_mstatusMret s.csr.mstatus (s.legalPriv s.mpp) s.leastPriv j h
  refine ⟨s.returnM, exec_mret_allowed s hp ha, rfl, rfl, bit 3 (by decide), bit 7 (by decide), ?mpp, bit 17 (by decide),
    fun j h3 h7 h11 h12 h17 => ?others, rfl⟩
  case mpp =>
    rw [← bitsOf_two, ← leastPriv_num]
    exact mpp_mstatusMret s.csr.mstatus (s.legalPriv s.mpp) s.leastPriv
  case others => rw [bit j (not_or.2 ⟨h11, h12⟩), if_neg h17, if_neg h7, if_neg h3, State.st]

/-- Settles O19: an allowed SRET is `returnS`; the bits of its status are those of `mstatusSret`. -/
theorem sretReturns : Obligations.SretReturns := by
  intro s hp ha
  have bit (j : Nat) : s.returnS.st j = _ := getLsbD_mstatusSret s.csr.mstatus s.sretPriv j
  refine ⟨s.returnS, exec_sret_allowed s hp ha, rfl, rfl, bit 1, bit 5, bit 8, bit 17, fun j h1 h5 h8 h17 => ?others, rfl⟩
  rw [bit j, if_neg h17, if_neg h8, if_neg h5, if_neg h1, State.st]

/-- Settles O20: in debug mode DRET is `leaveDebug`. -/
theorem dretReturns : Obligations.DretReturns := by
  intro s hd
  exact ⟨s.leaveDebug, exec_dret_debug s hd, rfl, rfl, rfl, rfl, rfl, rfl, rfl, rfl⟩

/-- Settles O21: each return outside debug mode stops at the first of its checks that fails. -/
theorem returnsCheckPrivilege : Obligations.ReturnsCheckPrivilege := by
  intro s hd
  exact ⟨exec_mret_unprivileged s hd, exec_mret_noAsr s hd, fun hu => exec_sret_unprivileged s hd (.inl hu),
    fun hS htsr => exec_sret_unprivileged s hd (.inr ⟨hS, htsr⟩), exec_sret_noAsr s hd, exec_dret_outside s hd⟩

end Sys2Proof.Machine
end

section
/-!
PROOFS. AUIPC, jumps and branches (43_base_integer R200 to R212): the meaning of each table's instructions, the checks on a target, and where they fault.
-/
namespace Sys2Proof.Machine
open Sys2Proof

/-! ## The meaning of the instructions of a table -/

theorem exec_of_directJumpTable (s : State) (i : Instr) (rd : Reg) (off : Word) (len : Nat) (h : directJumpTable i = some (rd, off, len)) :
    exec i s = (s.jumpDirect rd off len).run s := by
  cases i with
  | jal | cJal | cJ => cases h; rfl
  | _ => exact nomatch h

/-- JALR.MODE asks first for CHERI register access (11_csrs R90). -/
theorem exec_of_indirectJumpTable (s : State) (i : Instr) (rd rs1 : Reg) (off : Word) (len : Nat) (cap : Bool)
    (h : indirectJumpTable s.capMode i = some (rd, rs1, off, len, cap)) (hc : (∃ d a, i = .jalrMode d a) → s.cheriRegsDisabled = false) :
    exec i s = (s.jumpIndirect rd rs1 off len cap).run s := by
  cases i with
  | jalr => cases h; rw [← simm_zero]; rfl
  | cJalr | cJr => cases h; rfl
  | jalrMode d a =>
    have enabled := hc ⟨d, a, rfl⟩
    cases h
    change (s.cheriOk.bind fun _ => s.jumpIndirect rd rs1 0 4 (!s.capMode)).run s = _
    rw [cheriOk_of_enabled s enabled, Res.bind_ok]
  | _ => exact nomatch h

theorem condHolds_eq (a b : Word) : condHolds .eq a b = decide (a = b) := rfl
theorem condHolds_ne (a b : Word) : condHolds .ne a b = decide (a ≠ b) := (decide_not ..).symm
theorem condHolds_lt (a b : Word) : condHolds .lt a b = decide (a.toInt < b.toInt) := rfl
theorem condHolds_ge (a b : Word) : condHolds .ge a b = decide (b.toInt ≤ a.toInt) := by
  rw [condHolds, BitVec.slt, ← decide_not, decide_eq_decide, not_lt]
theorem condHolds_ltu (a b : Word) : condHolds .ltu a b = decide (a.toNat < b.toNat) := rfl
theorem condHolds_geu (a b : Word) : condHolds .geu a b = decide (b.toNat ≤ a.toNat) := by
  rw [condHolds, BitVec.ult, ← decide_not, decide_eq_decide, not_lt]

theorem exec_of_branchTable (s : State) (i : Instr) (taken : Bool) (off : Word) (len : Nat) (h : branchTable s i = some (taken, off, len)) :
    ∃ c a b, condHolds c a b = taken ∧ exec i s = (s.branch c a b off len).run s := by
  cases i with
  | beq => cases h; exact ⟨_, _, _, condHolds_eq .., rfl⟩
  | bne => cases h; exact ⟨_, _, _, condHolds_ne .., rfl⟩
  | blt => cases h; exact ⟨_, _, _, condHolds_lt .., rfl⟩
  | bge => cases h; exact ⟨_, _, _, condHolds_ge .., rfl⟩
  | bltu => cases h; exact ⟨_, _, _, condHolds_ltu .., rfl⟩
  | bgeu => cases h; exact ⟨_, _, _, condHolds_geu .., rfl⟩
  | cBeqz => cases h; exact ⟨_, _, _, condHolds_eq .., rfl⟩
  | cBnez => cases h; exact ⟨_, _, _, condHolds_ne .., rfl⟩
  | _ => exact nomatch h

/-! ## The checks on a target (R200, R202 to R204) -/

section
variable (s : State)

/-- Bit 0 of an indirect target is cleared before pcc is asked whether it can hold the rest. -/
theorem indirectTarget_eq (a off : Word) : s.indirectTarget a off = s.targetAt ((a + off) &&& ~~~1#64) := rfl

theorem pcrelCheck_illegal (hd : s.debug = true) (hi : s.cfg.debugPcrelIllegal = true) : s.pcrelCheck = .exc illegal := by
  rw [State.pcrelCheck, hd, hi]
  rfl

theorem targetAlign_aligned (t : Word) (h : t.toNat % s.minLen = 0) : s.targetAlign t = .ok () := by
  rw [State.targetAlign, decide_eq_true h, Res.check_true]

theorem targetAlign_misaligned (t : Word) (h : t.toNat % s.minLen ≠ 0) : s.targetAlign t = .exc ⟨0, s.cutX t⟩ := by
  rw [State.targetAlign, decide_eq_false h, Res.check_false]

theorem checkTarget_misaligned (t : Word) (h : t.toNat % s.minLen ≠ 0) : s.checkTarget t = .exc ⟨0, s.cutX t⟩ := by
  rw [State.checkTarget, targetAlign_misaligned s t h, Res.bind_exc]

theorem checkTarget_outside (t : Word) (hd : s.debug = false) (h : t.toNat % s.minLen = 0) (hb : s.pcc.inBounds s.cfg t s.minLen = false) :
    s.checkTarget t = .exc ⟨28, 0x20003⟩ := by
  rw [State.checkTarget, targetAlign_aligned s t h, Res.bind_ok, State.targetInPcc, hd, hb]
  rfl

end

section
variable (s : State) (k : Cap) (off : Word)

theorem checkJumpCap_misaligned (h : (s.indirectTarget k.addr off).toNat % s.minLen ≠ 0) :
    s.checkJumpCap k off = .exc ⟨0, s.cutX (s.indirectTarget k.addr off)⟩ := by
  rw [State.checkJumpCap, targetAlign_misaligned s _ h, Res.bind_exc]

/-- The check on sealing passes for an unsealed capability, and for a sealed one without offset. -/
theorem sealedAway_eq_false (hs : k.s s.cfg = false ∨ off = 0) : (k.s s.cfg && off != 0) = false := by
  obtain hs | rfl := hs
  · rw [hs, Bool.false_and]
  · exact Bool.and_false _

variable (h : (s.indirectTarget k.addr off).toNat % s.minLen = 0)
include h

theorem checkJumpCap_untagged (ht : k.tag = false) : s.checkJumpCap k off = .exc ⟨28, 0x20000⟩ := by
  rw [State.checkJumpCap, targetAlign_aligned s _ h, Res.bind_ok, ht]
  rfl

theorem checkJumpCap_sealed (ht : k.tag = true) (hs : k.s s.cfg = true) (ho : off ≠ 0) : s.checkJumpCap k off = .exc ⟨28, 0x20001⟩ := by
  rw [State.checkJumpCap, targetAlign_aligned s _ h, Res.bind_ok, ht, hs, (bne_iff_ne ..).2 ho]
  rfl

theorem checkJumpCap_notExecutable (ht : k.tag = true) (hs : k.s s.cfg = false ∨ off = 0) (hx : (k.perms s.cfg).x = false) :
    s.checkJumpCap k off = .exc ⟨28, 0x20002⟩ := by
  rw [State.checkJumpCap, targetAlign_aligned s _ h, Res.bind_ok, ht, sealedAway_eq_false s k off hs, hx]
  rfl

theorem checkJumpCap_outside (ht : k.tag = true) (hs : k.s s.cfg = false ∨ off = 0) (hx : (k.perms s.cfg).x = true)
    (hb : k.inBounds s.cfg (s.indirectTarget k.addr off) s.minLen = false) : s.checkJumpCap k off = .exc ⟨28, 0x20003⟩ := by
  rw [State.checkJumpCap, targetAlign_aligned s _ h, Res.bind_ok, ht, sealedAway_eq_false s k off hs, hx, hb]
  rfl

end

/-! ## A jump is its checks and then its effect -/

/-- The link register holds the sealed pcc of the next instruction, or its address (R202). -/
def State.linkValue (s : State) (len : Nat) (capForm : Bool) : Cap :=
  if capForm then (withAddress s.cfg s.pcc (s.toX (s.pc + BitVec.ofNat 64 len))).seal s.cfg else s.intCap (s.pc + BitVec.ofNat 64 len)

theorem writeLink_eq_wc (s : State) (rd : Reg) (len : Nat) (capForm : Bool) : s.writeLink rd len capForm = s.wc rd (s.linkValue len capForm) := by
  cases capForm <;> rfl

theorem wrote_wc_setPcc (s : State) (rd : Reg) (k k' : Cap) : s.wrote ((s.wc rd k).setPcc k') rd k k' := by
  refine ⟨rfl, fun j => rc_wc s rd j k, ?others⟩
  unfold State.sameButRegs State.wc
  split <;> rfl

theorem wrote_writeLink_setPcc (s : State) (rd : Reg) (len : Nat) (capForm : Bool) (k : Cap) :
    s.wrote ((s.writeLink rd len capForm).setPcc k) rd (s.linkValue len capForm) k := by
  rw [writeLink_eq_wc]
  exact wrote_wc_setPcc s rd _ k

theorem wrote_writeLink_jumpTo (s : State) (rd : Reg) (len : Nat) (capForm : Bool) (t : Word) :
    s.wrote ((s.writeLink rd len capForm).jumpTo t) rd (s.linkValue len capForm) { s.pcc with addr := t } := by
  rw [writeLink_eq_wc, State.jumpTo, wc_pcc]
  exact wrote_wc_setPcc s rd _ _

section
variable (s : State) (hpc : s.debug = false ∨ s.cfg.debugPcrelIllegal = false) (rd rs1 : Reg) (off : Word) (len : Nat)
include hpc

theorem jumpDirect_eq_bind : s.jumpDirect rd off len = (s.checkTarget (s.targetAt (s.pc + off))).bind fun _ =>
    .ok ((s.writeLink rd len s.capMode).jumpTo (s.targetAt (s.pc + off))) := by
  rw [State.jumpDirect, (pcrelCheck_eq_ok s ()).2 hpc, Res.bind_ok]

theorem jumpIndirect_cap_eq_bind : s.jumpIndirect rd rs1 off len true = (s.checkJumpCap (s.rc rs1) off).bind fun _ =>
    .ok ((s.writeLink rd len true).setPcc (s.jumpedPcc (s.rc rs1) off)) := by
  rw [State.jumpIndirect, if_pos rfl, State.jumpCap, (pcrelCheck_eq_ok s ()).2 hpc, Res.bind_ok]

theorem jumpIndirect_int_eq_bind : s.jumpIndirect rd rs1 off len false = (s.checkTarget (s.indirectTarget (s.rx rs1) off)).bind fun _ =>
    .ok ((s.writeLink rd len false).jumpTo (s.indirectTarget (s.rx rs1) off)) := by
  rw [State.jumpIndirect, if_neg Bool.false_ne_true, State.jumpInt, (pcrelCheck_eq_ok s ()).2 hpc, Res.bind_ok]

theorem branch_taken_eq_bind (c : Cond) (a b : Word) (h : condHolds c a b = true) :
    s.branch c a b off len = (s.checkTarget (s.targetAt (s.pc + off))).bind fun _ => .ok (s.jumpTo (s.targetAt (s.pc + off))) := by
  rw [State.branch, (pcrelCheck_eq_ok s ()).2 hpc, Res.bind_ok, if_pos h]

theorem branch_notTaken (c : Cond) (a b : Word) (h : condHolds c a b = false) : s.branch c a b off len = .ok (s.advance len) := by
  rw [State.branch, (pcrelCheck_eq_ok s ()).2 hpc, Res.bind_ok, if_neg (by rw [h]; exact Bool.false_ne_true)]

end

/-! ## AUIPC, jumps and branches that complete -/

theorem exec_auipc (s : State) (rd : Reg) (imm : BitVec 20) (hpc : s.debug = false ∨ s.cfg.debugPcrelIllegal = false) :
    exec (.auipc rd imm) s = .next ((if s.capMode then s.wc rd (s.pcc.setAddr s.cfg (s.toX (s.pc + upperImm imm)))
      else s.wx rd (s.pc + upperImm imm)).advance 4) := by
  change (s.pcrelCheck.bind _).run s = _
  rw [(pcrelCheck_eq_ok s ()).2 hpc, Res.bind_ok, Res.run_ok]

/-- Settles O43: one register written in either mode. -/
theorem auipcResult : Obligations.AuipcResult := by
  intro s rd imm hpc a
  refine ⟨_, exec_auipc s rd imm hpc, ?_⟩
  split
  · exact wrote_wc_advance s rd (withAddress s.cfg s.pcc (s.toX a)) 4
  · exact wrote_wx_advance s rd a 4

/-- Settles O44: the target passes its check, the link is written, and pcc takes the target. -/
theorem directJumps : Obligations.DirectJumps := by
  intro i s rd off len htable hpc target next ha hb
  have passes : s.checkTarget target = .ok () := (checkTarget_eq_ok s target ()).2 ⟨ha, hb⟩
  have meaning := exec_of_directJumpTable s i rd off len htable
  rw [jumpDirect_eq_bind s hpc, passes, Res.bind_ok, Res.run_ok] at meaning
  exact ⟨_, meaning, wrote_writeLink_jumpTo s rd len s.capMode target⟩

/-- Settles O45: through a capability and through an integer, the target passes its check, the link is written, and pcc is replaced or moved. -/
theorem indirectJumps : Obligations.IndirectJumps := by
  intro i s rd rs1 off len cap htable hpc hcheri next
  have meaning := exec_of_indirectJumpTable s i rd rs1 off len cap htable hcheri
  refine ⟨?throughCap, ?throughInt⟩
  case throughCap =>
    intro hcap k target ha ht hs hx hb
    have passes : s.checkJumpCap k off = .ok () := (checkJumpCap_eq_ok s k off ()).2 ⟨ha, ht, hs, hx, hb⟩
    rw [hcap, jumpIndirect_cap_eq_bind s hpc, passes, Res.bind_ok, Res.run_ok] at meaning
    exact ⟨_, meaning, wrote_writeLink_setPcc s rd len true _⟩
  case throughInt =>
    intro hint target ha hb
    have passes : s.checkTarget target = .ok () := (checkTarget_eq_ok s target ()).2 ⟨ha, hb⟩
    rw [hint, jumpIndirect_int_eq_bind s hpc, indirectTarget_eq, passes, Res.bind_ok, Res.run_ok] at meaning
    exact ⟨_, meaning, wrote_writeLink_jumpTo s rd len false target⟩

/-- Settles O46: a branch whose condition holds moves pcc to the target that passed its check, any other moves on. -/
theorem branches : Obligations.Branches := by
  intro i s taken off len htable hpc target
  obtain ⟨c, a, b, hcond, meaning⟩ := exec_of_branchTable s i taken off len htable
  refine ⟨fun ht ha hb => ?taken, fun hn => ?notTaken⟩
  case taken =>
    have passes : s.checkTarget target = .ok () := (checkTarget_eq_ok s target ()).2 ⟨ha, hb⟩
    rw [meaning, branch_taken_eq_bind s hpc off len c a b (hcond.trans ht), passes, Res.bind_ok, Res.run_ok]
    rfl
  case notTaken =>
    rw [meaning, branch_notTaken s hpc off len c a b (hcond.trans hn), Res.run_ok]
    rfl

/-! ## Jumps and branches that fault -/

theorem run_bind_exc {α : Type} (s : State) (r : Res α) (f : α → Res State) (e : Exc) (h : r = .exc e) :
    (r.bind f).run s = .next (takeException s e) := by rw [h, Res.bind_exc, Res.run_exc]

theorem cheriRegsDisabled_of_debug (s : State) (hd : s.debug = true) : s.cheriRegsDisabled = false := by
  rw [State.cheriRegsDisabled, hd, Bool.not_true, Bool.and_false, Bool.false_and]

theorem run_jumpIndirect_illegal (s : State) (rd rs1 : Reg) (off : Word) (len : Nat) (cap : Bool) (h : s.pcrelCheck = .exc illegal) :
    (s.jumpIndirect rd rs1 off len cap).run s = .next (takeException s illegal) := by
  cases cap with
  | true => exact run_bind_exc s s.pcrelCheck _ illegal h
  | false => exact run_bind_exc s s.pcrelCheck _ illegal h

/-- In debug mode, where the implementation says so, what reads or updates pcc is illegal (R200). -/
theorem exec_pcrel_illegal (s : State) (i : Instr) (hp : pcrelTable i = true) (hd : s.debug = true) (hi : s.cfg.debugPcrelIllegal = true) :
    exec i s = .next (takeException s illegal) := by
  have refused := pcrelCheck_illegal s hd hi
  cases i with
  | auipc | jal | cJal | cJ | beq | bne | blt | bge | bltu | bgeu | cBeqz | cBnez | cmJt | cmJalt =>
    exact run_bind_exc s s.pcrelCheck _ illegal refused
  | jalr | cJalr | cJr => exact run_jumpIndirect_illegal s _ _ _ _ _ refused
  | jalrMode d a =>
    change (s.cheriOk.bind fun _ => s.jumpIndirect d a 0 4 (!s.capMode)).run s = _
    rw [cheriOk_of_enabled s (cheriRegsDisabled_of_debug s hd), Res.bind_ok]
    exact run_jumpIndirect_illegal s _ _ _ _ _ refused
  | cmPopret l e =>
    change execCmPopret l e s = _
    rw [execCmPopret, refused]
    rfl
  | cmPopretz l e =>
    change execCmPopretz l e s = _
    rw [execCmPopretz, refused]
    rfl
  | _ => exact nomatch hp

/-- A jump to an address under pcc stops where the check of its target does. -/
theorem exec_of_checkTarget_exc (s : State) (i : Instr) (f : Unit → Res State) (t : Word) (h : exec i s = ((s.checkTarget t).bind f).run s)
    (hd : s.debug = false) :
    (t.toNat % s.minLen ≠ 0 → exec i s = .next (takeException s ⟨0, s.cutX t⟩)) ∧
      (t.toNat % s.minLen = 0 → s.pcc.inBounds s.cfg t s.minLen = false → exec i s = .next (takeException s ⟨28, 0x20003⟩)) :=
  ⟨fun ha => h.trans (run_bind_exc s _ f _ (checkTarget_misaligned s t ha)),
    fun ha hb => h.trans (run_bind_exc s _ f _ (checkTarget_outside s t hd ha hb))⟩

/-- Settles O47: each clause is a check of the instruction that raises its exception. -/
theorem jumpFaults : Obligations.JumpFaults := by
  refine ⟨fun i s => exec_pcrel_illegal s i, ?direct, ?throughInt, ?throughCap⟩
  case direct =>
    intro i s off len hd htable target
    obtain ⟨rd, htable⟩ | htable := htable
    · have meaning := exec_of_directJumpTable s i rd off len htable
      rw [jumpDirect_eq_bind s (.inl hd)] at meaning
      exact exec_of_checkTarget_exc s i _ _ meaning hd
    · obtain ⟨c, a, b, hcond, meaning⟩ := exec_of_branchTable s i true off len htable
      rw [branch_taken_eq_bind s (.inl hd) off len c a b hcond] at meaning
      exact exec_of_checkTarget_exc s i _ _ meaning hd
  case throughInt =>
    intro i s rd rs1 off len hd htable hcheri target
    have meaning := exec_of_indirectJumpTable s i rd rs1 off len false htable hcheri
    rw [jumpIndirect_int_eq_bind s (.inl hd)] at meaning
    exact exec_of_checkTarget_exc s i _ _ meaning hd
  case throughCap =>
    intro i s rd rs1 off len hd hcheri htable k target
    have meaning := exec_of_indirectJumpTable s i rd rs1 off len true htable fun _ => hcheri
    rw [jumpIndirect_cap_eq_bind s (.inl hd)] at meaning
    have stops (e : Exc) (h : s.checkJumpCap k off = .exc e) : exec i s = .next (takeException s e) :=
      meaning.trans (run_bind_exc s _ _ e h)
    exact ⟨fun ha => stops _ (checkJumpCap_misaligned s k off ha), fun ha ht => stops _ (checkJumpCap_untagged s k off ha ht),
      fun ha ht hs ho => stops _ (checkJumpCap_sealed s k off ha ht hs ho),
      fun ha ht hs hx => stops _ (checkJumpCap_notExecutable s k off ha ht hs hx),
      fun ha ht hs hx hb => stops _ (checkJumpCap_outside s k off ha ht hs hx hb)⟩

end Sys2Proof.Machine
end

section
/-!
PROOFS. The integer computational instructions (43_base_integer R231; 47_compressed R321; 49_cbo_prefetch_zba R354), those with a row of the opcode table and those
beside it (log 41).
-/
namespace Sys2Proof.Machine
open Sys2Proof

/-! ## The instructions of the opcode table -/

theorem formLen_eq_ite (f : Form) : formLen f = if f = .std then 4 else 2 := by cases f <;> rfl

/-- A shift amount of five bits is taken whole. -/
theorem toNat_uimm_mod (sh : BitVec 5) : (uimm sh 0).toNat % 32 = sh.toNat := by
  rw [uimm_zero, BitVec.toNat_setWidth]
  omega

theorem exec_of_computeTable (s : State) (i : Instr) (rd : Reg) (v : Word) (len : Nat) (h : computeTable s i = some (rd, v, len)) :
    exec i s = (s.compute rd v len).run s := by
  cases i with
  | lui | sub | xor | or | and | addw | subw => cases h; rw [← formLen_eq_ite]; rfl
  | addi | xori | andi | addiw => cases h; rw [← formLen_eq_ite, ← simm_zero]; rfl
  | srli | srai => cases h; rw [← formLen_eq_ite, ← uimm_zero]; rfl
  | slti | sltiu | ori => cases h; rw [← simm_zero]; rfl
  | slli f =>
    cases f with
    | std | comp | uw | compUw => cases h; rw [← uimm_zero]; rfl
  | add f =>
    cases f with
    | std | comp | uw | compUw => cases h; rfl
  | sll | slt | sltu | srl | sra | sllw | srlw | sraw => cases h; rfl
  | slliw | srliw | sraiw => cases h; rw [← toNat_uimm_mod]; rfl
  | _ => exact nomatch h

theorem run_compute (s : State) (rd : Reg) (v : Word) (len : Nat) : (s.compute rd v len).run s = .next ((s.wx rd v).advance len) := rfl

/-! ## The arithmetic beside the opcode table (log 41) -/

theorem sext32_zext32 (v : Word) : sext32 (zext32 v) = sext32 v := by
  rw [sext32, zext32, BitVec.setWidth_setWidth_of_le _ (by decide), BitVec.setWidth_eq]
  rfl

section
variable (s : State) (a b : Word)

theorem toNat_unsignedX : (unsignedX s a).toNat = unsignedOf s.cur64 a := by
  unfold unsignedX unsignedOf
  cases s.cur64
  · exact (BitVec.toNat_setWidth ..).trans (Nat.mod_eq_of_lt ((BitVec.setWidth 32 a).isLt.trans (by decide)))
  · rfl

/-- The operand as a number of XLEN bits gives back the result of XLEN bits. -/
theorem toX_unsignedX : s.toX (unsignedX s a) = s.toX a := by
  unfold State.toX unsignedX
  cases s.cur64
  · exact congrArg (truncX s.cfg) (sext32_zext32 a)
  · rfl

theorem places_eq : unsignedOf s.cur64 b % (if s.cur64 then 64 else 32) = places s b := by
  unfold unsignedOf places
  cases s.cur64
  · exact Nat.mod_mod_of_dvd _ (by decide)
  · rfl

end

/-! ### Division -/

section
variable (a b : Word)

theorem toInt_eq_zero_iff : b.toInt = 0 ↔ b = 0 := BitVec.toInt_inj (y := 0)

theorem toNat_eq_zero_iff : b.toNat = 0 ↔ b = 0 := BitVec.toNat_inj (y := 0)

theorem ofInt_divSigned : ofInt (divSigned a.toInt b.toInt) = if b = 0 then BitVec.allOnes 64 else BitVec.ofInt 64 (a.toInt.tdiv b.toInt) := by
  simp only [divSigned, toInt_eq_zero_iff]
  split <;> rfl

theorem ofInt_remSigned : ofInt (remSigned a.toInt b.toInt) = if b = 0 then a else BitVec.ofInt 64 (a.toInt.tmod b.toInt) := by
  simp only [remSigned, toInt_eq_zero_iff]
  split
  · exact BitVec.ofInt_toInt
  · rfl

theorem divUnsigned_toNat : divUnsigned a.toNat b.toNat = if b = 0 then BitVec.allOnes 64 else BitVec.ofNat 64 (a.toNat / b.toNat) := by
  simp only [divUnsigned, toNat_eq_zero_iff]

theorem remUnsigned_toNat : remUnsigned a.toNat b.toNat = if b = 0 then a else BitVec.ofNat 64 (a.toNat % b.toNat) := by
  simp only [remUnsigned, toNat_eq_zero_iff, BitVec.ofNat_toNat, BitVec.setWidth_eq]

end

/-! ### Narrow operands -/

/-- Sign extension of the low bytes as the extension of a narrower word. -/
theorem sextBytes_eq_signExtend (n : Nat) (v : Word) (h0 : 0 < n) (h8 : n ≤ 8) : sextBytes n v = (v.setWidth (8 * n)).signExtend 64 := by
  apply BitVec.eq_of_getLsbD_eq
  intro j hj
  rw [sextBytes, BitVec.getLsbD_sshiftRight, BitVec.getLsbD_shiftLeft, BitVec.getLsbD_signExtend, BitVec.msb_setWidth, BitVec.getLsbD_setWidth,
    BitVec.msb_eq_getLsbD_last, BitVec.getLsbD_shiftLeft]
  by_cases low : j < 8 * n
  · simp [low, hj, show 64 - 8 * n + j < 64 by omega]
  · simp [low, hj, h0, show ¬64 - 8 * n + j < 64 by omega, show ¬63 < 64 - 8 * n by omega, show 63 - (64 - 8 * n) = 8 * n - 1 by omega]

theorem and_low16 (a : Word) : a &&& 0xFFFF = (a.setWidth 16).setWidth 64 := by
  apply BitVec.eq_of_toNat_eq
  rw [BitVec.toNat_and, BitVec.toNat_setWidth_of_le (by decide), BitVec.toNat_setWidth]
  exact Nat.and_two_pow_sub_one_eq_mod a.toNat 16

/-! ### Every operation of the second table -/

/-- A value sign-extended from XLEN is zero where its XLEN bits are. -/
theorem unsignedX_eq_zero_iff (s : State) (b : Word) (hb : s.cur64 = false → sext32 b = b) : unsignedX s b = 0 ↔ b = 0 := by
  unfold unsignedX
  cases hx : s.cur64
  · refine ⟨fun h => ?_, fun h => by rw [h]; rfl⟩
    calc b = sext32 b := (hb hx).symm
      _ = sext32 (zext32 b) := (sext32_zext32 b).symm
      _ = sext32 0 := congrArg sext32 h
      _ = 0 := rfl
  · rfl

/-- Of a second operand sign-extended from XLEN, each result is the table's. -/
theorem toX_extResult (s : State) (o : ExtOp) (a b w : Word) (hb : s.cur64 = false → sext32 b = b) (h : extTable s o a b = some w) :
    s.toX (extResult s.cur64 o a b) = s.toX w := by
  cases o with
  | mul => cases h; rw [extResult, BitVec.ofInt_mul, BitVec.ofInt_toInt, BitVec.ofInt_toInt]
  | mulh | czeroEqz | czeroNez | andn | orn | xnor | mulw => cases h; rfl
  | min | max => cases h; simp only [extResult, BitVec.slt_iff_toInt_lt]
  | minu | maxu => cases h; simp only [extResult, BitVec.ult_iff_toNat_lt]
  | mulhsu => cases h; rw [toNat_unsignedX]; rfl
  | mulhu => cases h; rw [toNat_unsignedX, toNat_unsignedX]; rfl
  | div => cases h; rw [extResult, ofInt_divSigned]
  | rem => cases h; rw [extResult, ofInt_remSigned]
  | divu => cases h; simp only [extResult, ← toNat_unsignedX, divUnsigned_toNat, unsignedX_eq_zero_iff s b hb]
  | remu =>
    cases h
    simp only [extResult, ← toNat_unsignedX, remUnsigned_toNat, unsignedX_eq_zero_iff s b hb]
    split
    · exact toX_unsignedX s a
    · rfl
  | divw => cases h; rw [extResult, ofInt_divSigned, apply_ite sext32]; rfl
  | divuw => cases h; rw [extResult, divUnsigned_toNat, apply_ite sext32]; rfl
  | remw => cases h; rw [extResult, ofInt_remSigned, apply_ite sext32, sext32_sext32]; rfl
  | remuw => cases h; rw [extResult, remUnsigned_toNat, apply_ite sext32, sext32_zext32]; rfl
  | sextB => cases h; rw [extResult, sextBytes_eq_signExtend 1 a (by decide) (by decide)]
  | sextH => cases h; rw [extResult, sextBytes_eq_signExtend 2 a (by decide) (by decide)]
  | zextH => cases h; rw [extResult, and_low16]
  | bclr | bext | binv | bset => cases h; rw [← places_eq]; rfl
  | _ => exact nomatch h

theorem extOperand_shamt (s : State) (i : BitVec 6) : s.extOperand (.shamt i) = i.setWidth 64 := uimm_zero i

/-- A register is read sign-extended from XLEN, and a shift amount is small. -/
theorem sext32_extOperand (s : State) (src : ExtSrc) (hx : s.cur64 = false) : sext32 (s.extOperand src) = s.extOperand src := by
  cases src with
  | reg r =>
    have narrow : s.rx r = sext32 (s.rc r).addr := if_neg (by rw [hx]; exact Bool.false_ne_true)
    exact (congrArg sext32 narrow).trans ((sext32_sext32 _).trans narrow.symm)
  | shamt i =>
    have small : ∀ i : BitVec 6, sext32 (i.setWidth 64) = i.setWidth 64 := by decide
    rw [extOperand_shamt, small]

theorem execExt_eq (x : ExtInstr) (s : State) : execExt x s =
    .next ((s.wx x.rd (extResult s.cur64 x.op (s.rx x.rs1) (s.extOperand x.src))).advance (if x.form = .std then 4 else 2)) := by
  rw [execExt, run_compute, formLen_eq_ite]

/-! ## The obligation -/

/-- Settles O48: every computational instruction writes one register with its result, which is the tables' in XLEN bits. -/
theorem integerComputation : Obligations.IntegerComputation := by
  refine ⟨?table, ?beside⟩
  case table =>
    intro i s rd v len htable
    exact ⟨_, (exec_of_computeTable s i rd v len htable).trans (run_compute s rd v len), wrote_wx_advance s rd v len⟩
  case beside =>
    intro ⟨op, rd, rs1, src, form⟩ s
    refine ⟨_, _, execExt_eq _ s, wrote_wx_advance s rd _ _, fun w htable => ?_⟩
    have row : extTable s op (s.rx rs1) (s.extOperand src) = some w := by
      cases src with
      | reg r => exact htable
      | shamt i => rw [extOperand_shamt]; exact htable
    exact congrArg (Cap.mk false 0) (toX_extResult s op _ _ w (sext32_extOperand s src) row)

end Sys2Proof.Machine
end

section
/-!
PROOFS. What the atomic instructions (44_atomics R240 to R258) share: a change of memory and of the reservation, then one register written and pcc moved on;
where the bytes of their accesses are.
-/
namespace Sys2Proof.Machine
open Sys2Proof

/-! ## One register written after a change of memory and reservation -/

/-- The memory and the reservation are those put in, and the rest is as if nothing but the register had been written. -/
theorem effect_wc_advance (s : State) (m : Memory) (r : Option (Nat × Nat)) (rd : Reg) (k : Cap) (n : Nat) :
    let t := (({ s with mem := m, resv := r } : State).wc rd k).advance n
    t.mem = m ∧ t.resv = r ∧ s.regUpdate t rd k ∧ t.pcc = s.nextPcc n ∧ s.sameButMem t := by
  intro t
  obtain ⟨pcc, regs, others⟩ := wrote_wc_advance { s with mem := m, resv := r } rd k n
  have same := congrArg (fun u : State => { u with mem := s.mem, resv := s.resv }) others
  exact ⟨congrArg State.mem others, congrArg State.resv others, regs, pcc, same⟩

/-- With memory unchanged, only the reservation, the register and pcc are not as before. -/
theorem wrote_wc_advance_of_resv (s : State) (r : Option (Nat × Nat)) (rd : Reg) (k : Cap) (n : Nat) :
    let t := (({ s with resv := r } : State).wc rd k).advance n
    t.resv = r ∧ s.wrote { t with resv := s.resv } rd k (s.nextPcc n) := by
  intro t
  obtain ⟨pcc, regs, others⟩ := wrote_wc_advance { s with resv := r } rd k n
  have same := congrArg (fun u : State => { u with resv := s.resv }) others
  exact ⟨congrArg State.resv others, pcc, regs, same⟩

/-- `storedAt` and `capStoredAt` look at memory and the reservation alone. -/
theorem storedAt_congr {s t u : State} {as : List Nat} {bs : List Byte} (h : s.storedAt u as bs) (hm : t.mem = u.mem) (hr : t.resv = u.resv) :
    s.storedAt t as bs := by
  unfold State.storedAt
  rw [hm, hr]
  exact h

theorem capStoredAt_congr {s t u : State} {a : Nat} {k : Cap} (h : s.capStoredAt u a k) (hm : t.mem = u.mem) (hr : t.resv = u.resv) :
    s.capStoredAt t a k := by
  unfold State.capStoredAt
  rw [hm, hr]
  exact h

/-! ## The bytes of an access -/

/-- Where the kind of access supports no misaligned address, its bytes stand together at the translated address (R258, 20_memory R101). -/
theorem bytes_of_canAccess_aligned (s : State) (auth : Cap) (ea : Word) (n : Nat) (kind : Acc) (al : Align) (as : List Nat) (x : Phys)
    (hal : al ≠ .plain) (h : s.canAccess auth ea n kind al as) (hx : s.translate kind ea = .ok x) : as = span x.pa n := by
  obtain ⟨-, ⟨-, y, hy, has⟩ | ⟨-, plain, -⟩, -⟩ := h
  · cases hx.symm.trans hy
    exact has
  · exact absurd plain hal

/-- So the first of them is the translated address, which a reservation records (R244, R251). -/
theorem firstByte_of_canAccess_zam (s : State) (auth : Cap) (ea : Word) (n : Nat) (kind : Acc) (as : List Nat) (x : Phys) (hn : 0 < n)
    (h : s.canAccess auth ea n kind .zam as) (hx : s.translate kind ea = .ok x) : firstByte as = x.pa := by
  rw [bytes_of_canAccess_aligned s auth ea n kind .zam as x nofun h hx, firstByte_span _ _ hn]

end Sys2Proof.Machine
end

section
/-!
PROOFS. The integer atomics (44_atomics R241, R242, R258).
-/
namespace Sys2Proof.Machine
open Sys2Proof

/-! ## The operations -/

theorem amoResult_min : amoResult .min = fun m r => if m.toInt < r.toInt then m else r :=
  funext₂ fun m r => by simp [amoResult, BitVec.slt]

theorem amoResult_max : amoResult .max = fun m r => if m.toInt < r.toInt then r else m :=
  funext₂ fun m r => by simp [amoResult, BitVec.slt]

theorem amoResult_minu : amoResult .minu = fun m r => if m.toNat < r.toNat then m else r :=
  funext₂ fun m r => by simp [amoResult, BitVec.ult]

theorem amoResult_maxu : amoResult .maxu = fun m r => if m.toNat < r.toNat then r else m :=
  funext₂ fun m r => by simp [amoResult, BitVec.ult]

/-- An instruction of the table is `State.amo` of the width and the operation the table names, on words or doublewords. -/
theorem exec_eq_amo (s : State) (i : Instr) (rd rs1 rs2 : Reg) (n : Nat) (f : Word → Word → Word)
    (h : amoTable i = some (rd, rs1, rs2, n, f)) : n ≤ 8 ∧ ∃ op, amoResult op = f ∧ exec i s = (s.amo op n rd rs1 rs2).run s := by
  cases i with
  | amoswapW | amoswapD => cases h; exact ⟨by decide, .swap, rfl, rfl⟩
  | amoaddW | amoaddD => cases h; exact ⟨by decide, .add, rfl, rfl⟩
  | amoxorW | amoxorD => cases h; exact ⟨by decide, .xor, rfl, rfl⟩
  | amoandW | amoandD => cases h; exact ⟨by decide, .and, rfl, rfl⟩
  | amoorW | amoorD => cases h; exact ⟨by decide, .or, rfl, rfl⟩
  | amominW | amominD => cases h; exact ⟨by decide, .min, amoResult_min, rfl⟩
  | amomaxW | amomaxD => cases h; exact ⟨by decide, .max, amoResult_max, rfl⟩
  | amominuW | amominuD => cases h; exact ⟨by decide, .minu, amoResult_minu, rfl⟩
  | amomaxuW | amomaxuD => cases h; exact ⟨by decide, .maxu, amoResult_maxu, rfl⟩
  | _ => exact nomatch h

/-! ## What an atomic does, and where it faults -/

theorem amo_of_canAccess (s : State) (op : AmoOp) (n : Nat) (rd rs1 rs2 : Reg) (as : List Nat)
    (h : s.canAccess (s.authEa rs1 0).1 (s.authEa rs1 0).2 n .atomic .zam as) :
    s.amo op n rd rs1 rs2 = .ok (((s.writeInt as (amoResult op (sextBytes n (s.readInt as)) (sextBytes n (s.rx rs2)))).wc rd
      (s.intCap (sextBytes n (s.readInt as)))).advance 4) := by
  rw [State.amo, (dataAccess_eq_ok ..).2 h, Res.bind_ok]
  rfl

theorem amo_misaligned (s : State) (op : AmoOp) (n : Nat) (rd rs1 rs2 : Reg) (hp : s.permits (s.authEa rs1 0).1 (s.authEa rs1 0).2 n .atomic)
    (ha : (s.authEa rs1 0).2.toNat % n ≠ 0) : s.amo op n rd rs1 rs2 = .exc ⟨if s.cfg.hasZam then 6 else 7, (s.authEa rs1 0).2⟩ := by
  have fault := dataPath_misaligned s (s.authEa rs1 0).1 (s.authEa rs1 0).2 n .atomic .zam hp ha nofun
  rw [State.amo, State.dataAccess, fault, Res.bind_exc, Res.bind_exc]
  cases s.cfg.hasZam <;> rfl

/-- Settles O39: the old value is read, the operation's result stored to the same bytes, and the old value written to the register. -/
theorem integerAtomics : Obligations.IntegerAtomics := by
  intro i s rd rs1 rs2 n f htable auth ea
  obtain ⟨narrow, op, rfl, meaning⟩ := exec_eq_amo s i rd rs1 rs2 n f htable
  refine ⟨fun as hwf hacc => ?swapped, fun hp ha => ?misaligned⟩
  case swapped =>
    intro ext old new
    rw [amo_of_canAccess s op n rd rs1 rs2 as hacc, Res.run_ok] at meaning
    obtain ⟨length, distinct⟩ := canAccess_bytes s auth ea n .atomic .zam as (narrow.trans (by decide)) hacc
    have stored := storedAt_writeInt s as (amoResult op old (ext (s.rx rs2))) hwf distinct
    rw [length] at stored
    obtain ⟨mem, resv, effect⟩ :=
      effect_wc_advance s (s.writeInt as (amoResult op old (ext (s.rx rs2)))).mem (resvAfter s.resv as) rd (s.intCap old) 4
    exact ⟨_, meaning, storedAt_congr stored mem resv, effect⟩
  case misaligned => rw [meaning, amo_misaligned s op n rd rs1 rs2 hp ha, Res.run_exc]

end Sys2Proof.Machine
end

section
/-!
PROOFS. Load-reserved and store-conditional (44_atomics R244 to R255).
-/
namespace Sys2Proof.Machine
open Sys2Proof

/-! ## Load-reserved (R244 to R249) -/

theorem exec_eq_lr (s : State) (i : Instr) (rd rs1 : Reg) (n : Nat) (h : lrTable i = some (rd, rs1, n)) :
    0 < n ∧ exec i s = (s.lr n rd rs1).run s := by
  cases i with
  | lrB | lrH | lrW | lrD => cases h; exact ⟨by decide, rfl⟩
  | _ => exact nomatch h

theorem lr_of_canAccess (s : State) (n : Nat) (rd rs1 : Reg) (as : List Nat) (x : Phys) (hn : 0 < n)
    (h : s.canAccess (s.authEa rs1 0).1 (s.authEa rs1 0).2 n .load .zam as) (hx : s.translate .load (s.authEa rs1 0).2 = .ok x) :
    s.lr n rd rs1 = .ok ((({ s with resv := some (x.pa, n) } : State).wc rd (s.intCap (sextBytes n (s.readInt as)))).advance 4) := by
  rw [State.lr, (dataAccess_eq_ok ..).2 h, Res.bind_ok, firstByte_of_canAccess_zam s _ _ n .load as x hn h hx]
  rfl

theorem lrCap_of_canAccess (s : State) (rd rs1 : Reg) (as : List Nat) (x : Phys)
    (h : s.canAccess (s.authEa rs1 0).1 (s.authEa rs1 0).2 s.cfg.capBytes .load .strict as)
    (hx : s.translate .load (s.authEa rs1 0).2 = .ok x) :
    s.lrCap rd rs1 =
      .ok ((({ s with resv := some (x.pa, s.cfg.capBytes) } : State).wc rd (s.loadedCap (s.authEa rs1 0).1 x.pa)).advance 4) := by
  rw [State.lrCap, capRead_of_canAccess s _ _ as x h hx, Res.bind_ok]

/-- Settles O40: either form reads its bytes, reserves them where they were translated to, and writes one register. -/
theorem loadReserved : Obligations.LoadReserved := by
  refine ⟨?integer, ?capability⟩
  case integer =>
    intro i s rd rs1 n as x htable hacc hx v
    obtain ⟨positive, meaning⟩ := exec_eq_lr s i rd rs1 n htable
    rw [lr_of_canAccess s n rd rs1 as x positive hacc hx, Res.run_ok] at meaning
    exact ⟨_, meaning, wrote_wc_advance_of_resv s (some (x.pa, n)) rd (s.intCap (sextBytes n v)) 4⟩
  case capability =>
    intro s rd rs1 aq rl as x enabled hacc hx
    have meaning := exec_lrC s rd rs1 aq rl ⟨fun _ => enabled, nofun, nofun⟩
    rw [lrCap_of_canAccess s rd rs1 as x hacc hx, Res.run_ok] at meaning
    exact ⟨_, meaning, wrote_wc_advance_of_resv s (some (x.pa, s.cfg.capBytes)) rd _ 4⟩

/-! ## Store-conditional (R250 to R255) -/

theorem exec_eq_sc (s : State) (i : Instr) (rd rs1 rs2 : Reg) (n : Nat) (h : scTable i = some (rd, rs1, rs2, n)) :
    0 < n ∧ n ≤ 8 ∧ exec i s = (s.sc n rd rs1 rs2).run { s with resv := none } := by
  cases i with
  | scB | scH | scW | scD => cases h; exact ⟨by decide, by decide, rfl⟩
  | _ => exact nomatch h

theorem takeException_resv (s : State) (e : Exc) : (takeException s e).resv = s.resv := by
  obtain ⟨-, h⟩ | ⟨-, -, h⟩ | ⟨-, -, h⟩ := takeException_cases s e <;> rw [h] <;> rfl

/-- No reservation is left where none is left by the value, whether that is reached or a trap or a trigger comes first. -/
theorem run_resv_none {s t : State} {r : Res State} (hs : s.resv = none) (hr : ∀ u, r = .ok u → u.resv = none) (h : r.run s = .next t) :
    t.resv = none := by
  obtain hok | ⟨e, -, rfl⟩ | ⟨-, rfl⟩ := (Res.run_eq_next s t r).1 h
  · exact hr t hok
  · rw [takeException_resv, hs]
  · rw [enterDebug_resv, hs]

theorem sc_resv (s t : State) (n : Nat) (rd rs1 rs2 : Reg) (h : s.sc n rd rs1 rs2 = .ok t) : t.resv = none := by
  obtain ⟨as, -, h⟩ := (Res.bind_eq_ok ..).1 h
  split at h
  · cases h
    simp
  · cases h
    simp

section
variable {s : State} {n : Nat} {rd rs1 rs2 : Reg} {as : List Nat}

/-- With the reservation exactly the bytes of the access. -/
theorem sc_reserved (h : s.canAccess (s.authEa rs1 0).1 (s.authEa rs1 0).2 n .store .zam as) (hr : s.resv = some (firstByte as, n)) :
    s.sc n rd rs1 rs2 = .ok ((({ s.writeInt as (s.rx rs2) with resv := none } : State).wc rd (s.intCap 0)).advance 4) := by
  rw [State.sc, (dataAccess_eq_ok ..).2 h, Res.bind_ok, if_pos hr]
  rfl

/-- With any other, or none. -/
theorem sc_unreserved (h : s.canAccess (s.authEa rs1 0).1 (s.authEa rs1 0).2 n .store .zam as) (hr : s.resv ≠ some (firstByte as, n)) :
    s.sc n rd rs1 rs2 = .ok ((({ s with resv := none } : State).wc rd (s.intCap 1)).advance 4) := by
  rw [State.sc, (dataAccess_eq_ok ..).2 h, Res.bind_ok, if_neg hr]
  rfl

end

/-- Settles O41: every outcome starts from the state without the reservation, and the store is made under an exact one alone. -/
theorem storeConditional : Obligations.StoreConditional := by
  intro i s rd rs1 rs2 n htable
  obtain ⟨positive, narrow, meaning⟩ := exec_eq_sc s i rd rs1 rs2 n htable
  refine ⟨fun t ht => run_resv_none rfl (fun u => sc_resv s u n rd rs1 rs2) (meaning.symm.trans ht), fun as x hacc hx => ?_⟩
  rw [← firstByte_of_canAccess_zam s _ _ n .store as x positive hacc hx]
  refine ⟨fun hwf hr => ?reserved, fun hr => ?unreserved⟩
  case reserved =>
    rw [sc_reserved hacc hr, Res.run_ok] at meaning
    obtain ⟨length, distinct⟩ := canAccess_bytes s _ _ n .store .zam as (narrow.trans (by decide)) hacc
    have stored := storedAt_writeInt s as (s.rx rs2) hwf distinct
    rw [length] at stored
    obtain ⟨mem, -, effect⟩ := effect_wc_advance s (s.writeInt as (s.rx rs2)).mem none rd (s.intCap 0) 4
    exact ⟨_, meaning, storedAt_congr stored mem rfl, effect⟩
  case unreserved =>
    rw [sc_unreserved hacc hr, Res.run_ok] at meaning
    obtain ⟨-, wrote⟩ := wrote_wc_advance_of_resv s none rd (s.intCap 1) 4
    exact ⟨_, meaning, wrote⟩

end Sys2Proof.Machine
end

section
/-!
PROOFS. AMOSWAP.C and SC.C (44_atomics R243, R250, R256; 20_memory R107, R110).
-/
namespace Sys2Proof.Machine
open Sys2Proof

/-! ## The checks of a capability-wide store, and the tag rule after them -/

/-- The tag rule changes at most the value. -/
theorem tagRule_ok_place (s : State) (ea : Word) (c w : CapWrite) (h : s.tagRule ea c = .ok w) : w.pa = c.pa ∧ w.cd = c.cd := by
  unfold State.tagRule at h
  split at h
  · split at h <;> cases h
    exact ⟨rfl, rfl⟩
  · cases h
    exact ⟨rfl, rfl⟩

/-- A store that can be made passes the checks that come before the tag rule, with no page entry to update, and then the tag rule. -/
theorem capWriteChecked_of_canStoreCap (s : State) (auth : Cap) (ea : Word) (v : Cap) (kind : Acc) (pa : Nat)
    (h : s.canStoreCap auth ea v kind pa) :
    ∃ k, s.capWriteChecked auth ea v kind = .ok ⟨pa, k, none⟩ ∧ s.tagRule ea ⟨pa, k, none⟩ = .ok ⟨pa, s.storedCap auth pa v, none⟩ := by
  obtain ⟨⟨pa', k, cd'⟩, checked, tagged⟩ := (Res.bind_eq_ok ..).1 (capWritePath_of_canStoreCap s auth ea v kind pa h)
  obtain ⟨rfl, rfl⟩ := tagRule_ok_place s ea _ _ tagged
  exact ⟨k, checked, tagged⟩

/-- A store that only memory without tags stands against passes the checks before the tag rule, and stops there (20_memory R110). -/
theorem capWriteChecked_of_untaggable (s : State) (auth : Cap) (ea : Word) (v : Cap) (kind : Acc) (pa : Nat)
    (h : s.untaggable auth ea v kind pa) :
    ∃ k, s.capWriteChecked auth ea v kind = .ok ⟨pa, k, none⟩ ∧ s.tagRule ea ⟨pa, k, none⟩ = .exc ⟨7, ea⟩ := by
  have stops := capWritePath_of_untaggable s auth ea v kind pa h
  obtain ⟨hp, ha, ⟨x, hx, rfl, hq⟩, hm, -, -, ht⟩ := h
  have path : s.dataPath auth ea s.cfg.capBytes kind .strict = .ok ⟨span x.pa s.cfg.capBytes, x.leaf⟩ :=
    (dataPath_eq_ok ..).2 ⟨hp, .inl ⟨ha, x, hx, rfl⟩⟩
  have checked := capWriteChecked_of_quiet s auth ea v kind _ path (pagesQuiet_of_cwQuiet s auth x.leaf v hq ht) hm
  rw [firstByte_span _ _ (capBytes_pos _)] at checked
  rw [State.capWritePath, checked, Res.bind_ok] at stops
  exact ⟨_, checked, stops⟩

/-! ## SC.C (R256) -/

section
variable {s : State} {rd rs1 rs2 : Reg} {c : CapWrite}

/-- SC.C that passed its checks and holds the reservation stores as SC does. -/
theorem scCap_reserved (hc : s.capWriteChecked (s.authEa rs1 0).1 (s.authEa rs1 0).2 (s.rc rs2) .store = .ok c)
    (hr : (s.setCd c.cd).resv = some (c.pa, s.cfg.capBytes)) : s.scCap rd rs1 rs2 =
      (s.tagRule (s.authEa rs1 0).2 c).bind fun w => .ok (({ s.putCap w with resv := none }.wx rd 0).advance 4) := by
  rw [State.scCap, hc, Res.bind_ok, if_pos hr]

/-- Without it, nothing is stored and the tag rule is not asked. -/
theorem scCap_unreserved (hc : s.capWriteChecked (s.authEa rs1 0).1 (s.authEa rs1 0).2 (s.rc rs2) .store = .ok c)
    (hr : (s.setCd c.cd).resv ≠ some (c.pa, s.cfg.capBytes)) :
    s.scCap rd rs1 rs2 = .ok (({ s.setCd c.cd with resv := none }.wx rd 1).advance 4) := by
  rw [State.scCap, hc, Res.bind_ok, if_neg hr]

end

/-! ## The obligation -/

/-- Settles O42: the checks leave `storedCap` to be stored, which AMOSWAP.C always does, and SC.C under its reservation alone. -/
theorem capabilityAtomics : Obligations.CapabilityAtomics := by
  intro s rd rs1 rs2 aq rl pa enabled hwf auth ea
  have swap := exec_amoswapC s rd rs1 rs2 aq rl ⟨fun _ => enabled, nofun, nofun⟩
  have conditional := exec_scC s rd rs1 rs2 aq rl ⟨fun _ => enabled, nofun, nofun⟩
  have stored := capStoredAt_writeCap s pa (s.storedCap auth pa (s.rc rs2)) hwf
  refine ⟨fun hst => ?swapped, fun hst hr => ?reserved, fun hst hr => ?unreserved, fun hun => ?swapFault, fun hun hr => ?scFault⟩
  case swapped =>
    rw [State.amoswapCap, capWritePath_of_canStoreCap s auth ea (s.rc rs2) .atomic pa hst, Res.bind_ok, Res.run_ok] at swap
    obtain ⟨mem, resv, effect⟩ := effect_wc_advance s (s.writeCap pa (s.storedCap auth pa (s.rc rs2))).mem
      (resvAfter s.resv (span pa s.cfg.capBytes)) rd (s.loadedCap auth pa) 4
    exact ⟨_, swap, capStoredAt_congr stored mem resv, effect⟩
  case reserved =>
    obtain ⟨k, checked, tagged⟩ := capWriteChecked_of_canStoreCap s auth ea (s.rc rs2) .store pa hst
    rw [scCap_reserved checked hr, tagged, Res.bind_ok, Res.run_ok] at conditional
    obtain ⟨mem, resv, effect⟩ := effect_wc_advance s (s.writeCap pa (s.storedCap auth pa (s.rc rs2))).mem none rd (s.intCap 0) 4
    exact ⟨_, conditional, resv, capStoredAt_congr stored mem rfl, effect⟩
  case unreserved =>
    obtain ⟨k, checked, -⟩ := capWriteChecked_of_canStoreCap s auth ea (s.rc rs2) .store pa hst
    rw [scCap_unreserved checked hr, Res.run_ok] at conditional
    exact ⟨_, conditional, wrote_wc_advance_of_resv s none rd (s.intCap 1) 4⟩
  case swapFault => rw [swap, State.amoswapCap, capWritePath_of_untaggable s auth ea (s.rc rs2) .atomic pa hun, Res.bind_exc, Res.run_exc]
  case scFault =>
    obtain ⟨k, checked, faults⟩ := capWriteChecked_of_untaggable s auth ea (s.rc rs2) .store pa hun
    rw [conditional, scCap_reserved checked hr, faults, Res.bind_exc, Res.run_exc]

end Sys2Proof.Machine
end

section
/-!
PROOFS. Where a CSR access faults (45_csr R262), and the check that each CSR instruction begins with.
-/
namespace Sys2Proof.Machine
open Sys2Proof

/-! ## The outcomes of the check -/

/-- What makes a CSR access an illegal instruction, for the register the number names (R262, the steps before ASR-permission). -/
def State.csrRefused (s : State) (n : BitVec 12) (w : Bool) (r : CsrRef) : Prop :=
  s.privNum < n.toNat / 256 % 4 ∨ (n.toNat / 16 = 0x7b ∧ s.debug = false) ∨ (w = true ∧ n.toNat / 1024 = 3) ∨
    (s.cheriRegsDisabled = true ∧ ∃ c, r = .wide c) ∨ s.csrBaseOk n r = false

section
variable {s : State} {n : BitVec 12} {w : Bool} {r : CsrRef}

theorem csrCheck_of_unnamed (h : s.csrRef n = none) : s.csrCheck n w = .exc ⟨2, 0⟩ := by
  rw [State.csrCheck, h, illegal]

/-- Each refusal raises the exception, or one before it has raised the same. -/
theorem csrCheck_of_refused (hr : s.csrRef n = some r) (h : s.csrRefused n w r) : s.csrCheck n w = .exc ⟨2, 0⟩ := by
  rw [State.csrCheck, hr]
  refine ite_eq_left_iff.2 fun privileged => ite_eq_left_iff.2 fun debugger => ite_eq_left_iff.2 fun writable =>
    ite_eq_left_iff.2 fun enabled => (if_pos ?base).trans rfl
  obtain h | ⟨hn, hd⟩ | ⟨hw, hn⟩ | ⟨hc, c, rfl⟩ | hb := h
  · exact absurd h privileged
  · simp [hn, hd] at debugger
  · simp [hw, hn] at writable
  · simp [hc] at enabled
  · rw [hb, Bool.not_false]

/-- With every other condition met, a number above the unprivileged ones wants ASR-permission. -/
theorem csrCheck_of_no_asr (hr : s.csrRef n = some r) (privileged : n.toNat / 256 % 4 ≤ s.privNum)
    (debugger : n.toNat / 16 = 0x7b → s.debug = true) (writable : w = true → n.toNat / 1024 ≠ 3)
    (enabled : s.cheriRegsDisabled = true → ∀ c, r ≠ .wide c) (base : s.csrBaseOk n r = true) (hn : n.toNat / 256 % 4 ≠ 0)
    (ha : s.asrOk = false) : s.csrCheck n w = .exc ⟨28, 2⟩ := by
  rw [State.csrCheck, hr]
  refine (if_neg privileged.not_gt).trans <| (if_neg ?debugger).trans <| (if_neg ?writable).trans <| (if_neg ?enabled).trans <|
    (if_neg ?base).trans <| if_pos ⟨hn, ha⟩
  case debugger => simpa using debugger
  case writable => simpa using writable
  case enabled => cases r <;> simp_all
  case base => simpa using base

end

/-! ## The obligation -/

/-- Every CSR instruction begins with the check of its number. -/
theorem exec_eq_csrCheck_bind (i : Instr) (s : State) (n : BitVec 12) (w : Bool) (h : csrAccess i = some (n, w)) :
    ∃ f : CsrRef → Res State, exec i s = ((s.csrCheck n w).bind f).run s := by
  cases i with
  | csrrw | csrrwi => cases h; exact ⟨_, rfl⟩
  | csrrs | csrrc | csrrsi | csrrci =>
    cases h
    rw [decide_not]
    exact ⟨_, rfl⟩
  | _ => exact nomatch h

/-- Settles O53: the instruction takes what the check raises. -/
theorem csrFaults : Obligations.CsrFaults := by
  intro i s n w haccess
  obtain ⟨f, meaning⟩ := exec_eq_csrCheck_bind i s n w haccess
  refine ⟨fun hnone => ?unnamed, fun r hr => ⟨fun refused => ?refused, fun privileged debugger writable enabled base hn ha => ?asr⟩⟩
  case unnamed => rw [meaning, csrCheck_of_unnamed hnone, Res.bind_exc, Res.run_exc]
  case refused => rw [meaning, csrCheck_of_refused hr refused, Res.bind_exc, Res.run_exc]
  case asr =>
    rw [meaning, csrCheck_of_no_asr hr privileged debugger writable enabled base hn ha, Res.bind_exc, Res.run_exc]

end Sys2Proof.Machine
end

section
/-!
PROOFS. What a CSR instruction does that passes its check (45_csr R263 to R269): a read, which changes at most a register and the counter of free values, then
a write, which changes at most CSRs, then pcc moves on.
-/
namespace Sys2Proof.Machine
open Sys2Proof

/-! ## The write and the read commute -/

/-- `s` with the general registers and the counter of free values that a read left. -/
def State.withRead (s : State) (regs : Vector Cap 32) (ctr : Nat) : State := { s with regs := regs, freeCtr := ctr }

section
variable (s : State) (regs : Vector Cap 32) (ctr : Nat)

theorem putCapCsr_withRead (c : CapCsr) (k : Cap) : (s.withRead regs ctr).putCapCsr c k = (s.putCapCsr c k).withRead regs ctr := by
  cases c <;> rfl

theorem ite_withRead (c : Prop) [Decidable c] (t u : State) :
    (if c then t.withRead regs ctr else u.withRead regs ctr) = (if c then t else u).withRead regs ctr :=
  (apply_ite (fun w : State => w.withRead regs ctr) c t u).symm

theorem setTrigger_withRead (f : Trigger → Trigger) : (s.withRead regs ctr).setTrigger f = (s.setTrigger f).withRead regs ctr := by
  have selected : (s.withRead regs ctr).trigger = s.trigger := rfl
  rw [State.setTrigger, State.setTrigger, selected]
  cases s.trigger with
  | none => rfl
  | some t => exact ite_withRead regs ctr (t.dmode && !s.debug) s { s with triggers := s.triggers.set s.csr.tselect.toNat (f t) }

theorem writeX_withRead (x : XCsr) (v : Word) : (s.withRead regs ctr).writeX x v = (s.writeX x v).withRead regs ctr := by
  cases x with
  | tdata1 | tdata2 => exact setTrigger_withRead s regs ctr _
  | tselect => exact ite_withRead regs ctr (v.toNat < s.triggers.length) { s with csr := { s.csr with tselect := v } } s
  | _ => rfl

/-- What a set or clear starts from is not what a read changes, but for a counter, which ignores writes. -/
theorem rmwX_withRead (x : XCsr) (hx : x ≠ .counter) : (s.withRead regs ctr).rmwX x = s.rmwX x := by
  cases x with
  | counter => exact absurd rfl hx
  | _ => rfl

theorem csrPutX_withRead (r : CsrRef) (op : CsrOp) (v : Word) :
    (s.withRead regs ctr).csrPutX r op v = (s.csrPutX r op v).withRead regs ctr := by
  cases r with
  | wide c | alias_ c => exact putCapCsr_withRead s regs ctr c _
  | plain x =>
    by_cases hx : x = .counter
    · subst hx
      rfl
    · change (s.withRead regs ctr).writeX x (csrNew op ((s.withRead regs ctr).rmwX x) v) = _
      rw [rmwX_withRead s regs ctr x hx, writeX_withRead]
      rfl

theorem csrPutW_withRead (r : CsrRef) (k : Cap) (v : Word) :
    (s.withRead regs ctr).csrPutW r k v = (s.csrPutW r k v).withRead regs ctr := by
  cases r with
  | wide c => exact putCapCsr_withRead s regs ctr c _
  | alias_ c => exact csrPutX_withRead s regs ctr (.alias_ c) .write v
  | plain x => exact csrPutX_withRead s regs ctr (.plain x) .write v

end

/-! ## The read (R261, R270) -/

/-- What rd gets: the whole capability at a CLEN address, else an integer. -/
def State.csrValue (s : State) (r : CsrRef) : Cap :=
  match r with
  | .wide c => s.readCapCsr c
  | .alias_ c => s.intCap (s.readCapCsr c).addr
  | .plain x => s.intCap (s.readX x)

theorem wc_eq_withRead (s : State) (rd : Reg) (k : Cap) : s.wc rd k = s.withRead (s.wc rd k).regs s.freeCtr := by
  unfold State.wc
  split <;> rfl

/-- A read leaves a register and, of a counter, the next free value. -/
theorem csrGet_eq_withRead (s : State) (r : CsrRef) (rd : Reg) :
    ∃ ctr, (r ≠ .plain .counter → ctr = s.freeCtr) ∧ s.csrGet r rd = s.withRead (s.wc rd (s.csrValue r)).regs ctr := by
  cases r with
  | wide c | alias_ c => exact ⟨_, fun _ => rfl, wc_eq_withRead s rd _⟩
  | plain x =>
    change ∃ ctr, _ ∧ (s.wc rd (s.csrValue (.plain x))).afterRead x = _
    rw [wc_eq_withRead, State.afterRead]
    split
    · next hx => exact ⟨_, fun hr => absurd (congrArg _ hx) hr, rfl⟩
    · exact ⟨_, fun _ => rfl, rfl⟩

/-! ## The write (11_csrs R65, R81, R92; log 26, log 37) -/

/-- The CSRs a write of `r` leaves alone, and all that is no CSR. -/
structure State.CsrWrite (s : State) (r : CsrRef) (w : State) : Prop where
  /-- Only CSRs, ddc and triggers change. -/
  only : ∃ csr ddc triggers, w = { s with csr := csr, ddc := ddc, triggers := triggers }
  dinfc : r = .wide .dinfc → w.csr = s.csr ∧ w.ddc = s.ddc
  xcsrs : (∃ c, r = .wide c ∨ r = .alias_ c) → s.sameXCsrs w
  triggers : r ≠ .plain .tdata1 → r ≠ .plain .tdata2 → w.triggers = s.triggers
  caps : ∀ c, r ≠ .wide c → r ≠ .alias_ c → w.rawCapCsr c = s.rawCapCsr c

theorem sameXCsrs_refl (s : State) : s.sameXCsrs s := by and_intros <;> rfl

theorem sameXCsrs_putCapCsr (s : State) (c : CapCsr) (k : Cap) : s.sameXCsrs (s.putCapCsr c k) := by
  cases c <;> and_intros <;> rfl

/-- A form that does not write. -/
theorem State.CsrWrite.refl (s : State) (r : CsrRef) : s.CsrWrite r s :=
  ⟨⟨_, _, _, rfl⟩, fun _ => ⟨rfl, rfl⟩, fun _ => sameXCsrs_refl s, fun _ _ => rfl, fun _ _ _ => rfl⟩

/-! ### A capability CSR -/

theorem rawCapCsr_putCapCsr_self (s : State) (c : CapCsr) (k : Cap) (hc : c ≠ .dinfc) : (s.putCapCsr c k).rawCapCsr c = k := by
  cases c with
  | dinfc => exact absurd rfl hc
  | _ => rfl

theorem rawCapCsr_putCapCsr_of_ne (s : State) (c d : CapCsr) (k : Cap) (h : d ≠ c) : (s.putCapCsr c k).rawCapCsr d = s.rawCapCsr d := by
  cases d with
  | ddc => exact (putCapCsr_ddc s c k).trans (if_neg (Ne.symm h))
  | dinfc => cases c <;> rfl
  | _ => exact (capAt_putCapCsr s c _ k).trans (if_neg fun e => h e.left)

theorem csrWrite_putCapCsr (s : State) (r : CsrRef) (c : CapCsr) (k : Cap) (hr : r = .wide c ∨ r = .alias_ c) :
    s.CsrWrite r (s.putCapCsr c k) where
  only := by cases c <;> exact ⟨_, _, _, rfl⟩
  dinfc h := by
    obtain rfl : c = .dinfc := by simpa [h, eq_comm] using hr
    exact ⟨rfl, rfl⟩
  xcsrs _ := sameXCsrs_putCapCsr s c k
  triggers _ _ := putCapCsr_triggers s c k
  caps d hw ha := rawCapCsr_putCapCsr_of_ne s c d k (by rintro rfl; exact hr.elim hw ha)

/-! ### An XLEN-wide CSR -/

/-- Only CSRs change, and triggers only by a write of tdata1 or tdata2 (log 37). -/
theorem writeX_only (s : State) (x : XCsr) (v : Word) : ∃ csr triggers, s.writeX x v = { s with csr := csr, triggers := triggers } ∧
    (x ≠ .tdata1 → x ≠ .tdata2 → triggers = s.triggers) := by
  cases x with
  | tdata1 | tdata2 =>
    obtain h | ⟨b, -, -, h⟩ := setTrigger_cases s _
    · exact ⟨_, _, h, fun _ _ => rfl⟩
    · exact ⟨_, _, h, by simp⟩
  | tselect =>
    unfold State.writeX
    dsimp only
    split <;> exact ⟨_, _, rfl, fun _ _ => rfl⟩
  | _ => exact ⟨_, _, rfl, fun _ _ => rfl⟩

theorem writeX_ddc (s : State) (x : XCsr) (v : Word) : (s.writeX x v).ddc = s.ddc := by
  obtain ⟨_, _, h, -⟩ := writeX_only s x v
  rw [h]

/-- Of a word written under a mask, the rest is the old word's. -/
theorem putMask_eq_or (v m n : Word) : putMask v m n = (v &&& ~~~m) ||| (putMask v m n &&& m) := by
  refine BitVec.eq_of_getLsbD_eq fun j hj => ?_
  rw [BitVec.getLsbD_or, BitVec.getLsbD_and, BitVec.getLsbD_and, BitVec.getLsbD_not, getLsbD_putMask]
  cases m.getLsbD j <;> simp [hj]

/-- A write of an XLEN-wide CSR changes that one, and with it what `writtenAt` names. -/
theorem writeX_csr (s : State) (x : XCsr) (v : Word) : (s.writeX x v).csr = Csrs.writtenAt x s.csr (s.writeX x v).csr := by
  cases x with
  | misa => exact congrArg (fun m => { (s.misaWrite v).csr with mstatus := m }) (putMask_eq_or ..)
  | tdata1 | tdata2 => exact setTrigger_csr s _
  | tselect => unfold State.writeX; dsimp only; split <;> rfl
  | _ => rfl

theorem writtenAt_capAt (x : XCsr) (k u : Csrs) : (Csrs.writtenAt x k u).capAt = k.capAt := by
  cases x <;> rfl

theorem rawCapCsr_writeX (s : State) (x : XCsr) (v : Word) (c : CapCsr) : (s.writeX x v).rawCapCsr c = s.rawCapCsr c := by
  by_cases hc : c = .ddc ∨ c = .dinfc
  · obtain ⟨_, _, h, -⟩ := writeX_only s x v
    rw [h]
    rcases hc with rfl | rfl <;> rfl
  · rw [not_or] at hc
    rw [rawCapCsr_eq_capAt _ c hc.left hc.right, rawCapCsr_eq_capAt _ c hc.left hc.right, writeX_csr, writtenAt_capAt]

theorem csrWrite_writeX (s : State) (x : XCsr) (v : Word) : s.CsrWrite (.plain x) (s.writeX x v) := by
  obtain ⟨_, _, h, htriggers⟩ := writeX_only s x v
  refine ⟨⟨_, _, _, h⟩, nofun, by simp, fun h1 h2 => ?triggers, fun c _ _ => rawCapCsr_writeX s x v c⟩
  case triggers =>
    rw [h]
    exact htriggers (h1 <| congrArg _ ·) (h2 <| congrArg _ ·)

theorem csrWrite_csrPutX (s : State) (r : CsrRef) (op : CsrOp) (v : Word) : s.CsrWrite r (s.csrPutX r op v) := by
  cases r with
  | wide c => exact csrWrite_putCapCsr s _ c _ (.inl rfl)
  | alias_ c => exact csrWrite_putCapCsr s _ c _ (.inr rfl)
  | plain x => exact csrWrite_writeX s x _

theorem csrWrite_csrPutW (s : State) (r : CsrRef) (k : Cap) (v : Word) : s.CsrWrite r (s.csrPutW r k v) := by
  cases r with
  | wide c => exact csrWrite_putCapCsr s _ c _ (.inl rfl)
  | alias_ c => exact csrWrite_csrPutX s _ .write v
  | plain x => exact csrWrite_csrPutX s _ .write v

/-! ## The whole access -/

/-- What an access of `r` leaves alone, whatever it reads and writes, and pcc after it. -/
structure State.CsrAccess (s : State) (r : CsrRef) (t : State) : Prop where
  frame : s.csrFrame t
  pcc : t.pcc = s.nextPcc 4
  dinfc : r = .wide .dinfc → t.csr = s.csr ∧ t.ddc = s.ddc
  xcsrs : (∃ c, r = .wide c ∨ r = .alias_ c) → s.sameXCsrs t
  triggers : r ≠ .plain .tdata1 → r ≠ .plain .tdata2 → t.triggers = s.triggers
  freeCtr : r ≠ .plain .counter → t.freeCtr = s.freeCtr
  caps : ∀ c, r ≠ .wide c → r ≠ .alias_ c → t.rawCapCsr c = s.rawCapCsr c

/-- The write, the read beside it, and pcc moved on. -/
theorem State.CsrWrite.completed {s w : State} {r : CsrRef} (h : s.CsrWrite r w) (regs : Vector Cap 32) (ctr : Nat)
    (hctr : r ≠ .plain .counter → ctr = s.freeCtr) : s.CsrAccess r ((w.withRead regs ctr).movedOn s) := by
  obtain ⟨⟨csr, ddc, triggers, rfl⟩, hdinfc, hxcsrs, htriggers, hcaps⟩ := h
  obtain ⟨hpcc, -⟩ := wrote_wc_advance s 0 nullCap 4
  exact ⟨by and_intros <;> rfl, hpcc, hdinfc, hxcsrs, htriggers, hctr, hcaps⟩

/-- A number is found where the table has it, with its prerequisite met. -/
theorem mem_of_findCsr {α : Type} {n : Nat} {x : α} : ∀ {l : List (Nat × Bool × α)}, findCsr n l = some x → (n, true, x) ∈ l
  | (k, b, y) :: l, h => by
    unfold findCsr at h
    split at h
    · split at h
      · simp_all
      · cases h
    · exact List.mem_cons_of_mem _ (mem_of_findCsr h)

/-- A number that names a capability CSR XLEN bits wide has a row in the table of such numbers. -/
theorem mem_aliasTable_of_csrRef {s : State} {n : BitVec 12} {c : CapCsr} (h : s.csrRef n = some (.alias_ c)) :
    (n.toNat, true, c) ∈ aliasTable s.cfg := by
  unfold State.csrRef at h
  split at h
  · cases h
  · split at h
    · next hfound =>
      cases h
      split at hfound
      · exact mem_of_findCsr hfound
      · cases hfound
    · simp at h

/-- dinfc has a CLEN address alone (11_csrs R61). -/
theorem csrRef_alias_ne_dinfc {s : State} {n : BitVec 12} {c : CapCsr} (h : s.csrRef n = some (.alias_ c)) : c ≠ .dinfc := by
  rintro rfl
  simpa [aliasTable] using mem_aliasTable_of_csrRef h

end Sys2Proof.Machine
end

section
/-!
PROOFS. CSRRW, CSRRS, CSRRC and the immediate forms, where the access is allowed (45_csr R263 to R269).
-/
namespace Sys2Proof.Machine
open Sys2Proof

/-! ## CSRRW (R263) -/

/-- An allowed CSRRW writes, and reads into rd unless that is x0. -/
theorem csrSwap_of_allowed {s : State} {n : BitVec 12} {r : CsrRef} (h : s.csrAllowed n true r) (rd rs1 : Reg) :
    ∃ ctr, (r ≠ .plain .counter → ctr = s.freeCtr) ∧ s.csrSwap rd rs1 n =
      .ok (((s.csrPutW r (s.rc rs1) (s.rx rs1)).withRead (s.wc rd (s.csrValue r)).regs ctr).movedOn s) := by
  have read : ∃ ctr, (r ≠ .plain .counter → ctr = s.freeCtr) ∧
      (if rd = 0 then s else s.csrGet r rd) = s.withRead (s.wc rd (s.csrValue r)).regs ctr := by
    split
    · next h0 => exact ⟨s.freeCtr, fun _ => rfl, h0 ▸ rfl⟩
    · exact csrGet_eq_withRead s r rd
  obtain ⟨ctr, hctr, read⟩ := read
  refine ⟨ctr, hctr, ?_⟩
  rw [State.csrSwap, (csrCheck_eq_ok s n true r).2 h, Res.bind_ok, read, csrPutW_withRead]

/-- A scratch register takes all bits of a capability (11_csrs R91, R92). -/
theorem clenValue_mscratchc (s : State) (k : Cap) : s.clenValue .mscratchc k = k := if_pos rfl

/-- M-mode reaches mscratchc with ASR-permission, while CHERI register access is on. -/
theorem csrAllowed_mscratchc {s : State} (hd : s.debug = false) (hp : s.priv = .machine) (ha : (s.pcc.perms s.cfg).asr = true)
    (hc : s.cheriRegsDisabled = false) : s.csrAllowed 0x760 true (.wide .mscratchc) := by
  refine ⟨rfl, ?privileged, fun h => absurd h (by decide), by decide, by simp [hc], rfl, fun _ => (asrOk_iff s).2 (.inr ha)⟩
  case privileged =>
    rw [State.privNum, hd, hp]
    decide

/-- Settles O51: the write is the one the model makes of the state before the read, and the access leaves the rest alone. -/
theorem csrSwap : Obligations.CsrSwap := by
  refine ⟨fun s rd rs1 n r allowed => ?access, fun s rd rs1 hd hp ha hc => ?mscratchc⟩
  case access =>
    obtain ⟨ctr, hctr, meaning⟩ := csrSwap_of_allowed allowed rd rs1
    have access := (csrWrite_csrPutW s r (s.rc rs1) (s.rx rs1)).completed (s.wc rd (s.csrValue r)).regs ctr hctr
    refine ⟨_, congrArg (Res.run s) meaning, access.frame, access.pcc, fun j => rc_wc s rd j _, ?atClen, access.dinfc, ?atAlias,
      access.xcsrs, ?plain, access.triggers, access.freeCtr, access.caps⟩
    case atClen =>
      rintro c rfl hc
      exact rawCapCsr_putCapCsr_self s c _ hc
    case atAlias =>
      rintro c rfl
      obtain ⟨named, -⟩ := allowed
      exact rawCapCsr_putCapCsr_self s c _ (csrRef_alias_ne_dinfc named)
    case plain =>
      rintro x rfl
      exact ⟨rfl, rfl, writeX_csr s x _, writeX_ddc s x _⟩
  case mscratchc =>
    obtain ⟨ctr, hctr, meaning⟩ := csrSwap_of_allowed (csrAllowed_mscratchc hd hp ha hc) rd rs1
    have access := (csrWrite_csrPutW s (.wide .mscratchc) (s.rc rs1) (s.rx rs1)).completed (s.wc rd s.csr.mscratchc).regs ctr hctr
    obtain ⟨mem, -⟩ := access.frame
    exact ⟨_, congrArg (Res.run s) meaning, clenValue_mscratchc s _, fun h0 => (rc_wc s rd rd _).trans (if_pos ⟨rfl, h0⟩), access.pcc, mem⟩

/-! ## The other forms (R264 to R269) -/

/-- Each form is `csrModify` with its row of the table. -/
theorem exec_eq_csrModify (i : Instr) (s : State) (f : Word → Word → Word) (rd : Reg) (v : Word) (n : BitVec 12) (rdOp wrOp : Bool)
    (h : csrTable s i = some (f, rd, v, n, rdOp, wrOp)) :
    ∃ op, f = csrNew op ∧ exec i s = (s.csrModify op rd v n rdOp wrOp).run s := by
  cases i with
  | csrrs => cases h; rw [decide_not]; exact ⟨.set, rfl, rfl⟩
  | csrrc => cases h; rw [decide_not]; exact ⟨.clear, rfl, rfl⟩
  | csrrwi => cases h; rw [decide_not, ← uimm_zero]; exact ⟨.write, rfl, rfl⟩
  | csrrsi => cases h; rw [decide_not, ← uimm_zero]; exact ⟨.set, rfl, rfl⟩
  | csrrci => cases h; rw [decide_not, ← uimm_zero]; exact ⟨.clear, rfl, rfl⟩
  | _ => exact nomatch h

/-- The registers after the read of a form that reads, or does not. -/
def State.regsAfterGet (s : State) (r : CsrRef) (rd : Reg) (doRead : Bool) : Vector Cap 32 :=
  if doRead then (s.wc rd (s.csrValue r)).regs else s.regs

/-- An allowed set, clear or CSRRWI reads and writes as its flags say. -/
theorem csrModify_of_allowed {s : State} {n : BitVec 12} {r : CsrRef} {doWrite : Bool} (h : s.csrAllowed n doWrite r) (op : CsrOp)
    (rd : Reg) (v : Word) (doRead : Bool) :
    ∃ ctr, (r ≠ .plain .counter → ctr = s.freeCtr) ∧ s.csrModify op rd v n doRead doWrite =
      .ok (((if doWrite then s.csrPutX r op v else s).withRead (s.regsAfterGet r rd doRead) ctr).movedOn s) := by
  have read : ∃ ctr, (r ≠ .plain .counter → ctr = s.freeCtr) ∧
      (if doRead then s.csrGet r rd else s) = s.withRead (s.regsAfterGet r rd doRead) ctr := by
    cases doRead with
    | false => exact ⟨s.freeCtr, fun _ => rfl, rfl⟩
    | true => exact csrGet_eq_withRead s r rd
  obtain ⟨ctr, hctr, read⟩ := read
  refine ⟨ctr, hctr, ?_⟩
  rw [State.csrModify, (csrCheck_eq_ok s n doWrite r).2 h, Res.bind_ok]
  simp only [read, csrPutX_withRead, ite_withRead]

/-- Settles O52: as O51, but that a form may leave out the read or the write. -/
theorem csrSetAndClear : Obligations.CsrSetAndClear := by
  intro i s f rd v n rdOp wrOp r htable allowed
  obtain ⟨op, rfl, meaning⟩ := exec_eq_csrModify i s f rd v n rdOp wrOp htable
  obtain ⟨ctr, hctr, completes⟩ := csrModify_of_allowed allowed op rd v rdOp
  have written : s.CsrWrite r (if wrOp then s.csrPutX r op v else s) := by
    cases wrOp with
    | false => exact .refl s r
    | true => exact csrWrite_csrPutX s r op v
  have access := written.completed (s.regsAfterGet r rd rdOp) ctr hctr
  rw [completes, Res.run_ok] at meaning
  refine ⟨_, meaning, access.frame, access.pcc, ?reads, ?readsNot, ?capability, access.dinfc, access.xcsrs, ?plain, access.triggers,
    access.freeCtr, access.caps, ?writesNot⟩
  case reads =>
    rintro rfl j
    exact rc_wc s rd j _
  case readsNot =>
    rintro rfl
    rfl
  case capability =>
    rintro c (rfl | rfl) hc rfl <;> exact rawCapCsr_putCapCsr_self s c _ hc
  case plain =>
    rintro x rfl rfl
    exact ⟨rfl, rfl, writeX_csr s x _, writeX_ddc s x _⟩
  case writesNot =>
    rintro rfl
    exact ⟨rfl, rfl, rfl⟩

end Sys2Proof.Machine
end

section
/-!
PROOFS. The floating-point instructions (46_fp_loadstore R275 to R283): the loads and stores, and what a computation writes and leaves.
-/
namespace Sys2Proof.Machine
open Sys2Proof

/-! ## mstatus.FS Off, and the rounding modes -/

theorem fsOff_iff (s : State) : s.fsOff = true ↔ s.csr.mstatus.toNat / 2 ^ 13 % 4 = 0 := by
  rw [State.fsOff, bitsOf_two, beq_iff_eq]

theorem fsOff_eq_false (s : State) (h : s.csr.mstatus.toNat / 2 ^ 13 % 4 ≠ 0) : s.fsOff = false :=
  Bool.eq_false_iff.2 fun off => h ((fsOff_iff s).1 off)

/-- Every floating-point instruction begins with this check (30_encoding R138 (e)). -/
theorem run_fsCheck_of_off (s : State) (f : Unit → Res State) (h : s.csr.mstatus.toNat / 2 ^ 13 % 4 = 0) :
    ((Res.check (!s.fsOff) illegal).bind f).run s = .next (takeException s ⟨2, 0⟩) := by
  rw [(fsOff_iff s).2 h]
  rfl

theorem fsCheck_of_on (s : State) (f : Unit → Res State) (h : s.csr.mstatus.toNat / 2 ^ 13 % 4 ≠ 0) :
    (Res.check (!s.fsOff) illegal).bind f = f () := by
  rw [fsOff_eq_false s h]
  rfl

/-- 5, 6 and 7 name no rounding mode. -/
theorem roundingOf_eq_none_iff (n : Nat) : roundingOf n = none ↔ 4 < n := List.getElem?_eq_none_iff

theorem exists_roundingOf (n : Nat) (h : n ≤ 4) : ∃ rm, roundingOf n = some rm :=
  Option.ne_none_iff_exists'.1 fun none => Nat.not_lt.2 h ((roundingOf_eq_none_iff n).1 none)

/-! ## The updates of a floating-point instruction -/

theorem rf_wf (s : State) (i j : Reg) (v : Word) : (s.wf i v).rf j = if j = i then v else s.rf j := by
  unfold State.wf State.rf
  by_cases hji : j = i
  · simp [hji]
  · have apart : i.toNat ≠ j.toNat := fun h => hji (BitVec.eq_of_toNat_eq h.symm)
    simp [hji, apart]

theorem rf_congr {s t : State} (h : t.fregs = s.fregs) (j : Reg) : t.rf j = s.rf j := by unfold State.rf; rw [h]

theorem rc_congr {s t : State} (h : t.regs = s.regs) (j : Reg) : t.rc j = s.rc j := by unfold State.rc; rw [h]

/-- FS is not among the fields that set XLEN (11_csrs R64). -/
theorem cur64_fsDirty (s : State) : s.fsDirty.cur64 = s.cur64 := by
  have field (lo : Nat) (h : 15 ≤ lo) : bitsOf s.fsDirty.csr.mstatus lo 2 = bitsOf s.csr.mstatus lo 2 := by
    refine bitsOf_congr _ _ _ _ fun j hj _ => ?_
    have above : (3#64 <<< 13).getLsbD j = false := by
      rw [show 3#64 <<< 13 = BitVec.ofNat 64 (3 * 2 ^ 13) by rfl, BitVec.getLsbD_ofNat,
        Nat.testBit_lt_two_pow (Nat.lt_of_lt_of_le (by decide : 3 * 2 ^ 13 < 2 ^ 15) (Nat.pow_le_pow_right (by decide) (h.trans hj))),
        Bool.and_false]
    rw [State.fsDirty, BitVec.getLsbD_or, above, Bool.or_false]
  unfold State.cur64 State.x64Of State.sxl64 State.uxl64
  rw [field 34 (by decide), field 32 (by decide)]
  rfl

theorem cur64_accrue (s : State) (fl : BitVec 5) : (s.accrue fl).cur64 = s.cur64 := by
  unfold State.accrue
  split
  · rfl
  · exact cur64_fsDirty _

/-- An update that keeps pcc and XLEN, then the advance. -/
theorem advance_pcc_of_same {s t : State} (n : Nat) (hcfg : t.cfg = s.cfg) (hpcc : t.pcc = s.pcc) (h64 : t.cur64 = s.cur64) :
    (t.advance n).pcc = s.nextPcc n := by
  rw [advance_pcc, State.pccAt, State.toX, State.pc, hcfg, hpcc, h64]
  rfl

theorem accrue_fcsr (s : State) (fl : BitVec 5) : (s.accrue fl).csr.fcsr = s.csr.fcsr ||| fl.setWidth 8 := by
  unfold State.accrue
  split
  · next h => simp [h]
  · rfl

theorem accrue_mstatus (s : State) (fl : BitVec 5) :
    (s.accrue fl).csr.mstatus = if fl ≠ 0 then s.csr.mstatus ||| 0x6000 else s.csr.mstatus := by
  unfold State.accrue
  split
  · next h => simp [h]
  · rfl

/-- Flags accrue on top of an update that raised none. -/
theorem sameButFlags_accrue_advance {s t : State} {dirty : Bool} (h : s.sameButFlags t 0 dirty) (fl : BitVec 5) (n : Nat) :
    s.sameButFlags ((t.accrue fl).advance n) fl dirty := by
  obtain ⟨others, fcsr, mstatus⟩ := h
  refine ⟨?others, ?fcsr, ?mstatus⟩
  case others =>
    refine Eq.trans ?_ others
    unfold State.accrue
    split <;> rfl
  case fcsr => simp [accrue_fcsr, fcsr]
  case mstatus =>
    rw [advance_csr, accrue_mstatus, mstatus]
    cases dirty <;> by_cases raised : fl = 0 <;> simp [raised, BitVec.or_assoc]

/-- The result of a computation in an x register (R283). -/
theorem wx_accrue_advance (s : State) (rd : Reg) (v : Word) (fl : BitVec 5) :
    let t := ((s.wx rd v).accrue fl).advance 4
    t.pcc = s.nextPcc 4 ∧ s.sameButFlags t fl false ∧ t.fregs = s.fregs ∧ s.regUpdate t rd (s.intCap v) := by
  intro t
  have written : s.sameButFlags (s.wx rd v) 0 false := by
    refine ⟨?_, by simp, by simp⟩
    unfold State.wx State.wc
    split <;> rfl
  exact ⟨advance_pcc_of_same 4 (by simp) (by simp) (by simp [cur64_accrue]), sameButFlags_accrue_advance written fl 4,
    (accrue_fregs _ fl).trans (wx_fregs s rd v), fun j => (rc_congr (accrue_regs _ fl) j).trans (rc_wx s rd j v)⟩

/-- The result of a computation in an f register (R283; log 26). -/
theorem wf_accrue_advance (s : State) (rd : Reg) (v : Word) (fl : BitVec 5) :
    let t := (((s.wf rd v).fsDirty).accrue fl).advance 4
    t.pcc = s.nextPcc 4 ∧ s.sameButFlags t fl true ∧ t.regs = s.regs ∧ ∀ j, t.rf j = if j = rd then v else s.rf j := by
  intro t
  have written : s.sameButFlags (s.wf rd v).fsDirty 0 true := ⟨rfl, BitVec.or_zero.symm, rfl⟩
  exact ⟨advance_pcc_of_same 4 (by simp) (by simp) (by simp [cur64_accrue, cur64_fsDirty]), sameButFlags_accrue_advance written fl 4,
    accrue_regs _ fl, fun j => (rf_congr (accrue_fregs _ fl) j).trans (rf_wf s rd j v)⟩

/-! ## Loads and stores (R275 to R282) -/

theorem unreserved_of_fpLoadTable (s : State) (i : Instr) (frd rs1 : Reg) (off : Word) (n len : Nat)
    (h : fpLoadTable i = some (frd, rs1, off, n, len)) : s.unreserved i = s := by
  cases i with
  | flh | flw | fld | cFlw | cFlwsp | cFld | cFldsp => rfl
  | _ => exact nomatch h

theorem unreserved_of_fpStoreTable (s : State) (i : Instr) (fs2 rs1 : Reg) (off : Word) (n len : Nat)
    (h : fpStoreTable i = some (fs2, rs1, off, n, len)) : s.unreserved i = s := by
  cases i with
  | fsh | fsw | fsd | cFsw | cFswsp | cFsd | cFsdsp => rfl
  | _ => exact nomatch h

theorem width_of_fpStoreTable (i : Instr) (fs2 rs1 : Reg) (off : Word) (n len : Nat) (h : fpStoreTable i = some (fs2, rs1, off, n, len)) :
    n ≤ 8 := by
  cases i with
  | fsh | fsw | fsd | cFsw | cFswsp | cFsd | cFsdsp => cases h; decide
  | _ => exact nomatch h

/-- The f register written, the others as before, FS Dirty. -/
theorem wf_fsDirty_advance (s : State) (f : Reg) (v : Word) (n : Nat) :
    let t := ((s.wf f v).fsDirty).advance n
    t.rf f = v ∧ (∀ j, j ≠ f → t.rf j = s.rf j) ∧ t.pcc = s.nextPcc n ∧ s.sameButFp t :=
  ⟨(rf_wf s f f v).trans (if_pos rfl), fun j hj => (rf_wf s f j v).trans (if_neg hj), advance_pcc_of_same n rfl rfl (cur64_fsDirty _),
    rfl, rfl⟩

section
variable {s : State} {i : Instr} {f rs1 : Reg} {off : Word} {n len : Nat} {as : List Nat}

theorem exec_fpLoad_of_off (htable : fpLoadTable i = some (f, rs1, off, n, len)) (hfs : s.csr.mstatus.toNat / 2 ^ 13 % 4 = 0) :
    exec i s = .next (takeException s ⟨2, 0⟩) := by
  rw [exec_of_fpLoadTable s i f rs1 off n len htable, unreserved_of_fpLoadTable s i f rs1 off n len htable]
  exact run_fsCheck_of_off s _ hfs

theorem exec_fpStore_of_off (htable : fpStoreTable i = some (f, rs1, off, n, len)) (hfs : s.csr.mstatus.toNat / 2 ^ 13 % 4 = 0) :
    exec i s = .next (takeException s ⟨2, 0⟩) := by
  rw [exec_of_fpStoreTable s i f rs1 off n len htable, unreserved_of_fpStoreTable s i f rs1 off n len htable]
  exact run_fsCheck_of_off s _ hfs

theorem exec_fpLoad_of_canAccess (htable : fpLoadTable i = some (f, rs1, off, n, len)) (hfs : s.csr.mstatus.toNat / 2 ^ 13 % 4 ≠ 0)
    (hacc : s.canAccess (s.authEa rs1 off).1 (s.authEa rs1 off).2 n .load .plain as) :
    exec i s = .next (((s.wf f (nanBox s.cfg n (s.readInt as))).fsDirty).advance len) := by
  rw [exec_of_fpLoadTable s i f rs1 off n len htable, State.fpLoad, fsCheck_of_on s _ hfs, State.loadInt, (dataAccess_eq_ok ..).2 hacc,
    Res.bind_ok, Res.bind_ok, Res.run_ok]

theorem exec_fpStore_of_canAccess (htable : fpStoreTable i = some (f, rs1, off, n, len)) (hfs : s.csr.mstatus.toNat / 2 ^ 13 % 4 ≠ 0)
    (hacc : s.canAccess (s.authEa rs1 off).1 (s.authEa rs1 off).2 n .store .plain as) :
    exec i s = .next ((s.writeInt as (s.rf f)).advance len) := by
  rw [exec_of_fpStoreTable s i f rs1 off n len htable, State.fpStore, fsCheck_of_on s _ hfs, State.storeInt, (dataAccess_eq_ok ..).2 hacc,
    Res.bind_ok, Res.bind_ok, Res.run_ok]

/-- As an integer store, the bytes are distinct, one for each of the value's. -/
theorem storedAt_fpStore (htable : fpStoreTable i = some (f, rs1, off, n, len)) (hwf : s.mem.wf = true)
    (hacc : s.canAccess (s.authEa rs1 off).1 (s.authEa rs1 off).2 n .store .plain as) :
    s.storedAt (s.writeInt as (s.rf f)) as (ordered s.effBe (leBytes n (s.rf f).toNat)) := by
  have narrow : n ≤ 4096 := (width_of_fpStoreTable i f rs1 off n len htable).trans (by decide)
  obtain ⟨rfl, distinct⟩ := canAccess_bytes s _ _ n .store .plain as narrow hacc
  exact storedAt_writeInt s as (s.rf f) hwf distinct

end

/-! ## Where a computation is illegal, and that it completes (R283; log 45) -/

theorem execFp_of_off (i : FpInstr) (s : State) (h : s.csr.mstatus.toNat / 2 ^ 13 % 4 = 0) : execFp i s = .next (takeException s ⟨2, 0⟩) :=
  run_fsCheck_of_off s _ h

theorem execFp_of_reserved (i : FpInstr) (s : State) (hr : i.op.rounds = true) (reserved : s.rounding i.rm = none) :
    execFp i s = .next (takeException s ⟨2, 0⟩) := by
  by_cases hfs : s.csr.mstatus.toNat / 2 ^ 13 % 4 = 0
  · exact execFp_of_off i s hfs
  · rw [execFp, State.fpCompute, fsCheck_of_on s _ hfs, if_pos hr, reserved]
    rfl

theorem execFp_of_on (i : FpInstr) (s : State) (hfs : s.csr.mstatus.toNat / 2 ^ 13 % 4 ≠ 0)
    (assigned : i.op.rounds = true → ∃ rm, s.rounding i.rm = some rm) :
    ∃ rm, execFp i s = .next (if i.op.toX then ((s.wx i.rd (s.fpXResult i rm).1).accrue (s.fpXResult i rm).2).advance 4
      else (((s.wf i.rd (nanBox s.cfg i.fmt.bytes (BitVec.ofNat 64 (s.fpResult i rm).bits))).fsDirty).accrue (s.fpResult i rm).flags).advance 4) := by
  have rounds : ∃ rm, (if i.op.rounds then s.rounding i.rm else some .nearestEven) = some rm := by
    cases hr : i.op.rounds with
    | true => exact assigned hr
    | false => exact ⟨_, rfl⟩
  obtain ⟨rm, hmode⟩ := rounds
  refine ⟨rm, ?_⟩
  rw [execFp, (fpCompute_eq_ok s i _).2 ⟨fsOff_eq_false s hfs, rm, hmode, rfl⟩, Res.run_ok]

/-! ## Results -/

/-- A comparison with a NaN is false. -/
theorem fpXResult_of_nan (s : State) (i : FpInstr) (rm : Rounding) (hnan : (s.fpVal i.fmt i.rs1).isNan = true ∨ (s.fpVal i.fmt i.rs2).isNan = true)
    (hop : i.op = .le ∨ i.op = .lt ∨ i.op = .eq) : (s.fpXResult i rm).1 = 0 := by
  have nan : ((s.fpVal i.fmt i.rs1).isNan || (s.fpVal i.fmt i.rs2).isNan) = true := Bool.or_eq_true_iff.2 hnan
  obtain h | h | h := hop <;> simp only [State.fpXResult, h, nan] <;> rfl

/-- A move to x sign-extends the low bytes. -/
theorem fpXResult_mvToX (s : State) (i : FpInstr) (rm : Rounding) (h : i.op = .mvToX) :
    (s.fpXResult i rm).1 = sextBytes i.fmt.bytes (s.rf i.rs1) := by
  simp only [State.fpXResult, h]

/-- The box covers what lies above the low bytes. -/
theorem nanBox_mod (p : Params) (n : Nat) (v : Word) : nanBox p n (BitVec.ofNat 64 (v.toNat % 2 ^ (8 * n))) = nanBox p n v := by
  have low : BitVec.ofNat 64 (v.toNat % 2 ^ (8 * n)) ||| (BitVec.allOnes 64 <<< (8 * n)) = v ||| (BitVec.allOnes 64 <<< (8 * n)) := by
    apply BitVec.eq_of_getLsbD_eq
    intro j hj
    rw [BitVec.getLsbD_or, BitVec.getLsbD_or, BitVec.getLsbD_ofNat, Nat.testBit_mod_two_pow, BitVec.getLsbD_shiftLeft, BitVec.testBit_toNat,
      BitVec.getLsbD_allOnes]
    by_cases below : j < 8 * n
    · simp [below, hj]
    · simp [below, hj, show j - 8 * n < 64 by omega]
  unfold nanBox
  rw [low]

/-- A move from x boxes the low bytes of the register. -/
theorem boxed_mvFromX (s : State) (i : FpInstr) (rm : Rounding) (h : i.op = .mvFromX) :
    nanBox s.cfg i.fmt.bytes (BitVec.ofNat 64 (s.fpResult i rm).bits) = nanBox s.cfg i.fmt.bytes (s.rx i.rs1) := by
  have moved : (s.fpResult i rm).bits = (s.rx i.rs1).toNat % 2 ^ (8 * i.fmt.bytes) := by simp only [State.fpResult, h]
  rw [moved, nanBox_mod]

/-- A double fills the register. -/
theorem nanBox_double (p : Params) (h : p.hasD = true) (v : Word) : nanBox p FpFormat.double.bytes v = v := by
  simp [nanBox, h, FpFormat.bytes]

theorem fpBits_double (s : State) (h : s.cfg.hasD = true) (i : Reg) : s.fpBits .double i = (s.rf i).toNat := by
  simp [State.fpBits, flenBytes, h, FpFormat.bytes, show (s.rf i).toNat < 18446744073709551616 from (s.rf i).isLt]

/-! ### The sign of a double -/

/-- Bit 63, or nothing. -/
def signWord (c : Bool) : Word := if c then 0x8000000000000000 else 0

theorem and_signBit (v : Word) : v &&& 0x8000000000000000 = signWord v.msb :=
  (BitVec.and_twoPow v 63).trans (by rw [BitVec.msb_eq_getLsbD_last]; rfl)

theorem signWord_not (c : Bool) : signWord (!c) = signWord c ^^^ 0x8000000000000000 := by cases c <;> rfl

theorem signWord_xor (c d : Bool) : signWord (c ^^ d) = signWord c ^^^ signWord d := by cases c <;> cases d <;> rfl

theorem toNat_div_signBit (v : Word) : v.toNat / 2 ^ 63 = v.msb.toNat := by
  have fits : v.toNat < 2 ^ 64 := v.isLt
  rw [BitVec.msb_eq_decide]
  by_cases high : 2 ^ 63 ≤ v.toNat <;> simp only [high, decide_true, decide_false, Bool.toNat_true, Bool.toNat_false] <;> omega

/-- A magnitude with a sign put on it. -/
theorem ofNat_sign_magnitude (v : Word) (c : Bool) :
    BitVec.ofNat 64 (v.toNat % 2 ^ 63 + c.toNat * 2 ^ 63) = (v &&& 0x7FFFFFFFFFFFFFFF) ||| signWord c := by
  have magnitude : (v &&& 0x7FFFFFFFFFFFFFFF).toNat = v.toNat % 2 ^ 63 := Nat.and_two_pow_sub_one_eq_mod v.toNat 63
  have sign : (signWord c).toNat = 2 ^ 63 * c.toNat := by cases c <;> rfl
  have small : v.toNat % 2 ^ 63 < 2 ^ 63 := Nat.mod_lt _ (by decide)
  have bit : c.toNat ≤ 1 := Bool.toNat_le c
  apply BitVec.eq_of_toNat_eq
  rw [BitVec.toNat_or, magnitude, sign, Nat.or_comm, ← Nat.two_pow_add_eq_or_of_lt small, BitVec.toNat_ofNat]
  omega

section
variable (s : State) (i : FpInstr) (rm : Rounding) (hfmt : i.fmt = .double) (hd : s.cfg.hasD = true)
include hfmt hd

theorem fpResult_sgnj_double (h : i.op = .sgnj) :
    BitVec.ofNat 64 (s.fpResult i rm).bits = (s.rf i.rs1 &&& 0x7FFFFFFFFFFFFFFF) ||| (s.rf i.rs2 &&& 0x8000000000000000) := by
  simp only [State.fpResult, h, hfmt, fpBits_double s hd]
  rw [and_signBit, ← ofNat_sign_magnitude, ← toNat_div_signBit]
  rfl

theorem fpResult_sgnjn_double (h : i.op = .sgnjn) :
    BitVec.ofNat 64 (s.fpResult i rm).bits =
      (s.rf i.rs1 &&& 0x7FFFFFFFFFFFFFFF) ||| ((s.rf i.rs2 &&& 0x8000000000000000) ^^^ 0x8000000000000000) := by
  have flip : 1 - (s.rf i.rs2).toNat / 2 ^ 63 = (!(s.rf i.rs2).msb).toNat := by
    rw [toNat_div_signBit]
    cases (s.rf i.rs2).msb <;> rfl
  simp only [State.fpResult, h, hfmt, fpBits_double s hd]
  rw [and_signBit, ← signWord_not, ← ofNat_sign_magnitude, ← flip]
  rfl

theorem fpResult_sgnjx_double (h : i.op = .sgnjx) :
    BitVec.ofNat 64 (s.fpResult i rm).bits =
      (s.rf i.rs1 &&& 0x7FFFFFFFFFFFFFFF) ||| ((s.rf i.rs1 &&& 0x8000000000000000) ^^^ (s.rf i.rs2 &&& 0x8000000000000000)) := by
  have differ : ((s.rf i.rs1).toNat / 2 ^ 63 + (s.rf i.rs2).toNat / 2 ^ 63) % 2 = ((s.rf i.rs1).msb ^^ (s.rf i.rs2).msb).toNat := by
    rw [toNat_div_signBit, toNat_div_signBit]
    cases (s.rf i.rs1).msb <;> cases (s.rf i.rs2).msb <;> rfl
  simp only [State.fpResult, h, hfmt, fpBits_double s hd]
  rw [and_signBit, and_signBit, ← signWord_xor, ← ofNat_sign_magnitude, ← differ]
  rfl

end

/-! ## The obligation -/

/-- Settles O38: the clauses on loads and stores are the two outcomes of the check of FS; a computation that passes its checks updates one register, of x or of f,
with the result, whose stated values the lemmas above give. -/
theorem floatLoadsAndStores : Obligations.FloatLoadsAndStores := by
  refine ⟨fun i s f rs1 off n len as => ⟨exec_fpLoad_of_off, exec_fpStore_of_off, fun htable hfs hacc => ?load, fun htable hfs hwf hacc => ?store⟩,
    fun i s => ⟨execFp_of_off i s, fun hr hrm => execFp_of_reserved i s hr ((roundingOf_eq_none_iff _).2 hrm), fun hfs hrm => ?compute⟩⟩
  case load => exact ⟨_, exec_fpLoad_of_canAccess htable hfs hacc, wf_fsDirty_advance s f _ len⟩
  case store => exact ⟨_, exec_fpStore_of_canAccess htable hfs hacc, storedAt_fpStore htable hwf hacc, rfl, rfl, rfl⟩
  case compute =>
    obtain ⟨rm, meaning⟩ := execFp_of_on i s hfs fun hr => exists_roundingOf _ (hrm hr)
    cases hx : i.op.toX with
    | true =>
      rw [if_pos hx] at meaning
      obtain ⟨pcc, frame, fregs, register⟩ := wx_accrue_advance s i.rd (s.fpXResult i rm).1 (s.fpXResult i rm).2
      exact ⟨_, _, meaning, pcc, frame, fun _ => ⟨fregs, _, register, fpXResult_mvToX s i rm, fpXResult_of_nan s i rm⟩, nofun⟩
    | false =>
      rw [if_neg (Bool.eq_false_iff.1 hx)] at meaning
      obtain ⟨pcc, frame, regs, others⟩ := wf_accrue_advance s i.rd (nanBox s.cfg i.fmt.bytes (BitVec.ofNat 64 (s.fpResult i rm).bits))
        (s.fpResult i rm).flags
      have register := (others i.rd).trans (if_pos rfl)
      refine ⟨_, _, meaning, pcc, frame, nofun, fun _ => ⟨regs, fun j hj => (others j).trans (if_neg hj), fun hop => ?boxed, fun hfmt hd => ?signs⟩⟩
      case boxed => exact register.trans (boxed_mvFromX s i rm hop)
      case signs =>
        have whole := register.trans (hfmt ▸ nanBox_double s.cfg hd _)
        exact ⟨fun h => whole.trans (fpResult_sgnj_double s i rm hfmt hd h), fun h => whole.trans (fpResult_sgnjn_double s i rm hfmt hd h),
          fun h => whole.trans (fpResult_sgnjx_double s i rm hfmt hd h)⟩

end Sys2Proof.Machine
end

section
/-!
PROOFS. The state after reset (70_reset_and_hazards R410 to R414): the Infinite capability, the values of the fields, and the invariants of every step.
-/
namespace Sys2Proof.Machine
open Sys2Proof

/-! ## The Infinite capability (10_state R36) -/

section
variable (p : Params) (a : Word)

theorem infiniteAt_unsealed : (infiniteAt p a).s p = false := by
  cases hx : p.xlenmax64 <;> simp [infiniteAt, infiniteMd, Cap.s, sBit, hx]

theorem infiniteAt_legacy : (infiniteAt p a).m p = false := by
  cases hx : p.xlenmax64 <;> simp [infiniteAt, infiniteMd, Cap.m, mBit, hx]

/-- AP is all ones, of 5 bits or of 4. -/
theorem infiniteAt_ap : (infiniteAt p a).ap p = if p.xlenmax64 then 31 else 15 := by
  cases hx : p.xlenmax64 <;> simp [infiniteAt, infiniteMd, Cap.ap, bitsOf, hx]

theorem infiniteAt_perms : (infiniteAt p a).perms p = ⟨true, true, true, true, true⟩ := by
  rw [Cap.perms, infiniteAt_ap]
  cases p.xlenmax64 <;> rfl

theorem infiniteAt_sdp : (infiniteAt p a).sdp p = if p.xlenmax64 then 15 else 3 := by
  cases hx : p.xlenmax64 <;> simp [infiniteAt, infiniteMd, Cap.sdp, bitsOf, hx]

theorem infiniteAt_wellFormed : (infiniteAt p a).malformed p = false := by
  cases hx : p.xlenmax64 <;>
    simp [infiniteAt, infiniteMd, Cap.malformed, Cap.ef, efBit, Cap.expField, Cap.bMant, Cap.t8, Cap.te, Cap.be, Cap.bmid, capMaxE, bitsOf, hx]

/-- Its bounds fields: the largest exponent, base 0, and a T of which the two derived bits alone are set. -/
theorem infiniteAt_boundsFields : (infiniteAt p a).exp p = capMaxE p ∧ (infiniteAt p a).bMant p = 0 ∧
    (infiniteAt p a).tMant p = 2 ^ p.xlenmax / 2 ^ capMaxE p % 2 ^ mw p := by
  cases hx : p.xlenmax64 <;>
    simp [infiniteAt, infiniteMd, Cap.exp, Cap.ef, efBit, Cap.expField, Cap.bMant, Cap.tMant, Cap.tLow, Cap.tmid, Cap.t8, Cap.te, Cap.be, Cap.bmid,
      capMaxE, mw, Params.xlenmax, bitsOf, hx]

theorem infiniteAt_bounds : (infiniteAt p a).decodeBounds p a = (0, 2 ^ p.xlenmax) := by
  obtain ⟨exponent, base, top⟩ := infiniteAt_boundsFields p a
  have widths := capMaxE_add_mw p
  have fits := capMaxE_add_hw_le p
  refine decodeBounds_of_mantissas p _ a (capMaxE p) 0 (2 ^ p.xlenmax) exponent (Nat.dvd_zero _) (Nat.pow_dvd_pow 2 (by omega)) (by simp [base]) top
    (Nat.zero_le _) (truncX_toNat_lt p a).le ?length le_rfl
  exact Nat.pow_lt_pow_right (by decide) (by omega)

end

/-! ## The fields -/

@[simp] theorem rc_resetWith (p : Params) (i : Reg) : (State.resetWith p).rc i = nullCap := by
  unfold State.rc
  split
  · rfl
  · exact Vector.getElem_replicate _

/-- dinfc.M is 0 at reset, as in the Infinite capability (log 9). -/
theorem dinfc_resetWith (p : Params) : (State.resetWith p).dinfc = infiniteAt p 0 := by
  cases hm : p.mode <;> cases hx : p.xlenmax64 <;>
    simp [State.dinfc, State.resetWith, infiniteAt, infiniteMd, mBit, putBit, hm, hx]

/-- XLEN of M-mode is XLENMAX after reset (11_csrs R63). -/
theorem cur64_resetWith (p : Params) : (State.resetWith p).cur64 = p.xlenmax64 := by
  cases hx : p.xlenmax64 <;> simp [State.cur64, State.x64Of, State.resetWith, Csrs.reset, hx]

/-- The execution mode is Legacy where there is one: mseccfg.CME is 0 (11_csrs R88). -/
theorem capMode_resetWith (p : Params) : (State.resetWith p).capMode = !p.hasLegacy := by
  cases hl : p.hasLegacy <;> simp [State.capMode, State.cmeOf, State.resetWith, Csrs.reset, hl]

/-- The fields of mstatus after reset: UXL and SXL are 2 with XLENMAX 64, every other bit is 0 (log 7). -/
theorem st_resetWith (p : Params) (i : Nat) (h : i ≠ 33) (h' : i ≠ 35) : (State.resetWith p).st i = false := by
  have bits : ∀ j < 64, j ≠ 33 → j ≠ 35 → (0x0000000A00000000#64).getLsbD j = false := by decide
  cases hx : p.xlenmax64 with
  | false => simp [State.st, State.resetWith, Csrs.reset, hx]
  | true =>
    simp only [State.st, State.resetWith, Csrs.reset, hx, if_true]
    by_cases hi : i < 64
    · exact bits i hi h h'
    · exact BitVec.getLsbD_of_ge _ _ (by omega)

/-! ## The obligations -/

/-- Settles O8: the fields of `State.resetWith`, and the fields of the Infinite capability. -/
theorem resetValuesStated : Obligations.ResetValuesStated := by
  intro p s
  refine ⟨rfl, rfl, rfl, rfl, rfl, rfl, rfl, rfl, dinfc_resetWith p, rfl, rfl, rfl, rfl, rfl, rfl, rfl, rfl, by simp [s, State.resetWith, Csrs.reset], fun a => ?_⟩
  exact ⟨rfl, rfl, infiniteAt_unsealed p a, infiniteAt_legacy p a, infiniteAt_perms p a, infiniteAt_sdp p a,
    congrArg Prod.fst (infiniteAt_bounds p a), congrArg Prod.snd (infiniteAt_bounds p a), infiniteAt_wellFormed p a⟩

/-- Settles O9: register by register, and the modes read off the bits of mstatus. -/
theorem resetValuesDecided : Obligations.ResetValuesDecided := by
  intro p s
  have effPriv : s.effPriv = .machine := by
    have mprv : s.st 17 = false := st_resetWith p 17 (by decide) (by decide)
    rw [State.effPriv, mprv]
    rfl
  have effBe : s.effBe = false := by
    have mbe : s.st 37 = false := st_resetWith p 37 (by decide) (by decide)
    simp [State.effBe, State.beOf, effPriv, mbe]
  have fsOff : s.fsOff = true := by
    simp only [s, State.fsOff, State.resetWith, Csrs.reset]
    cases p.xlenmax64 <;> decide
  exact ⟨fun i => by rw [rc_resetWith]; rfl, fun g => rfl, rfl, rfl, st_resetWith p 3 (by decide) (by decide), st_resetWith p 17 (by decide) (by decide),
    rfl, rfl, rfl, rfl, fsOff, effBe, cur64_resetWith p, capMode_resetWith p, rfl, rfl, rfl, rfl, rfl, rfl⟩

/-- After reset no trigger asks for debug-mode entry (log 37). -/
theorem triggers_resetWith (p : Params) : ((State.resetWith p).triggers.all fun b => !b.toDebug || b.dmode) = true :=
  List.all_eq_true.2 fun _ hb => List.eq_of_mem_replicate hb ▸ rfl

theorem inv_resetWith (p : Params) (h : p.bootAddr.getLsbD 0 = false) : (State.resetWith p).Inv := by
  have epc : (infiniteAt p 0).even = true := (even_iff _).2 BitVec.getLsbD_zero
  have jvtc : (infiniteAt p 0).addr &&& 63 = 0 := BitVec.zero_and
  exact ⟨rfl, fun _ => (even_iff _).2 h, epc, epc, jvtc, rfl, nofun, triggers_resetWith p⟩

/-- Every capability CSR holds Infinite or NULL after reset. -/
theorem capAt_resetWith (p : Params) (c : CapCsr) : (State.resetWith p).csr.capAt c = infiniteAt p 0 ∨ (State.resetWith p).csr.capAt c = nullCap := by
  cases c with
  | mtvecc | mepcc | stvecc | sepcc | jvtc => exact .inl rfl
  | _ => exact .inr rfl

theorem capInv_resetWith (p : Params) (h : truncX p p.bootAddr = p.bootAddr) : (State.resetWith p).CapInv := by
  have null : nullCap.lawful p = true := lawful_nullWithAddr p 0 (truncX_zero p)
  have infinite : (infiniteAt p 0).lawful p = true := lawful_infiniteAt p 0 (truncX_zero p)
  refine (capInv_iff _).2 ⟨fun i => ?regs, lawful_infiniteAt p _ h, infinite, fun c => ?csrs, nofun⟩
  case regs =>
    rw [rc_resetWith]
    exact null
  case csrs =>
    obtain e | e := capAt_resetWith p c <;> rw [e]
    · exact infinite
    · exact null

/-- Settles O10; the default boot address is even and has 64 bits. -/
theorem resetMeetsInvariant : Obligations.ResetMeetsInvariant :=
  ⟨inv_resetWith {} rfl, capInv_resetWith {} rfl, fun p => ⟨inv_resetWith p, capInv_resetWith p⟩⟩

end Sys2Proof.Machine
end

section
/-!
PROOFS. Traps, interrupts and debug entry (60_exceptions R369 to R376, R395, R396), environment call and break (43_base_integer R232).
-/
namespace Sys2Proof.Machine
open Sys2Proof

/-! ## The status after a trap -/

/-- Every bit of mstatus after entry into M-mode outside MPP. -/
theorem getLsbD_mstatusTrapM (m : Word) (q : Priv) (j : Nat) (h : ¬(j = 11 ∨ j = 12)) :
    (mstatusTrapM m q).getLsbD j = if j = 3 then false else if j = 7 then m.getLsbD 3 else m.getLsbD j := by
  have outside : (3#64 <<< 11).getLsbD j = false := (getLsbD_mppField j).trans (decide_eq_false h)
  rw [mstatusTrapM, getLsbD_putBit _ _ _ _ (by decide), getLsbD_putBit _ _ _ _ (by decide), getLsbD_putMask, outside]
  rfl

theorem mpp_mstatusTrapM (m : Word) (q : Priv) : bitsOf (mstatusTrapM m q) 11 2 = q.num := by
  have written : bitsOf (mstatusTrapM m q) 11 2 = bitsOf (BitVec.ofNat 64 (q.num * 2 ^ 11)) 11 2 := by
    refine bitsOf_congr _ _ 11 2 fun j hlo hhi => ?_
    have inside : (3#64 <<< 11).getLsbD j = true := (getLsbD_mppField j).trans (decide_eq_true (by omega))
    have h3 : j ≠ 3 := by omega
    have h7 : j ≠ 7 := by omega
    rw [mstatusTrapM, getLsbD_putBit _ _ _ _ (by decide), if_neg h3, getLsbD_putBit _ _ _ _ (by decide), if_neg h7, getLsbD_putMask, if_pos inside]
  rw [written]
  cases q <;> rfl

/-- Every bit of mstatus after entry into S-mode. -/
theorem getLsbD_mstatusTrapS (m : Word) (q : Priv) (j : Nat) : (mstatusTrapS m q).getLsbD j =
    if j = 1 then false else if j = 5 then m.getLsbD 1 else if j = 8 then q == .supervisor else m.getLsbD j := by
  simp [mstatusTrapS, getLsbD_putBit]

/-! ## The cause and the handler -/

/-- The cause of an exception has no Interrupt bit (11_csrs R70). -/
theorem causeOf_exception (x64 : Bool) (code : Nat) (h : code < 31) : causeOf x64 false code = BitVec.ofNat 64 code := by
  have clear (j : Nat) (hj : 31 ≤ j) : (BitVec.ofNat 64 code).getLsbD j = false := by
    have small : code < 2 ^ j := calc
      code < 2 ^ 31 := by omega
      _ ≤ 2 ^ j := Nat.pow_le_pow_right (by decide) hj
    simp [BitVec.getLsbD_ofNat, Nat.testBit_lt_two_pow small]
  have low : 31 ≤ (if x64 then 63 else 31) := by split <;> decide
  have high : (if x64 then 63 else 31) < 64 := by split <;> decide
  rw [causeOf]
  generalize (if x64 then 63 else 31) = top at low high
  refine BitVec.eq_of_getLsbD_eq fun j _ => ?_
  rw [getLsbD_putBit _ _ _ _ high]
  split
  · next at_top => rw [at_top, clear top low]
  · rfl

theorem causeOf_interrupt (x64 : Bool) (code : Nat) :
    causeOf x64 true code = BitVec.ofNat 64 code ||| (1#64 <<< (if x64 then 63 else 31)) := rfl

/-- Exceptions go to the handler's address itself (11_csrs R66). -/
theorem vecTarget_exception (p : Params) (v : Cap) (code : Nat) : vecTarget p v false code = { v with addr := v.addr &&& ~~~3#64 } := by
  simp [vecTarget]

theorem vecTarget_interrupt (p : Params) (v : Cap) (code : Nat) : vecTarget p v true code = vectorOf p v code := by
  simp only [vecTarget, true_and]
  rfl

theorem tvalOf_zero (s : State) : s.tvalOf 0 = 0 := by
  unfold State.tvalOf
  split
  · rfl
  · exact truncX_zero s.cfg

/-! ## Taking an exception -/

theorem takeException_trapM (s : State) (e : Exc) (hd : s.debug = false)
    (h : s.cfg.hasS = true → s.priv ≠ .machine → s.csr.medeleg.getLsbD e.code = false) : takeException s e = s.trapM false e.code e.tval := by
  have kept : s.delegated e.code = false := by
    unfold State.delegated
    cases hS : s.cfg.hasS with
    | false => rfl
    | true =>
      by_cases hp : s.priv = .machine
      · simp [hp]
      · simp [h hS hp]
  rw [takeException, hd, kept]
  rfl

theorem takeException_trapS (s : State) (e : Exc) (hd : s.debug = false) (hS : s.cfg.hasS = true) (hp : s.priv ≠ .machine)
    (h : s.csr.medeleg.getLsbD e.code = true) : takeException s e = s.trapS false e.code e.tval := by
  have given : s.delegated e.code = true := by simp [State.delegated, hS, hp, h]
  rw [takeException, hd, given]
  rfl

theorem takeException_debug (s : State) (e : Exc) (hd : s.debug = true) : takeException s e = { s with progBuf := [], cmdErr := true } :=
  if_pos hd

/-- Settles O14: outside debug mode, where S-mode is not given the exception, it is `trapM`; the bits of its status are those of `mstatusTrapM`. -/
theorem trapEntryMachine : Obligations.TrapEntryMachine := by
  refine ⟨fun s e hd hdeleg hcode => ?trap, takeException_debug⟩
  intro t
  have entered : t = s.trapM false e.code e.tval := takeException_trapM s e hd hdeleg
  have bit (j : Nat) (h : ¬(j = 11 ∨ j = 12)) : (s.trapM false e.code e.tval).st j = _ := getLsbD_mstatusTrapM s.csr.mstatus s.priv j h
  rw [entered]
  refine ⟨rfl, causeOf_exception _ _ hcode, rfl, ?mpp, bit 7 (by decide), bit 3 (by decide), fun j h3 h7 h11 h12 => ?others, rfl, ?pcc, rfl⟩
  case mpp =>
    rw [← bitsOf_two]
    exact (mpp_mstatusTrapM s.csr.mstatus s.priv).trans (by cases s.priv <;> rfl)
  case others => rw [bit j (not_or.2 ⟨h11, h12⟩), if_neg h3, if_neg h7, State.st]
  case pcc => exact congrArg (s.pccFor .machine) (vecTarget_exception s.cfg s.csr.mtvecc e.code)

/-- Settles O15: a delegated exception is `trapS`; the bits of its status are those of `mstatusTrapS`. -/
theorem trapEntrySupervisor : Obligations.TrapEntrySupervisor := by
  intro s e hd hS hp hdeleg hcode t
  have entered : t = s.trapS false e.code e.tval := takeException_trapS s e hd hS hp hdeleg
  have bit (j : Nat) : (s.trapS false e.code e.tval).st j = _ := getLsbD_mstatusTrapS s.csr.mstatus s.priv j
  rw [entered]
  exact ⟨rfl, causeOf_exception _ _ hcode, rfl, bit 8, bit 5, bit 1, fun j h1 h5 h8 => by rw [bit j, if_neg h1, if_neg h5, if_neg h8, State.st], rfl,
    congrArg (s.pccFor .supervisor) (vecTarget_exception s.cfg s.csr.stvecc e.code), rfl⟩

/-! ## Interrupts (R371) -/

/-- The first in order is the one before which none is pending (log 11). -/
theorem firstInterrupt_eq_some (v : Word) (i : Nat) (before after : List Nat) (ho : interruptOrder = before ++ i :: after)
    (hb : ∀ j ∈ before, v.getLsbD j = false) (hi : v.getLsbD i = true) : firstInterrupt v = some i := by
  rw [firstInterrupt, ho]
  exact List.find?_eq_some_iff_append.2 ⟨hi, before, after, rfl, fun j hj => by simp [hb j hj]⟩

theorem firstInterrupt_eq_none (v : Word) (h : ∀ j ∈ interruptOrder, v.getLsbD j = false) : firstInterrupt v = none :=
  List.find?_eq_none.2 fun j hj => by simp [h j hj]

/-- The interrupt that M-mode takes comes before any that S-mode could take. -/
theorem interrupt_machine (s : State) (i : Nat) (ht : s.takesM = true) (hi : firstInterrupt s.pendingM = some i) :
    s.interrupt = some (s.trapM true i 0) := by
  rw [State.interrupt, if_pos ht, hi]

theorem interrupt_supervisor (s : State) (i : Nat) (hm : firstInterrupt s.pendingM = none) (ht : s.takesS = true)
    (hi : firstInterrupt s.pendingS = some i) : s.interrupt = some (s.trapS true i 0) := by
  rw [State.interrupt, hm, ite_self, if_pos ht, hi]
  rfl

/-- Between instructions, outside debug mode and without single step, an interrupt to be taken is the step. -/
theorem step_of_interrupt (s t : State) (hd : s.debug = false) (hr : (s.haltReq && s.cfg.hasSdext) = false) (hs : s.stepping = false)
    (h : s.interrupt = some t) : step s = .next t := by
  have free : s.holdsInterrupts = false := by rw [State.holdsInterrupts, hs]; rfl
  simp [step, hd, hr, State.runHart, hs, free, h]

theorem takesM_iff (s : State) : s.takesM = true ↔ s.priv ≠ .machine ∨ s.st 3 = true := by simp [State.takesM, mieBit]

theorem takesS_of_below (s : State) (hS : s.cfg.hasS = true) (h : s.priv = .user ∨ (s.priv = .supervisor ∧ s.st 1 = true)) : s.takesS = true := by
  obtain hu | ⟨hp, hie⟩ := h
  · simp [State.takesS, hS, hu]
  · simp [State.takesS, hS, hp, sieBit, hie]

/-- Settles O16: the interrupt found first is `trapM` or `trapS` with no value and its number as the cause. -/
theorem interruptsTaken : Obligations.InterruptsTaken := by
  refine ⟨fun s i before after hd hr hs ho hip hie => ⟨fun hm hdeleg hb => ?machine, fun hS hm hdeleg hnone hb => ?supervisor⟩, rfl, rfl⟩
  case machine =>
    have below : i < 64 := BitVec.lt_of_getLsbD hip
    have pending : s.pendingM.getLsbD i = true := by
      rw [State.pendingM, BitVec.getLsbD_and, BitVec.getLsbD_and, BitVec.getLsbD_not, hip, hie, hdeleg, decide_eq_true below]
      rfl
    have found := interrupt_machine s i ((takesM_iff s).2 hm) (firstInterrupt_eq_some _ i before after ho hb pending)
    have bit (j : Nat) (h : ¬(j = 11 ∨ j = 12)) : (s.trapM true i 0).st j = _ := getLsbD_mstatusTrapM s.csr.mstatus s.priv j h
    exact ⟨_, step_of_interrupt s _ hd hr hs found, rfl, rfl, tvalOf_zero s, causeOf_interrupt _ i, bit 7 (by decide), bit 3 (by decide),
      congrArg (s.pccFor .machine) (vecTarget_interrupt s.cfg s.csr.mtvecc i), rfl, rfl⟩
  case supervisor =>
    have pending : s.pendingS.getLsbD i = true := by simp [State.pendingS, hip, hie, hdeleg]
    have found := interrupt_supervisor s i (firstInterrupt_eq_none _ hnone) (takesS_of_below s hS hm) (firstInterrupt_eq_some _ i before after ho hb pending)
    have bit (j : Nat) : (s.trapS true i 0).st j = _ := getLsbD_mstatusTrapS s.csr.mstatus s.priv j
    exact ⟨_, step_of_interrupt s _ hd hr hs found, rfl, rfl, tvalOf_zero s, causeOf_interrupt _ i, bit 8, bit 5, bit 1,
      congrArg (s.pccFor .supervisor) (vecTarget_interrupt s.cfg s.csr.stvecc i), rfl, rfl⟩

/-! ## Debug entry (R395) -/

/-- The fields dcsr.prv and dcsr.cause after debug entry (log 7). -/
theorem dcsrEnter_prv (d : BitVec 32) (cause : Nat) (q : Priv) : (dcsrEnter d cause q).toNat % 4 = q.num := by
  have small : (cause % 8 * 64 + q.num) % 4294967296 % 4 = q.num := by
    cases q <;> simp only [Priv.num] <;> omega
  rw [dcsrEnter, BitVec.toNat_or, BitVec.toNat_and, BitVec.toNat_ofNat, show 4 = 2 ^ 2 from rfl, Nat.or_mod_two_pow, Nat.and_mod_two_pow]
  simpa using small

theorem dcsrEnter_cause (d : BitVec 32) (cause : Nat) (q : Priv) : (dcsrEnter d cause q).toNat / 64 % 8 = cause % 8 := by
  have small : (cause % 8 * 64 + q.num) % 4294967296 / 64 % 8 = cause % 8 := by
    cases q <;> simp only [Priv.num] <;> omega
  rw [dcsrEnter, BitVec.toNat_or, BitVec.toNat_and, BitVec.toNat_ofNat, show 64 = 2 ^ 6 from rfl, show 8 = 2 ^ 3 from rfl, Nat.or_div_two_pow,
    Nat.and_div_two_pow, Nat.or_mod_two_pow, Nat.and_mod_two_pow]
  simpa using small

theorem enterDebug_capMode (s : State) (cause : Nat) : (s.enterDebug cause).capMode = true := by
  simp [State.capMode, State.enterDebug]

theorem step_of_haltReq (s : State) (hd : s.debug = false) (hr : s.haltReq = true) (hdext : s.cfg.hasSdext = true) :
    step s = .next (s.enterDebug (if s.resetHalt then 5 else 3)) := by
  simp [step, hd, hr, hdext]

/-- Settles O17: the step is `enterDebug`, with the fields of dcsr that it writes. -/
theorem haltRequestEntersDebug : Obligations.HaltRequestEntersDebug := by
  intro s hd hr hdext
  refine ⟨_, step_of_haltReq s hd hr hdext, rfl, rfl, rfl, rfl, fun hl => ⟨if_pos hl, if_pos hl⟩, ?prv, ?cause, enterDebug_capMode s _, rfl, rfl, rfl⟩
  case prv => exact (dcsrEnter_prv s.csr.dcsr _ s.priv).trans (by cases s.priv <;> rfl)
  case cause => exact (dcsrEnter_cause s.csr.dcsr _ s.priv).trans (by split <;> rfl)

/-! ## ECALL and EBREAK (R232; logs 23, 39) -/

theorem exec_ebreak (s : State) (f : Form) : exec (.ebreak f) s = s.ebreak.run s := rfl

/-- The bit of dcsr that sends EBREAK of the current mode to debug mode. -/
theorem ebreakToDebug_eq (s : State) :
    s.ebreakToDebug = (s.cfg.hasSdext && s.csr.dcsr.getLsbD (match s.priv with | .machine => 15 | .supervisor => 13 | .user => 12)) := by
  unfold State.ebreakToDebug
  cases s.priv <;> rfl

/-- Settles O22: the branches of `State.ebreak`, and the code of `State.ecallCode`. -/
theorem callsAndBreaks : Obligations.CallsAndBreaks := by
  refine ⟨fun s => rfl, fun s f => ⟨fun hd hno => ?breakpoint, fun hd hdext hbit => ?debugEntry, fun hd => ?bufferEnd⟩⟩
  case breakpoint =>
    have stays : s.ebreakToDebug = false := by
      rw [ebreakToDebug_eq, Bool.and_eq_false_iff]
      exact hno
    simp [exec_ebreak, State.ebreak, hd, stays]
  case debugEntry =>
    have goes : s.ebreakToDebug = true := by
      rw [ebreakToDebug_eq, Bool.and_eq_true]
      exact ⟨hdext, hbit⟩
    simp [exec_ebreak, State.ebreak, hd, goes]
  case bufferEnd => simp [exec_ebreak, State.ebreak, hd]

end Sys2Proof.Machine
end

section
/-!
PROOFS. The pointer additions (49_cbo_prefetch_zba R345 to R353, 47_compressed R289, R290) and the register moves (47_compressed R288, 48_zcmp_zcmt R328, R329).
-/
namespace Sys2Proof.Machine
open Sys2Proof

/-! ## Pointer additions -/

/-- The pointer register moved by `d`: the capability, or the integer sum. -/
def State.movedPointer (s : State) (b : Reg) (d : Word) : Cap :=
  if s.capMode then withAddress s.cfg (s.rc b) (truncX s.cfg ((s.rc b).addr + d)) else s.intCap (s.rx b + d)

theorem ite_incAddr_eq_wc (s : State) (rd b : Reg) (d : Word) :
    (if s.capMode then s.wc rd ((s.rc b).incAddr s.cfg d) else s.wx rd (s.rx b + d)) = s.wc rd (s.movedPointer b d) := by
  unfold State.movedPointer
  split <;> rfl

theorem exec_of_pointerTable (s : State) (i : Instr) (rd b : Reg) (d : Word) (len : Nat) (h : pointerTable s i = some (rd, b, d, len)) :
    exec i s = .next ((s.wc rd (s.movedPointer b d)).advance len) := by
  rw [← ite_incAddr_eq_wc]
  cases i with
  | sh1add | sh2add | sh3add | sh4add | sh1addUw | sh2addUw | sh3addUw | sh4addUw | cAddi16sp | cAddi4spn => cases h; rfl
  | _ => exact nomatch h

/-- Settles O49: one register written, whatever the mode. -/
theorem pointerAdditions : Obligations.PointerAdditions := fun i s rd b d len htable =>
  ⟨_, exec_of_pointerTable s i rd b d len htable, wrote_wc_advance s rd (s.movedPointer b d) len⟩

/-! ## What changes general registers and pcc alone -/

theorem sameButRegs_refl (s : State) : s.sameButRegs s := rfl

theorem State.sameButRegs.wc {s t : State} (h : s.sameButRegs t) (i : Reg) (k : Cap) : s.sameButRegs (t.wc i k) := by
  unfold State.sameButRegs State.wc
  split
  · exact h
  · exact h

theorem State.sameButRegs.setPcc {s t : State} (h : s.sameButRegs t) (k : Cap) : s.sameButRegs (t.setPcc k) := h

theorem State.sameButRegs.advance {s t : State} (h : s.sameButRegs t) (n : Nat) : s.sameButRegs (t.advance n) := h

/-- With pcc unchanged too, the state is the old one with other registers. -/
theorem State.sameButRegs.eq_withRegs {s t : State} (h : s.sameButRegs t) (hp : t.pcc = s.pcc) : t = { s with regs := t.regs } := by
  have back : { t with regs := s.regs, pcc := s.pcc } = s := h
  calc t = { ({ t with regs := s.regs, pcc := s.pcc } : State) with regs := t.regs, pcc := t.pcc } := rfl
    _ = { s with regs := t.regs, pcc := t.pcc } := by rw [back]
    _ = { s with regs := t.regs } := by rw [hp]

/-- So pcc moves on from there as from the old one. -/
theorem State.sameButRegs.advance_pcc {s t : State} (h : s.sameButRegs t) (hp : t.pcc = s.pcc) (n : Nat) : (t.advance n).pcc = s.nextPcc n := by
  rw [h.eq_withRegs hp]
  rfl

/-! ## Register moves -/

/-- What a move takes from a register: the whole capability, or the integer. -/
def State.moved (s : State) (r : Reg) : Cap := if s.capMode then s.rc r else s.intCap (s.rx r)

/-- A move into a state of the same mode and XLEN as the one it reads. -/
theorem moveTo_eq_wc (s t : State) (rd r : Reg) (h : s.sameButRegs t) (hp : t.pcc = s.pcc) : t.moveTo rd s r = t.wc rd (s.moved r) := by
  have mode : t.capMode = s.capMode := by rw [h.eq_withRegs hp]; rfl
  have value : nullWithAddr (t.toX (s.rx r)) = s.intCap (s.rx r) := by rw [h.eq_withRegs hp]; rfl
  rw [State.moveTo, mode, State.moved, State.wx, value]
  split <;> rfl

theorem exec_cMv (s : State) (rd r : Reg) : exec (.cMv rd r) s = .next ((s.wc rd (s.moved r)).advance 2) := by
  rw [← moveTo_eq_wc s s rd r rfl rfl]
  rfl

/-- Both sources are read in the state before. -/
theorem moveTo_moveTo_eq_wc (s : State) (d r e q : Reg) : (s.moveTo d s r).moveTo e s q = (s.wc d (s.moved r)).wc e (s.moved q) := by
  rw [moveTo_eq_wc s s d r rfl rfl, moveTo_eq_wc s _ e q ((sameButRegs_refl s).wc d _) (wc_pcc s d _)]

theorem exec_cmMvsa01 (s : State) (a b : CReg) :
    exec (.cmMvsa01 a b) s = .next (((s.wc (sreg a) (s.moved 10)).wc (sreg b) (s.moved 11)).advance 2) := by
  rw [← moveTo_moveTo_eq_wc]
  rfl

theorem exec_cmMva01s (s : State) (a b : CReg) :
    exec (.cmMva01s a b) s = .next (((s.wc 10 (s.moved (sreg a))).wc 11 (s.moved (sreg b))).advance 2) := by
  rw [← moveTo_moveTo_eq_wc]
  rfl

theorem rc_wc_of_ne_zero (s : State) (i j : Reg) (k : Cap) (hj : j ≠ 0) : (s.wc i k).rc j = if j = i then k else s.rc j := by
  simp only [rc_wc, and_iff_left hj]

/-- The registers after one move, and after two: the one written last has its source's value also where both are the same. -/
theorem rc_moved (s : State) (d r j : Reg) :
    ((s.wc d (s.moved r)).advance 2).rc j = if j = 0 then nullCap else if j = d then s.moved r else s.rc j := by
  split
  · next h0 => rw [h0]; rfl
  · next h0 => exact rc_wc_of_ne_zero s d j _ h0

theorem rc_moved_moved (s : State) (d r e q j : Reg) : (((s.wc d (s.moved r)).wc e (s.moved q)).advance 2).rc j =
    if j = 0 then nullCap else if j = e then s.moved q else if j = d then s.moved r else s.rc j := by
  split
  · next h0 => rw [h0]; rfl
  · next h0 => rw [rc_advance, rc_wc_of_ne_zero _ _ _ _ h0, rc_wc_of_ne_zero _ _ _ _ h0]

/-- The frame of one move and of two. -/
theorem moved_frame (s : State) (d : Reg) (k : Cap) : ((s.wc d k).advance 2).pcc = s.nextPcc 2 ∧ s.sameButRegs ((s.wc d k).advance 2) :=
  have same := (sameButRegs_refl s).wc d k
  ⟨same.advance_pcc (wc_pcc s d k) 2, same.advance 2⟩

theorem moved_moved_frame (s : State) (d e : Reg) (k k' : Cap) :
    (((s.wc d k).wc e k').advance 2).pcc = s.nextPcc 2 ∧ s.sameButRegs (((s.wc d k).wc e k').advance 2) :=
  have same := ((sameButRegs_refl s).wc d k).wc e k'
  ⟨same.advance_pcc (by rw [wc_pcc, wc_pcc]) 2, same.advance 2⟩

/-- Settles O50. -/
theorem registerMoves : Obligations.RegisterMoves := by
  intro i s m o htable val
  cases i with
  | cMv d r =>
    cases htable
    have ⟨hpc, hsame⟩ := moved_frame s d (s.moved r)
    exact ⟨_, exec_cMv s d r, hpc, hsame, rc_moved s d r⟩
  | cmMvsa01 a b =>
    cases htable
    have ⟨hpc, hsame⟩ := moved_moved_frame s (sreg a) (sreg b) (s.moved 10) (s.moved 11)
    exact ⟨_, exec_cmMvsa01 s a b, hpc, hsame, rc_moved_moved s (sreg a) 10 (sreg b) 11⟩
  | cmMva01s a b =>
    cases htable
    have ⟨hpc, hsame⟩ := moved_moved_frame s 10 11 (s.moved (sreg a)) (s.moved (sreg b))
    exact ⟨_, exec_cmMva01s s a b, hpc, hsame, rc_moved_moved s 10 (sreg a) 11 (sreg b)⟩
  | _ => exact nomatch htable

end Sys2Proof.Machine
end

section
/-!
PROOFS. The table jumps (48_zcmp_zcmt R330 to R332): the checks on jvtc, the read of the entry, the checks on the target.
-/
namespace Sys2Proof.Machine
open Sys2Proof

/-! ## The table read (R330) -/

section
variable (s : State) (ix : BitVec 8)

theorem tableFetch_untagged (ht : s.csr.jvtc.tag = false) : s.tableFetch ix = .exc ⟨28, 0⟩ := by
  simp only [State.tableFetch, ht]
  rfl

theorem tableFetch_sealed (ht : s.csr.jvtc.tag = true) (hs : s.csr.jvtc.s s.cfg = true) : s.tableFetch ix = .exc ⟨28, 1⟩ := by
  simp only [State.tableFetch, ht, hs]
  rfl

theorem tableFetch_notExecutable (ht : s.csr.jvtc.tag = true) (hs : s.csr.jvtc.s s.cfg = false) (hx : (s.csr.jvtc.perms s.cfg).x = false) :
    s.tableFetch ix = .exc ⟨28, 2⟩ := by
  simp only [State.tableFetch, ht, hs, hx]
  rfl

theorem tableFetch_outside (ht : s.csr.jvtc.tag = true) (hs : s.csr.jvtc.s s.cfg = false) (hx : (s.csr.jvtc.perms s.cfg).x = true)
    (hb : s.csr.jvtc.inBounds s.cfg (s.tableEa ix) s.xlenBytes = false) : s.tableFetch ix = .exc ⟨28, 3⟩ := by
  simp only [State.tableFetch, ht, hs, hx, hb]
  rfl

/-- jvtc permits the read of the entry. -/
def State.TableAllowed (s : State) (ix : BitVec 8) : Prop :=
  s.csr.jvtc.tag = true ∧ s.csr.jvtc.s s.cfg = false ∧ (s.csr.jvtc.perms s.cfg).x = true ∧
    s.csr.jvtc.inBounds s.cfg (s.tableEa ix) s.xlenBytes = true

/-- The privilege the entry is read with; debug mode reads as M-mode. -/
def State.tablePriv (s : State) : Priv := if s.debug then .machine else s.priv

theorem tableFetch_of_allowed (h : s.TableAllowed ix) : s.tableFetch ix = (s.translateAs s.tablePriv .fetch (s.tableEa ix)).bind fun x =>
    (pmaCheck s.cfg .fetch (s.tableEa ix) (span x.pa s.xlenBytes)).bind fun _ =>
      .ok (putBit (BitVec.ofNat 64 (leNat (s.loadList (span x.pa s.xlenBytes)))) 0 false) := by
  obtain ⟨ht, hs, hx, hb⟩ := h
  simp only [State.tableFetch, ht, hs, hx, hb]
  rfl

variable {s} {ix}

theorem tableFetch_untranslated (h : s.TableAllowed ix) (e : Exc) (he : s.translateAs s.tablePriv .fetch (s.tableEa ix) = .exc e) :
    s.tableFetch ix = .exc e := by
  rw [tableFetch_of_allowed s ix h, he, Res.bind_exc]

theorem tableFetch_vacant (h : s.TableAllowed ix) (x : Phys) (hx : s.translateAs s.tablePriv .fetch (s.tableEa ix) = .ok x)
    (hv : ∃ a ∈ span x.pa s.xlenBytes, Params.isMapped s.cfg a = false) : s.tableFetch ix = .exc ⟨1, s.tableEa ix⟩ := by
  obtain ⟨a, ha, hm⟩ := hv
  rw [tableFetch_of_allowed s ix h, hx, Res.bind_ok, pmaCheck_vacant _ _ _ _ a ha hm, Res.bind_exc]
  rfl

theorem tableFetch_mapped (h : s.TableAllowed ix) (x : Phys) (hx : s.translateAs s.tablePriv .fetch (s.tableEa ix) = .ok x)
    (hm : ∀ a ∈ span x.pa s.xlenBytes, Params.isMapped s.cfg a = true) :
    s.tableFetch ix = .ok (BitVec.ofNat 64 (leNat (s.loadList (span x.pa s.xlenBytes))) &&& ~~~1#64) := by
  rw [tableFetch_of_allowed s ix h, hx, Res.bind_ok, (pmaCheck_eq_ok _ _ _ _ ()).2 hm]
  rfl

end

/-! ## The jump (R331, R332) -/

theorem run_bind_ok {α : Type} (s : State) (r : Res α) (f : α → Res State) (a : α) (h : r = .ok a) : (r.bind f).run s = (f a).run s := by
  rw [h, Res.bind_ok]

/-- With pcc open to updates, a table jump is the read, the check of the target, and its effect; CM.JT links in no register. -/
theorem exec_tableJump (s : State) (ix : BitVec 8) (i : Instr) (link : Bool) (hi : (i = .cmJt ix ∧ link = false) ∨ (i = .cmJalt ix ∧ link = true))
    (hpc : s.debug = false ∨ s.cfg.debugPcrelIllegal = false) : exec i s = ((s.tableFetch ix).bind fun t => (s.checkTarget (s.targetAt t)).bind fun _ =>
      .ok ((s.writeLink (if link then 1 else 0) 2 s.capMode).jumpTo (s.targetAt t))).run s := by
  have jump : exec i s = (s.tableJump ix link).run s := by
    obtain ⟨rfl, rfl⟩ | ⟨rfl, rfl⟩ := hi <;> rfl
  have linked : s.writeLink (if link then 1 else 0) 2 s.capMode = if link then s.writeLink 1 2 s.capMode else s := by
    cases link with
    | true => rfl
    | false => exact (writeLink_eq_wc s 0 2 _).trans (wc_zero s _)
  rw [jump, State.tableJump, (pcrelCheck_eq_ok s ()).2 hpc, Res.bind_ok, linked]

/-- Settles O58: each clause is a check of the read or of the target that raises its exception, and the last one all of them passed. -/
theorem tableJumps : Obligations.TableJumps := by
  intro s ix i link hi hpc k w ea q
  have meaning := exec_tableJump s ix i link hi hpc
  have raised (e : Exc) (h : s.tableFetch ix = .exc e) : exec i s = .next (takeException s e) := meaning.trans (run_bind_exc s _ _ e h)
  refine ⟨fun ht => raised _ (tableFetch_untagged s ix ht), fun ht hs => raised _ (tableFetch_sealed s ix ht hs),
    fun ht hs hx => raised _ (tableFetch_notExecutable s ix ht hs hx), fun ht hs hx hb => raised _ (tableFetch_outside s ix ht hs hx hb),
    fun ht hs hx hb => ?allowed⟩
  have allowed : s.TableAllowed ix := ⟨ht, hs, hx, hb⟩
  refine ⟨fun e he => raised e (tableFetch_untranslated allowed e he), fun x htr => ⟨fun hv => raised _ (tableFetch_vacant allowed x htr hv), fun hm => ?mapped⟩⟩
  intro target next
  rw [tableFetch_mapped allowed x htr hm, Res.bind_ok] at meaning
  refine ⟨fun ha => ?misaligned, fun ha hd hb => ?outside, fun ha hb => ?jumped⟩
  case misaligned => exact meaning.trans (run_bind_exc s _ _ _ (checkTarget_misaligned s target ha))
  case outside => exact meaning.trans (run_bind_exc s _ _ _ (checkTarget_outside s target hd ha hb))
  case jumped =>
    have passed : s.checkTarget target = .ok () := (checkTarget_eq_ok s target ()).2 ⟨ha, hb⟩
    exact ⟨_, meaning.trans (run_bind_ok s _ _ () passed), wrote_writeLink_jumpTo s _ 2 s.capMode target⟩

end Sys2Proof.Machine
end

section
/-!
PROOFS. The cache-block instructions (49_cbo_prefetch_zba R335 to R340): their enables, the bytes of the block, the block stored as zeros.
-/
namespace Sys2Proof.Machine
open Sys2Proof

/-! ## The enables (R336) -/

theorem cboEnabled_eq_cboOn (s : State) (f : Word → Bool) : s.cboEnabled f = s.cboOn f := by
  unfold State.cboEnabled State.cboOn
  cases s.priv <;> simp

theorem envCbie_eq : envCbie = fun v => decide (v.toNat / 16 % 4 ≠ 0) := by
  funext v
  rw [envCbie, bitsOf_two]
  exact Bool.eq_iff_iff.2 (by rw [bne_iff_ne, decide_eq_true_iff]; rfl)

/-! ## Where the bytes of a block are (R335) -/

/-- The list of a block larger than a page, cut into its pages. -/
theorem blockPages_eq_ok (s : State) (base : Word) (n : Nat) : ∀ (i : Nat) (as : List Nat), as.length = 4096 * n →
    (∀ j < n, ∃ x, s.translate .store (s.eaOf (base + BitVec.ofNat 64 (4096 * (i + j)))) = .ok x ∧ (as.drop (4096 * j)).take 4096 = span x.pa 4096) →
    s.blockPages base i n = .ok as := by
  induction n with
  | zero =>
    intro i as hlen _
    rw [List.eq_nil_of_length_eq_zero hlen]
    rfl
  | succ n ih =>
    intro i as hlen hpages
    obtain ⟨x, hx, hspan⟩ := hpages 0 n.succ_pos
    have rest : s.blockPages base (i + 1) n = .ok (as.drop 4096) := by
      refine ih (i + 1) _ (by rw [List.length_drop]; omega) fun j hj => ?_
      obtain ⟨y, hy, hys⟩ := hpages (j + 1) (by omega)
      rw [show i + 1 + j = i + (j + 1) by omega, List.drop_drop, show 4096 + 4096 * j = 4096 * (j + 1) by omega]
      exact ⟨y, hy, hys⟩
    have first : span x.pa 4096 ++ as.drop 4096 = as := by rw [← hspan]; exact List.take_append_drop 4096 as
    rw [State.blockPages, show s.translate .store (s.eaOf (base + BitVec.ofNat 64 (4096 * i))) = .ok x from hx, Res.bind_ok, rest, Res.bind_ok, first]

theorem blockBytes_of_blockAt (s : State) (ea : Word) (as : List Nat) (h : s.blockAt ea as) : s.blockBytes ea = .ok as := by
  obtain ⟨hsmall, x, hx, rfl⟩ | ⟨hbig, hlen, hpages⟩ := h
  · rw [State.blockBytes, if_pos hsmall, hx, Res.bind_ok]
  · have size : s.cfg.blockSize = 4096 * 2 ^ (s.cfg.blockLog - 12) := by
      rw [show 4096 = 2 ^ 12 from rfl, ← Nat.pow_add, Nat.add_sub_cancel' hbig.le]
      rfl
    rw [State.blockBytes, if_neg hbig.not_ge]
    refine blockPages_eq_ok s _ _ 0 as (hlen.trans size) fun j hj => ?_
    rw [Nat.zero_add]
    exact hpages j hj

theorem blockAt_length (s : State) (ea : Word) (as : List Nat) (h : s.blockAt ea as) : as.length = s.cfg.blockSize := by
  obtain ⟨_, x, _, rfl⟩ | ⟨_, hlen, _⟩ := h
  · exact span_length _ _
  · exact hlen

/-- The exception of the translation of a block within one page, at the effective address (log 34). -/
theorem blockAccess_untranslated (s : State) (ea : Word) (e : Exc) (hsmall : s.cfg.blockLog ≤ 12) (he : s.translate .store ea = .exc e) :
    s.blockAccess ea = .exc e := by
  obtain ⟨htval, _⟩ := translateAs_exc s _ _ _ e he
  rw [State.blockAccess, State.blockBytes, if_pos hsmall, he, ← htval]
  rfl

theorem blockAccess_vacant (s : State) (ea : Word) (as : List Nat) (h : s.blockAt ea as) (hv : ∃ a ∈ as, Params.isMapped s.cfg a = false) :
    s.blockAccess ea = .exc ⟨7, ea⟩ := by
  obtain ⟨a, ha, hm⟩ := hv
  rw [State.blockAccess, blockBytes_of_blockAt s ea as h]
  exact (Res.bind_eq_exc _ _ _).2 (.inr ⟨as, rfl, by rw [pmaCheck_vacant _ _ _ _ a ha hm]; rfl⟩)

theorem blockAccess_mapped (s : State) (ea : Word) (as : List Nat) (h : s.blockAt ea as) (hm : ∀ a ∈ as, Params.isMapped s.cfg a = true) :
    s.blockAccess ea = .ok as := by
  rw [State.blockAccess, blockBytes_of_blockAt s ea as h]
  exact (Res.bind_eq_ok _ _ _).2 ⟨as, rfl, by rw [(pmaCheck_eq_ok _ _ _ _ ()).2 hm]; rfl⟩

/-! ## The access to the block, after the enables -/

/-- What the three kinds of cache-block instructions share: the breakpoint, a check of the authority, the access to the block, an effect. -/
def State.cboAccess (s : State) (ea : Word) (chk : Res Unit) (f : List Nat → State) : Res State :=
  (s.bpCheck .store ea).bind fun _ => chk.bind fun _ => (s.blockAccess ea).bind fun as => .ok (f as)

section
variable {s : State} {i : Instr} {ea : Word} {chk : Res Unit} {f : List Nat → State} (h : exec i s = (s.cboAccess ea chk f).run s)
include h

theorem exec_cbo_halt (hh : s.haltHit .store ea = true) : exec i s = .next (s.enterDebug 2) := by
  rw [h, State.cboAccess, bpCheck_of_haltHit s _ _ hh]
  rfl

theorem exec_cbo_breakpoint (hh : s.haltHit .store ea = false) (hb : s.bpHit .store ea = true) : exec i s = .next (takeException s ⟨3, ea⟩) :=
  h.trans (run_bind_exc s _ _ _ (bpCheck_of_bpHit s _ _ hh hb))

/-- With no breakpoint, what the check of the authority raises. -/
theorem exec_cbo_refused (hb : s.bpHit .store ea = false) (e : Exc) (he : chk = .exc e) : exec i s = .next (takeException s e) := by
  rw [h, State.cboAccess, (bpCheck_eq_ok s _ _ ()).2 hb, Res.bind_ok]
  exact run_bind_exc s _ _ e he

/-- With the check of the authority passed, what the access to the block raises. -/
theorem exec_cbo_raised (hb : s.bpHit .store ea = false) (hc : chk = .ok ()) (e : Exc) (he : s.blockAccess ea = .exc e) :
    exec i s = .next (takeException s e) := by
  rw [h, State.cboAccess, (bpCheck_eq_ok s _ _ ()).2 hb, hc, Res.bind_ok, Res.bind_ok]
  exact run_bind_exc s _ _ e he

theorem exec_cbo_done (hb : s.bpHit .store ea = false) (hc : chk = .ok ()) (as : List Nat) (ha : s.blockAccess ea = .ok as) : exec i s = .next (f as) := by
  rw [h, State.cboAccess, (bpCheck_eq_ok s _ _ ()).2 hb, hc, Res.bind_ok, Res.bind_ok, ha]
  rfl

end

/-! ## CBO.ZERO -/

theorem exec_cboZero_disabled (s : State) (rs1 : Reg) (h : s.cboOn (·.getLsbD 7) = false) : exec (.cboZero rs1) s = .next (takeException s ⟨2, 0⟩) := by
  rw [← cboEnabled_eq_cboOn] at h
  exact run_bind_exc s (Res.check (s.cboEnabled envCbze) illegal) _ _ (by rw [show s.cboEnabled envCbze = false from h]; rfl)

theorem exec_cboZero_enabled (s : State) (rs1 : Reg) (h : s.cboOn (·.getLsbD 7) = true) : exec (.cboZero rs1) s =
    (s.cboAccess (s.authEa rs1 0).2 (s.checkData (s.authEa rs1 0).1 (s.blockOf (s.authEa rs1 0).2) s.cfg.blockSize .store)
      fun as => (s.storeBytes as (List.replicate as.length 0)).advance 4).run s := by
  rw [← cboEnabled_eq_cboOn] at h
  exact run_bind_ok s (Res.check (s.cboEnabled envCbze) illegal) _ () (by rw [show s.cboEnabled envCbze = true from h]; rfl)

/-- Also where two pages of the block lie on the same bytes. -/
theorem Memory.readByte_writeList_zeros (m : Memory) (as : List Nat) (b : Nat) (h : m.wf = true) :
    (m.writeList as (List.replicate as.length 0)).readByte b = if b ∈ as then 0 else m.readByte b := by
  induction as generalizing m with
  | nil => rfl
  | cons a as ih =>
    rw [List.length_cons, List.replicate_succ, Memory.writeList, ih _ (m.wf_writeByte _ _ h), Memory.readByte_writeByte _ _ _ _ h]
    by_cases hb : b ∈ as <;> by_cases ha : b = a <;> simp [hb, ha]

theorem storedAt_zeros (s : State) (as : List Nat) (h : s.mem.wf = true) :
    s.storedAt (s.storeBytes as (List.replicate as.length 0)) as (List.replicate as.length 0) := by
  have read (b : Nat) : (s.storeBytes as (List.replicate as.length 0)).mem.readByte b = if b ∈ as then 0 else s.mem.readByte b :=
    (Memory.readByte_clearTags _ _ _ _).trans (Memory.readByte_writeList_zeros s.mem as b h)
  refine ⟨?_, fun a ha => (read a).trans (if_neg ha), fun g => ?_, rfl⟩
  · exact List.eq_replicate_iff.2 ⟨List.length_map _, fun v hv => by
      obtain ⟨a, ha, rfl⟩ := List.mem_map.1 hv
      exact (read a).trans (if_pos ha)⟩
  · simp only [State.storeBytes]
    rw [Memory.tagOf_clearTags _ _ _ _ (Memory.wf_writeList _ _ _ h), Memory.tagOf_writeList]

/-- Settles O59. -/
theorem cacheBlockZero : Obligations.CacheBlockZero := by
  intro s rs1 auth ea w inside
  refine ⟨exec_cboZero_disabled s rs1, fun on => ?_⟩
  have meaning := exec_cboZero_enabled s rs1 on
  have notFetch : Acc.store ≠ .fetch := nofun
  refine ⟨exec_cbo_halt meaning, exec_cbo_breakpoint meaning, fun hb => ?_⟩
  refine ⟨fun ht => exec_cbo_refused meaning hb _ (checkData_untagged s _ _ _ _ ht), fun ht hs => exec_cbo_refused meaning hb _ (checkData_sealed s _ _ _ _ ht hs),
    fun ht hs hw => exec_cbo_refused meaning hb _ (checkData_unpermitted s _ _ _ _ notFetch ht hs hw),
    fun ht hs hw hc => exec_cbo_refused meaning hb _ (checkData_uncovered s _ _ _ _ notFetch ht hs hw hc), fun ht hs hw hc => ?_⟩
  have allowed : s.checkData auth (s.blockOf ea) s.cfg.blockSize .store = .ok () :=
    (checkData_eq_ok s _ _ _ _ ()).2 ⟨ht, hs, fun h => absurd h (by decide), fun _ => hw, hc⟩
  refine ⟨fun e hsmall he => exec_cbo_raised meaning hb allowed e (blockAccess_untranslated s ea e hsmall he), fun as hat =>
    ⟨fun hv => exec_cbo_raised meaning hb allowed _ (blockAccess_vacant s ea as hat hv), fun hm hwf => ?_⟩⟩
  have stored := storedAt_zeros s as hwf
  rw [show List.replicate s.cfg.blockSize (0 : Byte) = List.replicate as.length 0 by rw [blockAt_length s ea as hat]]
  exact ⟨_, exec_cbo_done meaning hb allowed as (blockAccess_mapped s ea as hat hm), stored, rfl, rfl, rfl⟩

/-! ## CBO.CLEAN, CBO.FLUSH and CBO.INVAL -/

/-- The check of CBO.CLEAN and CBO.FLUSH: either permission, and one byte of the block in bounds (R338). -/
def State.checkManage (s : State) (auth : Cap) (ea : Word) : Res Unit :=
  if !auth.tag then .exc (cheri 1 0)
  else if auth.s s.cfg then .exc (cheri 1 1)
  else if !(auth.perms s.cfg).r && !(auth.perms s.cfg).w then .exc (cheri 1 2)
  else if !blockTouches s.cfg auth (blockBase s.cfg ea) then .exc (cheri 1 3)
  else .ok ()

theorem exc_else_bind {α β : Type} (c : Prop) [Decidable c] (e : Exc) (r : Res α) (f : α → Res β) :
    (if c then Res.exc e else r).bind f = if c then .exc e else r.bind f := by
  split <;> rfl

theorem cboManage_eq_bind (s : State) (rs1 : Reg) : s.cboManage rs1 = (Res.check (s.cboEnabled envCbcfe) illegal).bind fun _ =>
    s.cboAccess (s.authEa rs1 0).2 (s.checkManage (s.authEa rs1 0).1 (s.authEa rs1 0).2) fun _ => s.advance 4 := by
  simp only [State.cboManage, State.cboAccess, State.checkManage, exc_else_bind, Res.bind_ok]

/-- What CBO.INVAL (`inval`), and CBO.CLEAN and CBO.FLUSH, check: the enable and, of CBO.INVAL, ASR-permission; then the authority. -/
def State.cboEnables (s : State) (inval : Bool) : Res Unit :=
  (Res.check (if inval then s.cboEnabled envCbie else s.cboEnabled envCbcfe) illegal).bind fun _ => Res.check (!inval || s.asrOk) (cheri 0 2)
def State.checkCbo (s : State) (inval : Bool) (auth : Cap) (ea : Word) : Res Unit :=
  if inval then s.checkData auth (s.blockOf ea) s.cfg.blockSize .atomic else s.checkManage auth ea

theorem exec_cbo (s : State) (rs1 : Reg) (i : Instr) (inval : Bool)
    (hi : (i = .cboInval rs1 ∧ inval = true) ∨ ((i = .cboClean rs1 ∨ i = .cboFlush rs1) ∧ inval = false)) :
    exec i s = ((s.cboEnables inval).bind fun _ =>
      s.cboAccess (s.authEa rs1 0).2 (s.checkCbo inval (s.authEa rs1 0).1 (s.authEa rs1 0).2) fun _ => s.advance 4).run s := by
  have manage : (s.cboManage rs1).run s = ((s.cboEnables false).bind fun _ =>
      s.cboAccess (s.authEa rs1 0).2 (s.checkCbo false (s.authEa rs1 0).1 (s.authEa rs1 0).2) fun _ => s.advance 4).run s := by
    rw [cboManage_eq_bind, State.cboEnables]
    cases h : s.cboEnabled envCbcfe <;> rfl
  obtain ⟨rfl, rfl⟩ | ⟨rfl | rfl, rfl⟩ := hi
  · show (s.cboInval rs1).run s = _
    rw [State.cboInval, State.cboEnables]
    cases h : s.cboEnabled envCbie <;> rfl
  · exact manage
  · exact manage

section
variable (s : State) (inval : Bool) (auth : Cap) (ea : Word)

theorem checkCbo_untagged (ht : auth.tag = false) : s.checkCbo inval auth ea = .exc ⟨28, 0x10000⟩ := by
  cases inval with
  | true => exact checkData_untagged s auth _ _ _ ht
  | false =>
    simp only [State.checkCbo, State.checkManage, ht]
    rfl

theorem checkCbo_sealed (ht : auth.tag = true) (hs : auth.s s.cfg = true) : s.checkCbo inval auth ea = .exc ⟨28, 0x10001⟩ := by
  cases inval with
  | true => exact checkData_sealed s auth _ _ _ ht hs
  | false =>
    simp only [State.checkCbo, State.checkManage, ht, hs]
    rfl

theorem checkCbo_unpermitted (ht : auth.tag = true) (hs : auth.s s.cfg = false)
    (hp : (if inval then (auth.perms s.cfg).r && (auth.perms s.cfg).w else (auth.perms s.cfg).r || (auth.perms s.cfg).w) = false) :
    s.checkCbo inval auth ea = .exc ⟨28, 0x10002⟩ := by
  cases inval with
  | true => exact checkData_unpermitted s auth _ _ _ nofun ht hs hp
  | false =>
    obtain ⟨hr, hw⟩ := Bool.or_eq_false_iff.1 hp
    simp only [State.checkCbo, State.checkManage, ht, hs, hr, hw]
    rfl

/-- Some byte of the block is in bounds, in the spelling of the obligation. -/
theorem blockTouches_eq (p : Params) (base : Word) : blockTouches p auth base =
    (!auth.malformed p && decide (auth.base p < base.toNat + p.blockSize ∧ base.toNat < auth.top p ∧ auth.base p < auth.top p)) := by
  simp only [blockTouches, Bool.decide_and, Bool.and_assoc]

section
variable (ht : auth.tag = true) (hs : auth.s s.cfg = false)
  (hp : (if inval then (auth.perms s.cfg).r && (auth.perms s.cfg).w else (auth.perms s.cfg).r || (auth.perms s.cfg).w) = true)
include ht hs hp

/-- With the permissions, only the bounds are left. -/
theorem checkCbo_of_permitted : s.checkCbo inval auth ea =
    Res.check (if inval then s.covers auth (s.blockOf ea) s.cfg.blockSize else blockTouches s.cfg auth (blockBase s.cfg ea)) (cheri 1 3) := by
  cases inval with
  | true =>
    obtain ⟨hr, hw⟩ := Bool.and_eq_true_iff.1 hp
    simp only [State.checkCbo, State.checkData, ht, hs, hr, hw]
    cases s.covers auth (s.blockOf ea) s.cfg.blockSize <;> rfl
  | false =>
    have hrw : (!(auth.perms s.cfg).r && !(auth.perms s.cfg).w) = false := by rw [← Bool.not_or, show ((auth.perms s.cfg).r || (auth.perms s.cfg).w) = true from hp]; rfl
    simp only [State.checkCbo, State.checkManage, ht, hs, hrw]
    cases blockTouches s.cfg auth (blockBase s.cfg ea) <;> rfl

end
end

/-- Settles O60. -/
theorem cacheBlockManagement : Obligations.CacheBlockManagement := by
  intro s rs1 i inval hi auth ea block on perm inside
  have meaning := exec_cbo s rs1 i inval hi
  have enabled : on = if inval then s.cboEnabled envCbie else s.cboEnabled envCbcfe := by
    rw [cboEnabled_eq_cboOn, cboEnabled_eq_cboOn, envCbie_eq]
    rfl
  have bounds : inside = if inval then s.covers auth (s.blockOf ea) s.cfg.blockSize else blockTouches s.cfg auth (blockBase s.cfg ea) := by
    rw [blockTouches_eq]
    rfl
  refine ⟨fun hoff => ?_, fun hon hinval hasr => ?_, fun hon hasr => ?_⟩
  · exact meaning.trans (run_bind_exc s _ _ _ (by rw [State.cboEnables, ← enabled, hoff]; rfl))
  · exact meaning.trans (run_bind_exc s _ _ _ (by rw [State.cboEnables, ← enabled, hon, hinval, hasr]; rfl))
  · have asr : (!inval || s.asrOk) = true := by
      cases inval with
      | true => exact hasr rfl
      | false => rfl
    have enables : s.cboEnables inval = .ok () := by rw [State.cboEnables, ← enabled, hon, asr]; rfl
    rw [enables, Res.bind_ok] at meaning
    refine ⟨exec_cbo_halt meaning, exec_cbo_breakpoint meaning, fun hb => ?_⟩
    refine ⟨fun ht => exec_cbo_refused meaning hb _ (checkCbo_untagged s inval auth ea ht),
      fun ht hs => exec_cbo_refused meaning hb _ (checkCbo_sealed s inval auth ea ht hs),
      fun ht hs hp => exec_cbo_refused meaning hb _ (checkCbo_unpermitted s inval auth ea ht hs hp),
      fun ht hs hp hc => exec_cbo_refused meaning hb _ ?_, fun ht hs hp hc => ?_⟩
    · rw [checkCbo_of_permitted s inval auth ea ht hs hp, ← bounds, hc]
      rfl
    have allowed : s.checkCbo inval auth ea = .ok () := by rw [checkCbo_of_permitted s inval auth ea ht hs hp, ← bounds, hc]; rfl
    exact ⟨fun e hsmall he => exec_cbo_raised meaning hb allowed e (blockAccess_untranslated s ea e hsmall he), fun as hat =>
      ⟨fun hv => exec_cbo_raised meaning hb allowed _ (blockAccess_vacant s ea as hat hv),
        fun hm => exec_cbo_done meaning hb allowed as (blockAccess_mapped s ea as hat hm)⟩⟩

end Sys2Proof.Machine
end

section
/-!
PROOFS. What an instruction does to the privilege mode and to debug mode (60_exceptions R372 to R376, R395 to R397): by itself nothing, but for the returns and EBREAK; an
exception it raises may change the one, a trigger that an access of it meets the other.
-/
namespace Sys2Proof.Machine
open Sys2Proof

/-! ## States of the same modes -/

/-- The privilege mode and debug mode are as before. -/
def State.SameModes (s t : State) : Prop := t.priv = s.priv ∧ t.debug = s.debug

namespace State.SameModes

theorem refl (s : State) : s.SameModes s := ⟨rfl, rfl⟩

theorem trans {s t u : State} (h : s.SameModes t) (h' : t.SameModes u) : s.SameModes u := ⟨h'.1.trans h.1, h'.2.trans h.2⟩

theorem congr {s t u : State} (h : s.SameModes t) (hp : u.priv = t.priv) (hd : u.debug = t.debug) : s.SameModes u := h.trans ⟨hp, hd⟩

section
variable {s t : State} (h : s.SameModes t)
include h

theorem wc (i : Reg) (k : Cap) : s.SameModes (t.wc i k) := h.congr (wc_priv t i k) (wc_debug t i k)

theorem wx (i : Reg) (v : Word) : s.SameModes (t.wx i v) := h.wc i _

theorem setCd (cd : Option (Nat × Word)) : s.SameModes (t.setCd cd) := h.congr (setCd_priv t cd) (setCd_debug t cd)

theorem putCap (w : CapWrite) : s.SameModes (t.putCap w) := h.congr (putCap_priv t w) (putCap_debug t w)

theorem writeLink (rd : Reg) (len : Nat) (capForm : Bool) : s.SameModes (t.writeLink rd len capForm) := by
  rw [writeLink_eq_wc]
  exact h.wc rd _

theorem spAdd (rd : Reg) (off : Word) : s.SameModes (t.spAdd rd off) := by
  unfold State.spAdd
  split
  · exact h.wc rd _
  · exact h.wx rd _

theorem moveTo (rd : Reg) (u : State) (r : Reg) : s.SameModes (t.moveTo rd u r) := by
  unfold State.moveTo
  split
  · exact h.wc rd _
  · exact h.wx rd _

/-- What moves pcc alone. -/
theorem advance (n : Nat) : s.SameModes (t.advance n) := h
theorem setPcc (k : Cap) : s.SameModes (t.setPcc k) := h
theorem jumpTo (a : Word) : s.SameModes (t.jumpTo a) := h
theorem movedOn (u : State) : s.SameModes (t.movedOn u) := h

/-- What changes memory and the reservation, or the floating-point state, alone. -/
theorem writeInt (as : List Nat) (v : Word) : s.SameModes (t.writeInt as v) := h
theorem storeBytes (as : List Nat) (bs : List Byte) : s.SameModes (t.storeBytes as bs) := h
theorem resv (r : Option (Nat × Nat)) : s.SameModes { t with resv := r } := h
theorem wfDirty (i : Reg) (v : Word) : s.SameModes (t.wf i v).fsDirty := h

end

theorem csrGet {s : State} (r : CsrRef) (rd : Reg) : s.SameModes (s.csrGet r rd) := by
  refine ⟨?_, csrGet_debug s r rd⟩
  cases r with
  | wide c => exact wc_priv s rd _
  | alias_ c => exact wx_priv s rd _
  | plain x => exact (congrArg Guarded.priv (afterRead_guarded (s.wx rd _) x)).trans (wx_priv s rd _)

theorem writeX (s : State) (x : XCsr) (v : Word) : s.SameModes (s.writeX x v) := by
  refine ⟨?_, writeX_debug s x v⟩
  cases x with
  | tdata1 | tdata2 => exact setTrigger_priv s _
  | tselect => unfold State.writeX; simp only; split <;> rfl
  | _ => rfl

theorem csrPutX (s : State) (r : CsrRef) (op : CsrOp) (v : Word) : s.SameModes (s.csrPutX r op v) := by
  cases r with
  | wide c | alias_ c => exact ⟨putCapCsr_priv s c _, putCapCsr_debug s c _⟩
  | plain x => exact writeX s x _

theorem csrPutW (s : State) (r : CsrRef) (k : Cap) (v : Word) : s.SameModes (s.csrPutW r k v) := by
  cases r with
  | wide c => exact ⟨putCapCsr_priv s c _, putCapCsr_debug s c _⟩
  | alias_ c => exact csrPutX s (.alias_ c) .write v
  | plain x => exact csrPutX s (.plain x) .write v

end State.SameModes

/-! ## Outcomes -/

/-- A value meets `Q`, and where a trigger stops it `H` holds; an exception asks for nothing. -/
def Res.Within {α : Type} (H : Prop) (Q : α → Prop) : Res α → Prop
  | .ok a => Q a
  | .exc _ => True
  | .halt => H

namespace Res.Within

theorem bind {α β : Type} {H : Prop} {Q : α → Prop} {R : β → Prop} {r : Res α} {f : α → Res β} (h : r.Within H Q)
    (hf : ∀ a, Q a → (f a).Within H R) : (r.bind f).Within H R := by
  cases r with
  | ok a => exact hf a h
  | exc e => trivial
  | halt => exact h

/-- After a part whose value does not matter. -/
theorem andThen {α β : Type} {H : Prop} {R : β → Prop} {r : Res α} {f : α → Res β} (h : r.Within H fun _ => True)
    (hf : ∀ a, (f a).Within H R) : (r.bind f).Within H R := h.bind fun a _ => hf a

theorem check (H : Prop) (b : Bool) (e : Exc) : (Res.check b e).Within H fun _ => True := by
  cases b <;> trivial

theorem ite {α : Type} {H : Prop} {Q : α → Prop} {c : Prop} [Decidable c] {r r' : Res α} (h : c → r.Within H Q) (h' : ¬c → r'.Within H Q) :
    (if c then r else r').Within H Q := by
  split
  · next hc => exact h hc
  · next hc => exact h' hc

/-- A check that raises where it fails. -/
theorem raise {α : Type} {H : Prop} {Q : α → Prop} {c : Prop} [Decidable c] {e : Exc} {r : Res α} (h : r.Within H Q) :
    (if c then .exc e else r).Within H Q := ite (fun _ => trivial) fun _ => h

theorem reportAt {α : Type} {H : Prop} {Q : α → Prop} {r : Res α} (h : r.Within H Q) (v : Word) : (r.reportAt v).Within H Q := by
  cases r with
  | ok a => exact h
  | exc e => trivial
  | halt => exact h

end Res.Within

/-! ## Accesses: only the breakpoint check stops for debug mode -/

section
variable {H : Prop} (s : State) (auth : Cap) (ea : Word) (n : Nat) (kind : Acc) (al : Align) (v : Cap)

theorem within_checkData : (s.checkData auth ea n kind).Within H fun _ => True :=
  .raise (.raise (.raise (.raise (.raise trivial))))

theorem within_alignCheck (p : Params) : (alignCheck p ea n kind al).Within H fun _ => True := by
  refine .ite (fun _ => trivial) fun _ => ?_
  cases al with
  | plain => exact .ite (fun _ => trivial) fun _ => trivial
  | strict | zam => trivial

theorem within_pmaCheck (p : Params) (as : List Nat) : (pmaCheck p kind ea as).Within H fun _ => True := .check _ _ _

theorem within_leafOf (m : SvMode) (root : Nat) : (s.leafOf kind ea m root).Within H fun _ => True := by
  unfold State.leafOf
  split
  · trivial
  · obtain ⟨l, h⟩ | h | h := walk_cases s kind ea m m.levels root false <;> rw [h] <;> trivial

theorem within_translateAs (q : Priv) : (s.translateAs q kind ea).Within H fun _ => True := by
  unfold State.translateAs
  split
  · trivial
  · exact .ite (fun _ => (within_leafOf s _ _ _ _).andThen fun _ => .ite (fun _ => trivial) fun _ => trivial) fun _ => trivial

theorem within_translateBytes (i : Nat) : (s.translateBytes kind ea i n).Within H fun _ => True := by
  induction n generalizing i with
  | zero => trivial
  | succ n ih =>
    exact ((within_translateAs s _ _ _).reportAt ea).andThen fun _ => (within_pmaCheck _ _ _ _).andThen fun _ => (ih _).andThen fun _ => trivial

theorem within_cwCd (pte : Word) : (s.cwCd auth ea pte v).Within H fun _ => True :=
  .ite (fun _ => .raise trivial) fun _ => .ite (fun _ => .ite (fun _ => trivial) fun _ => trivial) fun _ => trivial

theorem within_cwRule (leaf : Option (Nat × Word)) : (s.cwRule auth ea leaf v).Within H fun _ => True := by
  cases leaf with
  | none => trivial
  | some x => exact .ite (fun _ => (within_cwCd s auth ea v x.2).andThen fun _ => trivial) fun _ => trivial

theorem within_currentPath (x : Path) : (s.currentPath auth ea v kind x).Within H fun _ => True :=
  .ite (fun _ => (within_translateAs s.uncached _ kind _).andThen fun _ => trivial) fun _ => trivial

theorem within_tagRule (w : CapWrite) : (s.tagRule ea w).Within H fun _ => True := .ite (fun _ => .raise trivial) fun _ => trivial

section
variable (h : s.haltHit kind ea = true → H)
include h

theorem within_bpCheck : (s.bpCheck kind ea).Within H fun _ => True := .ite h fun _ => .check _ _ _

theorem within_dataPath : (s.dataPath auth ea n kind al).Within H fun _ => True :=
  (within_bpCheck s ea kind h).andThen fun _ => (within_checkData s auth ea n kind).andThen fun _ => (within_alignCheck ea n kind al _).andThen fun _ =>
    .ite (fun _ => (within_translateAs s ea kind _).andThen fun _ => trivial) fun _ => (within_translateBytes s ea n kind 0).andThen fun _ => trivial

theorem within_dataAccess : (s.dataAccess auth ea n kind al).Within H fun _ => True :=
  (within_dataPath s auth ea n kind al h).andThen fun _ => (within_pmaCheck ea kind _ _).andThen fun _ => trivial

theorem within_capWriteChecked : (s.capWriteChecked auth ea v kind).Within H fun _ => True :=
  (within_dataPath s auth ea _ kind .strict h).andThen fun _ => (within_currentPath s auth ea kind _ _).andThen fun _ =>
    (within_cwRule s auth ea _ _).andThen fun _ => (within_pmaCheck ea kind _ _).andThen fun _ => trivial

theorem within_capWritePath : (s.capWritePath auth ea v kind).Within H fun _ => True :=
  (within_capWriteChecked s auth ea kind v h).andThen fun w => within_tagRule s ea w

end

theorem within_capRead (h : s.haltHit .load ea = true → H) : (s.capRead auth ea).Within H fun _ => True :=
  (within_dataAccess s auth ea _ .load .strict h).andThen fun _ => trivial

end

/-! ## Loads, stores and atomics -/

section
variable {H : Prop} (s : State) (rd rs1 rs2 : Reg) (off : Word) (n len : Nat)

section
variable (h : s.haltHit .load (s.authEa rs1 off).2 = true → H)
include h

theorem within_loadInt : (s.loadInt rs1 off n).Within H fun _ => True := (within_dataAccess s _ _ n _ _ h).andThen fun _ => trivial

theorem within_intLoad (sg : Bool) : (s.intLoad rd rs1 off n sg len).Within H s.SameModes :=
  (within_loadInt s rs1 off n h).andThen fun _ => ((State.SameModes.refl s).wx rd _).advance len

theorem within_fpLoad : (s.fpLoad rd rs1 off n len).Within H s.SameModes :=
  (Res.Within.check _ _ _).andThen fun _ => (within_loadInt s rs1 off n h).andThen fun _ => ((State.SameModes.refl s).wfDirty rd _).advance len

theorem within_capLoad : (s.capLoad rd rs1 off len).Within H s.SameModes :=
  (within_capRead s _ _ h).andThen fun _ => ((State.SameModes.refl s).wc rd _).advance len

end

section
variable (h : s.haltHit .store (s.authEa rs1 off).2 = true → H)
include h

theorem within_storeInt (v : Word) : (s.storeInt rs1 off n v).Within H s.SameModes :=
  (within_dataAccess s _ _ n _ _ h).andThen fun as => (State.SameModes.refl s).writeInt as v

theorem within_intStore : (s.intStore rs2 rs1 off n len).Within H s.SameModes :=
  (within_storeInt s rs1 off n h _).bind fun _ same => same.advance len

theorem within_fpStore : (s.fpStore rs2 rs1 off n len).Within H s.SameModes :=
  (Res.Within.check _ _ _).andThen fun _ => (within_storeInt s rs1 off n h _).bind fun _ same => same.advance len

theorem within_capStore : (s.capStore rs2 rs1 off len).Within H s.SameModes :=
  (within_capWritePath s _ _ _ _ h).andThen fun w => ((State.SameModes.refl s).putCap w).advance len

end

theorem within_amo (op : AmoOp) (h : s.haltHit .atomic (s.authEa rs1 0).2 = true → H) : (s.amo op n rd rs1 rs2).Within H s.SameModes :=
  (within_dataAccess s _ _ n _ _ h).andThen fun _ => (((State.SameModes.refl s).writeInt _ _).wx rd _).advance 4

theorem within_amoswapCap (h : s.haltHit .atomic (s.authEa rs1 0).2 = true → H) : (s.amoswapCap rd rs1 rs2).Within H s.SameModes :=
  (within_capWritePath s _ _ _ _ h).andThen fun w => (((State.SameModes.refl s).putCap w).wc rd _).advance 4

theorem within_lr (h : s.haltHit .load (s.authEa rs1 0).2 = true → H) : (s.lr n rd rs1).Within H s.SameModes :=
  (within_dataAccess s _ _ n _ _ h).andThen fun _ => (((State.SameModes.refl s).resv _).wx rd _).advance 4

theorem within_lrCap (h : s.haltHit .load (s.authEa rs1 0).2 = true → H) : (s.lrCap rd rs1).Within H s.SameModes :=
  (within_capRead s _ _ h).andThen fun _ => (((State.SameModes.refl s).resv _).wc rd _).advance 4

theorem within_sc (h : s.haltHit .store (s.authEa rs1 0).2 = true → H) : (s.sc n rd rs1 rs2).Within H s.SameModes :=
  (within_dataAccess s _ _ n _ _ h).andThen fun as => .ite (fun _ => ((((State.SameModes.refl s).writeInt as _).resv none).wx rd 0).advance 4)
    fun _ => (((State.SameModes.refl s).resv none).wx rd 1).advance 4

theorem within_scCap (h : s.haltHit .store (s.authEa rs1 0).2 = true → H) : (s.scCap rd rs1 rs2).Within H s.SameModes :=
  (within_capWriteChecked s _ _ _ _ h).andThen fun c => .ite
    (fun _ => (within_tagRule s _ c).andThen fun w => ((((State.SameModes.refl s).putCap w).resv none).wx rd 0).advance 4)
    fun _ => ((((State.SameModes.refl s).setCd c.cd).resv none).wx rd 1).advance 4

end

/-! ## Cache blocks -/

section
variable {H : Prop} (s : State) (rs1 : Reg)

theorem within_blockPages (base : Word) (i n : Nat) : (s.blockPages base i n).Within H fun _ => True := by
  induction n generalizing i with
  | zero => trivial
  | succ n ih => exact (within_translateAs s _ _ _).andThen fun _ => (ih _).andThen fun _ => trivial

theorem within_blockBytes (ea : Word) : (s.blockBytes ea).Within H fun _ => True :=
  .ite (fun _ => (within_translateAs s ea .store _).andThen fun _ => trivial) fun _ => within_blockPages s _ 0 _

theorem within_blockAccess (ea : Word) : (s.blockAccess ea).Within H fun _ => True :=
  ((within_blockBytes s ea).reportAt ea).andThen fun _ => (within_pmaCheck ea .store _ _).andThen fun _ => trivial

variable (h : s.haltHit .store (s.authEa rs1 0).2 = true → H)
include h

theorem within_cboManage : (s.cboManage rs1).Within H s.SameModes :=
  (Res.Within.check _ _ _).andThen fun _ => (within_bpCheck s _ _ h).andThen fun _ => .raise (.raise (.raise (.raise
    ((within_blockAccess s _).andThen fun _ => (State.SameModes.refl s).advance 4))))

theorem within_cboInval : (s.cboInval rs1).Within H s.SameModes :=
  (Res.Within.check _ _ _).andThen fun _ => (Res.Within.check _ _ _).andThen fun _ => (within_bpCheck s _ _ h).andThen fun _ =>
    (within_checkData s _ _ _ _).andThen fun _ => (within_blockAccess s _).andThen fun _ => (State.SameModes.refl s).advance 4

theorem within_cboZero : (s.cboZero rs1).Within H s.SameModes :=
  (Res.Within.check _ _ _).andThen fun _ => (within_bpCheck s _ _ h).andThen fun _ => (within_checkData s _ _ _ _).andThen fun _ =>
    (within_blockAccess s _).andThen fun _ => ((State.SameModes.refl s).storeBytes _ _).advance 4

end

/-! ## Instructions without an access -/

section
variable {H : Prop} (s : State)

theorem within_cheriOk {r : Res State} (h : r.Within H s.SameModes) : (s.cheriOk.bind fun _ => r).Within H s.SameModes :=
  (Res.Within.check _ _ _).andThen fun _ => h

theorem within_inspect (rd : Reg) (v : Word) : (s.inspect rd v).Within H s.SameModes :=
  within_cheriOk s (((State.SameModes.refl s).wx rd v).advance 4)

theorem within_capResult (rd : Reg) (k : Cap) : (s.capResult rd k).Within H s.SameModes :=
  within_cheriOk s (((State.SameModes.refl s).wc rd k).advance 4)

theorem within_switchMode (len : Nat) : (s.switchMode len).Within H s.SameModes :=
  within_cheriOk s (.ite (fun _ => (Res.Within.check _ _ _).andThen fun _ => State.SameModes.refl s) fun _ => State.SameModes.refl s)

theorem within_compute (rd : Reg) (v : Word) (len : Nat) : (s.compute rd v len).Within H s.SameModes :=
  ((State.SameModes.refl s).wx rd v).advance len

theorem within_checkTarget (a : Word) : (s.checkTarget a).Within H fun _ => True := (Res.Within.check _ _ _).andThen fun _ => .check _ _ _

theorem within_checkJumpCap (k : Cap) (off : Word) : (s.checkJumpCap k off).Within H fun _ => True :=
  (Res.Within.check _ _ _).andThen fun _ => .raise (.raise (.raise (.raise trivial)))

theorem within_jumpDirect (rd : Reg) (off : Word) (len : Nat) : (s.jumpDirect rd off len).Within H s.SameModes :=
  (Res.Within.check _ _ _).andThen fun _ => (within_checkTarget s _).andThen fun _ => ((State.SameModes.refl s).writeLink rd len _).jumpTo _

theorem within_jumpIndirect (rd rs1 : Reg) (off : Word) (len : Nat) (capForm : Bool) :
    (s.jumpIndirect rd rs1 off len capForm).Within H s.SameModes :=
  .ite (fun _ => (Res.Within.check _ _ _).andThen fun _ => (within_checkJumpCap s _ off).andThen fun _ =>
      ((State.SameModes.refl s).writeLink rd len true).setPcc _)
    fun _ => (Res.Within.check _ _ _).andThen fun _ => (within_checkTarget s _).andThen fun _ =>
      ((State.SameModes.refl s).writeLink rd len false).jumpTo _

theorem within_branch (c : Cond) (a b off : Word) (len : Nat) : (s.branch c a b off len).Within H s.SameModes :=
  (Res.Within.check _ _ _).andThen fun _ => .ite (fun _ => (within_checkTarget s _).andThen fun _ => State.SameModes.refl s)
    fun _ => State.SameModes.refl s

theorem within_tableFetch (index : BitVec 8) : (s.tableFetch index).Within H fun _ => True :=
  .raise (.raise (.raise (.raise ((within_translateAs s _ _ _).andThen fun _ => (within_pmaCheck _ _ _ _).andThen fun _ => trivial))))

theorem within_tableJump (index : BitVec 8) (link : Bool) : (s.tableJump index link).Within H s.SameModes :=
  (Res.Within.check _ _ _).andThen fun _ => (within_tableFetch s index).andThen fun _ => (within_checkTarget s _).andThen fun _ => by
    refine State.SameModes.jumpTo ?_ _
    split
    · exact (State.SameModes.refl s).writeLink _ _ _
    · exact .refl s

theorem within_auipc (rd : Reg) (imm : BitVec 20) : (s.pcrelCheck.bind fun _ =>
    .ok ((if s.capMode then s.wc rd (s.pcc.setAddr s.cfg (s.toX (s.pc + upperImm imm))) else s.wx rd (s.pc + upperImm imm)).advance 4)).Within
      H s.SameModes :=
  (Res.Within.check _ _ _).andThen fun _ => by
    refine State.SameModes.advance ?_ 4
    split
    · exact (State.SameModes.refl s).wc rd _
    · exact (State.SameModes.refl s).wx rd _

theorem within_shadd (n : Nat) (uw : Bool) (rd rs1 rs2 : Reg) : (s.shadd n uw rd rs1 rs2).Within H s.SameModes := by
  change s.SameModes (State.advance (if s.capMode then _ else _) 4)
  refine State.SameModes.advance ?_ 4
  split
  · exact (State.SameModes.refl s).wc rd _
  · exact (State.SameModes.refl s).wx rd _

theorem within_spAdded (rd : Reg) (off : Word) : (Res.ok ((s.spAdd rd off).advance 2)).Within H s.SameModes :=
  ((State.SameModes.refl s).spAdd rd off).advance 2

theorem within_moved (a b c d : Reg) : (Res.ok (((s.moveTo a s b).moveTo c s d).advance 2)).Within H s.SameModes :=
  (((State.SameModes.refl s).moveTo a s b).moveTo c s d).advance 2

theorem within_cMv (rd r : Reg) : (Res.ok ((if s.capMode then s.wc rd (s.rc r) else s.wx rd (s.rx r)).advance 2)).Within H s.SameModes :=
  ((State.SameModes.refl s).moveTo rd s r).advance 2

theorem within_csrCheck (n : BitVec 12) (w : Bool) : (s.csrCheck n w).Within H fun _ => True := by
  unfold State.csrCheck
  split
  · trivial
  · exact .raise (.raise (.raise (.raise (.raise (.raise trivial)))))

theorem within_csrSwap (rd rs1 : Reg) (n : BitVec 12) : (s.csrSwap rd rs1 n).Within H s.SameModes :=
  (within_csrCheck s n true).andThen fun r => by
    refine State.SameModes.movedOn (State.SameModes.trans ?_ (.csrPutW _ r _ _)) s
    split
    · exact .refl s
    · exact .csrGet r rd

theorem within_csrModify (op : CsrOp) (rd : Reg) (v : Word) (n : BitVec 12) (doRead doWrite : Bool) :
    (s.csrModify op rd v n doRead doWrite).Within H s.SameModes :=
  (within_csrCheck s n doWrite).andThen fun r => by
    have read : s.SameModes (if doRead then s.csrGet r rd else s) := by
      split
      · exact .csrGet r rd
      · exact .refl s
    cases doWrite with
    | false => exact read.movedOn s
    | true => exact (read.trans (.csrPutX _ r op v)).movedOn s

theorem within_wfi : s.wfi.Within H s.SameModes := (Res.Within.check _ _ _).andThen fun _ => State.SameModes.refl s

theorem within_sfence (rs1 rs2 : Reg) : (s.sfence rs1 rs2).Within H s.SameModes := (Res.Within.check _ _ _).andThen fun _ => State.SameModes.refl s

theorem within_mret : s.mret.Within H fun t => t.debug = s.debug := (Res.Within.check _ _ _).andThen fun _ => (Res.Within.check _ _ _).andThen fun _ => rfl

theorem within_sret : s.sret.Within H fun t => t.debug = s.debug := (Res.Within.check _ _ _).andThen fun _ => (Res.Within.check _ _ _).andThen fun _ => rfl

end

/-! ## Frames (48_zcmp_zcmt R323 to R327) -/

/-- What a sequence has done leaves the modes as in `s`, also where it stopped; where a trigger stopped it, `H` holds. -/
def Seq.Within (H : Prop) (s : State) : Seq → Prop
  | .done t | .trap t _ => s.SameModes t
  | .halt t => s.SameModes t ∧ H

namespace Seq.Within

theorem trans {H : Prop} {s t : State} {r : Seq} (h : s.SameModes t) (hr : r.Within H t) : r.Within H s := by
  cases r with
  | done u | trap u e => exact State.SameModes.trans h hr
  | halt u => exact ⟨h.trans hr.1, hr.2⟩

theorem andThen {H : Prop} {s : State} {r : Seq} {f : State → Res State} (h : r.Within H s) (hf : ∀ t, (f t).Within H t.SameModes) :
    (r.andThen f).Within H s := by
  cases r with
  | done t =>
    have next := hf t
    rw [Seq.andThen]
    revert next
    cases f t with
    | ok u => exact State.SameModes.trans h
    | exc x => exact fun _ => h
    | halt => exact fun stopped => ⟨h, stopped⟩
  | trap t e => exact h
  | halt t => exact h

end Seq.Within

/-- One register fewer to go. -/
theorem slot_sub (off : Word) (w k : Nat) :
    off - BitVec.ofNat 64 w - BitVec.ofNat 64 ((k + 1) * w) = off - BitVec.ofNat 64 ((k + 1 + 1) * w) := by
  rw [Nat.succ_mul (k + 1) w, BitVec.ofNat_add, BitVec.sub_sub, BitVec.add_comm]

/-- A store of a push changes memory and the reservation. -/
theorem pushOne_eq_ok (s t : State) (r : Reg) (off : Word) (h : s.pushOne r off = .ok t) : ∃ m v, t = { s with mem := m, resv := v } := by
  unfold State.pushOne at h
  split at h
  · obtain ⟨w, -, hw⟩ := (Res.bind_eq_ok _ _ _).1 h
    obtain rfl := Res.ok.inj hw
    unfold State.putCap State.setCd
    cases w.cd <;> exact ⟨_, _, rfl⟩
  · obtain ⟨as, -, hw⟩ := (Res.bind_eq_ok _ _ _).1 h
    exact ⟨_, _, (Res.ok.inj hw).symm⟩

/-- A load of a pop changes its register. -/
theorem popOne_eq_ok (s t : State) (r : Reg) (off : Word) (h : s.popOne r off = .ok t) : ∃ k, t = s.wc r k := by
  unfold State.popOne at h
  split at h
  · obtain ⟨x, -, hx⟩ := (Res.bind_eq_ok _ _ _).1 h
    exact ⟨_, (Res.ok.inj hx).symm⟩
  · obtain ⟨v, -, hv⟩ := (Res.bind_eq_ok _ _ _).1 h
    exact ⟨_, (Res.ok.inj hv).symm⟩

section
variable {H : Prop} (s : State) (r : Reg) (off : Word)

theorem within_pushOne (h : s.haltHit .store (s.authEa spReg off).2 = true → H) : (s.pushOne r off).Within H s.SameModes :=
  .ite (fun _ => (within_capWritePath s _ _ _ _ h).andThen fun w => (State.SameModes.refl s).putCap w) fun _ => within_storeInt s spReg off _ h _

theorem within_popOne (h : s.haltHit .load (s.authEa spReg off).2 = true → H) : (s.popOne r off).Within H s.SameModes :=
  .ite (fun _ => (within_capRead s _ _ h).andThen fun _ => (State.SameModes.refl s).wc r _)
    fun _ => (within_loadInt s spReg off _ h).andThen fun _ => (State.SameModes.refl s).wx r _

end

/-- The stores of a push, of which each may meet a trigger. -/
theorem within_pushAll {H : Prop} (rs : List Reg) (off : Word) (s : State)
    (h : ∀ k < rs.length, s.haltHit .store (s.authEa spReg (off - BitVec.ofNat 64 ((k + 1) * s.slot))).2 = true → H) :
    (pushAll rs off s).Within H s := by
  induction rs generalizing off s with
  | nil => exact State.SameModes.refl s
  | cons r rs ih =>
    have first := within_pushOne s r (off - BitVec.ofNat 64 s.slot) (by simpa using h 0 (Nat.succ_pos _))
    unfold pushAll
    cases e : s.pushOne r (off - BitVec.ofNat 64 s.slot) with
    | ok t =>
      rw [e] at first
      obtain ⟨m, v, rfl⟩ := pushOne_eq_ok s t r _ e
      refine Seq.Within.trans first (ih _ _ fun k hk => ?_)
      have later := h (k + 1) (Nat.succ_lt_succ hk)
      rw [← slot_sub] at later
      exact later
    | exc x => exact State.SameModes.refl s
    | halt => rw [e] at first; exact ⟨.refl s, first⟩

/-- A write to a register changes the registers. -/
theorem wc_eq_withRegs (s : State) (r : Reg) (k : Cap) : ∃ regs, s.wc r k = { s with regs := regs } := by
  unfold State.wc
  split
  · exact ⟨s.regs, rfl⟩
  · exact ⟨_, rfl⟩

/-- The integer of a register depends, of the registers, on that one. -/
theorem rx_withRegs (s : State) (regs : Vector Cap 32) (b : Reg) (h : ({ s with regs := regs } : State).rc b = s.rc b) :
    ({ s with regs := regs } : State).rx b = s.rx b := congrArg (fun k : Cap => if s.cur64 then k.addr else sext32 k.addr) h

/-- The authority and address of an access depend, of the registers, on its address register. -/
theorem authEa_withRegs (s : State) (regs : Vector Cap 32) (b : Reg) (off : Word) (h : ({ s with regs := regs } : State).rc b = s.rc b) :
    ({ s with regs := regs } : State).authEa b off = s.authEa b off := by
  unfold State.authEa
  rw [h, rx_withRegs s regs b h]
  rfl

/-- The loads of a pop, none of them into the stack pointer. -/
theorem within_popAll {H : Prop} (rs : List Reg) (off : Word) (s : State) (hsp : spReg ∉ rs)
    (h : ∀ k < rs.length, s.haltHit .load (s.authEa spReg (off - BitVec.ofNat 64 ((k + 1) * s.slot))).2 = true → H) :
    (popAll rs off s).Within H s := by
  induction rs generalizing off s with
  | nil => exact State.SameModes.refl s
  | cons r rs ih =>
    have first := within_popOne s r (off - BitVec.ofNat 64 s.slot) (by simpa using h 0 (Nat.succ_pos _))
    unfold popAll
    cases e : s.popOne r (off - BitVec.ofNat 64 s.slot) with
    | ok t =>
      rw [e] at first
      obtain ⟨hr, hrs⟩ := List.ne_and_not_mem_of_not_mem_cons hsp
      obtain ⟨k, rfl⟩ := popOne_eq_ok s t r _ e
      have sp : (s.wc r k).rc spReg = s.rc spReg := rc_wc_of_ne s r spReg k hr.symm
      obtain ⟨regs, e⟩ := wc_eq_withRegs s r k
      rw [e] at sp first ⊢
      refine Seq.Within.trans first (ih _ _ hrs fun j hj => ?_)
      have later := h (j + 1) (Nat.succ_lt_succ hj)
      rw [← slot_sub, ← authEa_withRegs s regs spReg _ sp] at later
      exact later
    | exc x => exact State.SameModes.refl s
    | halt => rw [e] at first; exact ⟨.refl s, first⟩

/-- The lists never name the stack pointer, and have the length they say. -/
theorem sp_notMem_rlistDown (l : BitVec 4) : spReg ∉ rlistDown l := by
  revert l
  decide

theorem rlistDown_length (l : BitVec 4) : (rlistDown l).length = rlistCount l := by
  revert l
  decide

theorem within_popReturn {H : Prop} (s : State) (l : BitVec 4) (e : BitVec 2) (zero : Bool) : (s.popReturn l e zero).Within H s.SameModes := by
  have zeroed : s.SameModes (if zero then s.wx 10 0 else s) := by
    split
    · exact (State.SameModes.refl s).wx 10 0
    · exact .refl s
  exact .ite (fun _ => (within_checkJumpCap s _ 0).andThen fun _ => (zeroed.spAdd _ _).setPcc _)
    fun _ => (within_checkTarget s _).andThen fun _ => (zeroed.spAdd _ _).jumpTo _

/-! ## Every instruction -/

/-- What an instruction that is no return and no EBREAK may come to: the modes as before; an exception taken, or debug mode entered where `H` holds, in a state of the
modes before. -/
inductive State.ComesTo (s : State) (H : Prop) : State → Prop
  | same {t : State} (h : s.SameModes t) : s.ComesTo H t
  | raised {u : State} (e : Exc) (h : s.SameModes u) : s.ComesTo H (takeException u e)
  | halted {u : State} (h : s.SameModes u) (hH : H) : s.ComesTo H (u.enterDebug 2)

theorem comesTo_of_run {s u t : State} {H : Prop} {r : Res State} (h : r.Within H s.SameModes) (hu : s.SameModes u) (e : r.run u = .next t) :
    s.ComesTo H t := by
  obtain rfl | ⟨x, -, rfl⟩ | ⟨rfl, rfl⟩ := (Res.run_eq_next u t r).1 e
  · exact .same h
  · exact .raised x hu
  · exact .halted hu h

theorem comesTo_of_seqRun {s t : State} {H : Prop} {r : Seq} (h : r.Within H s) (e : r.run = .next t) : s.ComesTo H t := by
  cases r with
  | done u => exact Host.Outcome.next.inj e ▸ .same h
  | trap u x => exact Host.Outcome.next.inj e ▸ .raised x h
  | halt u => exact Host.Outcome.next.inj e ▸ .halted h.1 h.2

/-- An access of the instruction meets a trigger for debug mode. -/
def State.MeetsHalt (s : State) (i : Instr) : Prop := ∃ kind a, s.touches i kind a ∧ s.haltHit kind a = true

theorem meetsHalt_of_accessTable {s : State} {i : Instr} {rs1 : Reg} {off : Word} {n : Nat} {kind : Acc} {al : Align}
    (h : accessTable s i = some (rs1, off, n, kind, al)) (hh : s.haltHit kind (s.authEa rs1 off).2 = true) : s.MeetsHalt i :=
  ⟨kind, _, .inl ⟨rs1, off, n, al, h, rfl⟩, hh⟩

section
variable {s t : State} {i : Instr}

theorem sameModes_unreserved (s : State) (i : Instr) : s.SameModes (s.unreserved i) := by
  unfold State.unreserved
  split <;> exact ⟨rfl, rfl⟩

/-- An instruction that does not access memory, or of which `r` is the meaning. -/
theorem comesTo_run {H : Prop} {r : Res State} (h : r.Within H s.SameModes) (e : r.run s = .next t) : s.ComesTo H t := comesTo_of_run h (.refl s) e

theorem comesTo_intLoad {rd rs1 : Reg} {off : Word} {n len : Nat} {sg : Bool} (htable : intLoadTable i = some (rd, rs1, off, n, sg, len))
    (hacc : accessTable s i = some (rs1, off, n, .load, .plain)) (e : exec i s = .next t) : s.ComesTo (s.MeetsHalt i) t :=
  comesTo_of_run (within_intLoad s rd rs1 off n len (meetsHalt_of_accessTable hacc) sg) (sameModes_unreserved s i)
    ((exec_of_intLoadTable s i rd rs1 off n sg len htable).symm.trans e)

theorem comesTo_intStore {b rs1 : Reg} {off : Word} {n len : Nat} (htable : intStoreTable i = some (b, rs1, off, n, len))
    (hacc : accessTable s i = some (rs1, off, n, .store, .plain)) (e : exec i s = .next t) : s.ComesTo (s.MeetsHalt i) t :=
  comesTo_of_run (within_intStore s rs1 b off n len (meetsHalt_of_accessTable hacc)) (sameModes_unreserved s i)
    ((exec_of_intStoreTable s i b rs1 off n len htable).symm.trans e)

theorem comesTo_fpLoad {rd rs1 : Reg} {off : Word} {n len : Nat} (htable : fpLoadTable i = some (rd, rs1, off, n, len))
    (hacc : accessTable s i = some (rs1, off, n, .load, .plain)) (e : exec i s = .next t) : s.ComesTo (s.MeetsHalt i) t :=
  comesTo_of_run (within_fpLoad s rd rs1 off n len (meetsHalt_of_accessTable hacc)) (sameModes_unreserved s i)
    ((exec_of_fpLoadTable s i rd rs1 off n len htable).symm.trans e)

theorem comesTo_fpStore {b rs1 : Reg} {off : Word} {n len : Nat} (htable : fpStoreTable i = some (b, rs1, off, n, len))
    (hacc : accessTable s i = some (rs1, off, n, .store, .plain)) (e : exec i s = .next t) : s.ComesTo (s.MeetsHalt i) t :=
  comesTo_of_run (within_fpStore s rs1 b off n len (meetsHalt_of_accessTable hacc)) (sameModes_unreserved s i)
    ((exec_of_fpStoreTable s i b rs1 off n len htable).symm.trans e)

theorem comesTo_capLoad {rd rs1 : Reg} {off : Word} {len n : Nat} (hacc : accessTable s i = some (rs1, off, n, .load, .strict))
    (e : (s.capLoad rd rs1 off len).run s = .next t) : s.ComesTo (s.MeetsHalt i) t :=
  comesTo_run (within_capLoad s rd rs1 off len (meetsHalt_of_accessTable hacc)) e

theorem comesTo_capStore {b rs1 : Reg} {off : Word} {len n : Nat} (hacc : accessTable s i = some (rs1, off, n, .store, .strict))
    (e : (s.capStore b rs1 off len).run s = .next t) : s.ComesTo (s.MeetsHalt i) t :=
  comesTo_run (within_capStore s rs1 b off len (meetsHalt_of_accessTable hacc)) e

theorem comesTo_amo {op : AmoOp} {rd rs1 rs2 : Reg} {n : Nat} (hacc : accessTable s i = some (rs1, 0, n, .atomic, .zam))
    (e : (s.amo op n rd rs1 rs2).run s = .next t) : s.ComesTo (s.MeetsHalt i) t :=
  comesTo_run (within_amo s rd rs1 rs2 n op (meetsHalt_of_accessTable hacc)) e

theorem comesTo_lr {rd rs1 : Reg} {n : Nat} (hacc : accessTable s i = some (rs1, 0, n, .load, .zam))
    (e : (s.lr n rd rs1).run s = .next t) : s.ComesTo (s.MeetsHalt i) t :=
  comesTo_run (within_lr s rd rs1 n (meetsHalt_of_accessTable hacc)) e

theorem comesTo_sc {rd rs1 rs2 : Reg} {n : Nat} (hacc : accessTable s i = some (rs1, 0, n, .store, .zam))
    (e : s.scOut (s.sc n rd rs1 rs2) = .next t) : s.ComesTo (s.MeetsHalt i) t :=
  comesTo_of_run (within_sc s rd rs1 rs2 n (meetsHalt_of_accessTable hacc)) ((State.SameModes.refl s).resv none) e

theorem comesTo_scC {rd rs1 rs2 : Reg} {aq rl : Bool} (e : exec (.scC rd rs1 rs2 aq rl) s = .next t) :
    s.ComesTo (s.MeetsHalt (.scC rd rs1 rs2 aq rl)) t := by
  change execScC rd rs1 rs2 aq rl s = _ at e
  unfold execScC at e
  split at e
  · exact comesTo_run (r := .exc illegal) trivial e
  · exact comesTo_of_run (within_scCap s rd rs1 rs2 (meetsHalt_of_accessTable rfl)) ((State.SameModes.refl s).resv none) e

theorem meetsHalt_of_cbo {rs1 : Reg} (hi : i = .cboInval rs1 ∨ i = .cboClean rs1 ∨ i = .cboFlush rs1 ∨ i = .cboZero rs1)
    (hh : s.haltHit .store (s.authEa rs1 0).2 = true) : s.MeetsHalt i := ⟨.store, _, .inr (.inr (.inr ⟨rs1, hi, rfl, rfl⟩)), hh⟩

theorem comesTo_cmPush {l : BitVec 4} {spimm : BitVec 2} (e : exec (.cmPush l spimm) s = .next t) : s.ComesTo (s.MeetsHalt (.cmPush l spimm)) t := by
  refine comesTo_of_seqRun ((within_pushAll _ 0 s fun k hk hh => ?_).andThen fun u => within_spAdded u _ _) e
  exact ⟨.store, _, .inr (.inl ⟨l, spimm, k, rfl, rfl, rlistDown_length l ▸ hk, rfl⟩), hh⟩

/-- The loads of a frame, of each instruction that pops. -/
theorem within_popFrame {l : BitVec 4} {spimm : BitVec 2} (hi : i = .cmPop l spimm ∨ i = .cmPopret l spimm ∨ i = .cmPopretz l spimm) :
    (s.popFrame l spimm).Within (s.MeetsHalt i) s :=
  within_popAll _ _ s (sp_notMem_rlistDown l) fun k hk hh =>
    ⟨.load, _, .inr (.inr (.inl ⟨l, spimm, k, hi, rfl, rlistDown_length l ▸ hk, rfl⟩)), hh⟩

theorem comesTo_cmPop {l : BitVec 4} {spimm : BitVec 2} (e : exec (.cmPop l spimm) s = .next t) : s.ComesTo (s.MeetsHalt (.cmPop l spimm)) t :=
  comesTo_of_seqRun ((within_popFrame (.inl rfl)).andThen fun u => within_spAdded u _ _) e

/-- A return from a frame, after its check of pcc. -/
theorem comesTo_popRet {l : BitVec 4} {spimm : BitVec 2} {zero : Bool} (hi : i = .cmPop l spimm ∨ i = .cmPopret l spimm ∨ i = .cmPopretz l spimm)
    (e : (match s.pcrelCheck with
      | .ok _ => (s.popFrame l spimm).andThen fun t => t.popReturn l spimm zero
      | .exc e => .trap s e
      | .halt => .halt s).run = .next t) : s.ComesTo (s.MeetsHalt i) t := by
  refine comesTo_of_seqRun ?_ e
  have checked : s.pcrelCheck.Within (s.MeetsHalt i) fun _ => True := .check _ _ _
  revert checked
  cases s.pcrelCheck with
  | ok u => exact fun _ => (within_popFrame hi).andThen fun t => within_popReturn t l spimm zero
  | exc x => exact fun _ => State.SameModes.refl s
  | halt => exact fun stopped => ⟨.refl s, stopped⟩

end

theorem exec_comesTo (s t : State) (i : Instr) (hm : i ≠ .mret) (hs : i ≠ .sret) (hd : i ≠ .dret) (he : ∀ f, i ≠ .ebreak f)
    (e : exec i s = .next t) : s.ComesTo (s.MeetsHalt i) t := by
  cases i with
  | gctag | gcperm | gchi | gcbase | gclen | cram | sceq | scss => exact comesTo_run (within_inspect s _ _) e
  | cmv | cadd | caddi | scaddr | acperm | schi | sentry | cbld | scbnds | scbndsi | scbndsr | scmode => exact comesTo_run (within_capResult s _ _) e
  | modesw | cModesw => exact comesTo_run (within_switchMode s _) e
  | lb | lh | lw | ld | lbu | lhu | lwu | cLw | cLd | cLwsp | cLdsp | cLbu | cLhu | cLh => exact comesTo_intLoad rfl rfl e
  | sb | sh | sw | sd | cSw | cSd | cSwsp | cSdsp | cSb | cSh => exact comesTo_intStore rfl rfl e
  | flh | flw | fld | cFlw | cFlwsp | cFld | cFldsp => exact comesTo_fpLoad rfl rfl e
  | fsh | fsw | fsd | cFsw | cFswsp | cFsd | cFsdsp => exact comesTo_fpStore rfl rfl e
  | lc rd rs1 imm => exact comesTo_run (within_cheriOk s (within_capLoad s rd rs1 _ 4 (by rw [simm_zero]; exact meetsHalt_of_accessTable rfl))) e
  | sc rs2 rs1 imm => exact comesTo_run (within_cheriOk s (within_capStore s rs1 rs2 _ 4 (by rw [simm_zero]; exact meetsHalt_of_accessTable rfl))) e
  | cLc | cLcsp => exact comesTo_capLoad rfl e
  | cSc | cScsp => exact comesTo_capStore rfl e
  | auipc rd imm => exact comesTo_run (within_auipc s rd imm) e
  | jal | cJal | cJ => exact comesTo_run (within_jumpDirect s _ _ _) e
  | jalr | cJalr | cJr => exact comesTo_run (within_jumpIndirect s _ _ _ _ _) e
  | jalrMode => exact comesTo_run (within_cheriOk s (within_jumpIndirect s _ _ _ _ _)) e
  | beq | bne | blt | bge | bltu | bgeu | cBeqz | cBnez => exact comesTo_run (within_branch s _ _ _ _ _) e
  | mret => exact absurd rfl hm
  | sret => exact absurd rfl hs
  | dret => exact absurd rfl hd
  | ebreak f => exact absurd rfl (he f)
  | lui | addi | xori | andi | srli | srai | sub | xor | or | and | addiw | addw | subw | slli | add
  | slti | sltiu | ori | sll | slt | sltu | srl | sra | slliw | srliw | sraiw | sllw | srlw | sraw => exact comesTo_run (within_compute s _ _ _) e
  | fence | fenceI | prefetchI | prefetchR | prefetchW => exact comesTo_run (r := .ok (s.advance 4)) (State.SameModes.refl s) e
  | ecall => exact comesTo_run (r := .exc ⟨s.ecallCode, 0⟩) trivial e
  | wfi => exact comesTo_run (within_wfi s) e
  | sfenceVma => exact comesTo_run (within_sfence s _ _) e
  | amoswapW | amoaddW | amoxorW | amoandW | amoorW | amominW | amomaxW | amominuW | amomaxuW
  | amoswapD | amoaddD | amoxorD | amoandD | amoorD | amominD | amomaxD | amominuD | amomaxuD => exact comesTo_amo rfl e
  | amoswapC => exact comesTo_run (within_cheriOk s (within_amoswapCap s _ _ _ (meetsHalt_of_accessTable rfl))) e
  | lrB | lrH | lrW | lrD => exact comesTo_lr rfl e
  | lrC => exact comesTo_run (within_cheriOk s (within_lrCap s _ _ (meetsHalt_of_accessTable rfl))) e
  | scB | scH | scW | scD => exact comesTo_sc rfl e
  | scC => exact comesTo_scC e
  | csrrw => exact comesTo_run (within_csrSwap s _ _ _) e
  | csrrs | csrrc | csrrwi | csrrsi | csrrci => exact comesTo_run (within_csrModify s _ _ _ _ _ _) e
  | cMv => exact comesTo_run (within_cMv s _ _) e
  | cAddi16sp | cAddi4spn => exact comesTo_run (within_spAdded s _ _) e
  | cmPush => exact comesTo_cmPush e
  | cmPop => exact comesTo_cmPop e
  | cmPopret => exact comesTo_popRet (.inr (.inl rfl)) e
  | cmPopretz => exact comesTo_popRet (.inr (.inr rfl)) e
  | cmMvsa01 | cmMva01s => exact comesTo_run (within_moved s _ _ _ _) e
  | cmJt | cmJalt => exact comesTo_run (within_tableJump s _ _) e
  | cboInval => exact comesTo_run (within_cboInval s _ (meetsHalt_of_cbo (.inl rfl))) e
  | cboClean => exact comesTo_run (within_cboManage s _ (meetsHalt_of_cbo (.inr (.inl rfl)))) e
  | cboFlush => exact comesTo_run (within_cboManage s _ (meetsHalt_of_cbo (.inr (.inr (.inl rfl))))) e
  | cboZero => exact comesTo_run (within_cboZero s _ (meetsHalt_of_cbo (.inr (.inr (.inr rfl))))) e
  | sh1add | sh2add | sh3add | sh1addUw | sh2addUw | sh3addUw | sh4add | sh4addUw => exact comesTo_run (within_shadd s _ _ _ _ _) e

/-! ## The two obligations -/

theorem takeException_debug_eq (s : State) (e : Exc) : (takeException s e).debug = s.debug := by
  unfold takeException
  split
  · rfl
  · split <;> rfl

/-- A return from a trap, or what it raises, leaves debug mode as it was. -/
theorem debug_of_run {s t : State} {r : Res State} (h : r.Within False fun t => t.debug = s.debug) (e : r.run s = .next t) : t.debug = s.debug := by
  obtain rfl | ⟨x, -, rfl⟩ | ⟨rfl, -⟩ := (Res.run_eq_next s t r).1 e
  · exact h
  · exact takeException_debug_eq s x
  · exact h.elim

/-- DRET leaves debug mode, and outside it is illegal. -/
theorem exec_dret_debug_eq (s t : State) (e : exec .dret s = .next t) : t.debug = false := by
  cases hd : s.debug with
  | true =>
    rw [exec_dret_debug s hd] at e
    exact Host.Outcome.next.inj e ▸ rfl
  | false =>
    have raised : exec .dret s = .next (takeException s illegal) := run_bind_exc s (Res.check s.debug illegal) _ _ (by rw [hd]; rfl)
    rw [← Host.Outcome.next.inj (raised.symm.trans e), takeException_debug_eq, hd]

/-- EBREAK ends the program buffer, enters debug mode, or raises a breakpoint exception. -/
theorem exec_ebreak_cases (s t : State) (f : Form) (e : exec (.ebreak f) s = .next t) :
    s.SameModes t ∨ (s.cfg.hasSdext = true ∧ t = s.enterDebug 1) ∨ ∃ x, t = takeException s x := by
  rw [exec_ebreak, State.ebreak] at e
  split at e
  · exact .inl (Host.Outcome.next.inj e ▸ .refl s)
  · split at e
    · next h => exact .inr (.inl ⟨(Bool.and_eq_true_iff.1 h).1, (Host.Outcome.next.inj e).symm⟩)
    · exact .inr (.inr ⟨_, (Host.Outcome.next.inj e).symm⟩)

/-- Debug mode is as before, left by DRET, or entered by EBREAK or by an access that meets a trigger for it. -/
theorem exec_debug_cases (i : Instr) (s t : State) (e : exec i s = .next t) :
    t.debug = s.debug ∨ (i = .dret ∧ t.debug = false) ∨
      (t.debug = true ∧ s.cfg.hasSdext = true ∧ ((∃ f, i = .ebreak f) ∨ s.MeetsHalt i)) := by
  by_cases hi : i = .mret ∨ i = .sret ∨ i = .dret ∨ ∃ f, i = .ebreak f
  · obtain rfl | rfl | rfl | ⟨f, rfl⟩ := hi
    · exact .inl (debug_of_run (within_mret s) e)
    · exact .inl (debug_of_run (within_sret s) e)
    · exact .inr (.inl ⟨rfl, exec_dret_debug_eq s t e⟩)
    · obtain same | ⟨hsdext, rfl⟩ | ⟨x, rfl⟩ := exec_ebreak_cases s t f e
      · exact .inl same.2
      · exact .inr (.inr ⟨rfl, hsdext, .inl ⟨f, rfl⟩⟩)
      · exact .inl (takeException_debug_eq s x)
  · simp only [not_or, not_exists] at hi
    obtain ⟨hm, hs, hd, he⟩ := hi
    cases exec_comesTo s t i hm hs hd he e with
    | same h => exact .inl h.2
    | raised x h => exact .inl ((takeException_debug_eq _ x).trans h.2)
    | halted _ halts =>
      have ⟨kind, a, _, hhalt⟩ := halts
      exact .inr (.inr ⟨rfl, hasSdext_of_haltHit s kind a hhalt, .inr halts⟩)

/-- Settles O12. -/
theorem debugModeBoundary : Obligations.DebugModeBoundary := by
  intro i s t e
  obtain same | ⟨rfl, left⟩ | ⟨entered, hsdext, why⟩ := exec_debug_cases i s t e
  · exact ⟨fun h h' => absurd (h.symm.trans (same.symm.trans h')) nofun, fun h h' => absurd (h.symm.trans (same.symm.trans h')) nofun⟩
  · exact ⟨fun _ _ => rfl, fun _ h' => absurd (left.symm.trans h') nofun⟩
  · exact ⟨fun _ h' => absurd (entered.symm.trans h') nofun, fun _ _ => ⟨hsdext, why⟩⟩

/-- Settles O13: what is no return changes the privilege mode by the exception it takes alone. -/
theorem privilegeChanges : Obligations.PrivilegeChanges := by
  intro i s t e
  by_cases hi : i = .mret ∨ i = .sret ∨ i = .dret ∨ ∃ f, i = .ebreak f
  · obtain hm | hs | hd | ⟨f, rfl⟩ := hi
    · exact .inr (.inl hm)
    · exact .inr (.inr (.inl hs))
    · exact .inr (.inr (.inr (.inl hd)))
    · obtain same | ⟨-, rfl⟩ | ⟨x, rfl⟩ := exec_ebreak_cases s t f e
      · exact .inl same.1
      · exact .inl rfl
      · exact .inr (.inr (.inr (.inr ⟨s, x, rfl, rfl⟩)))
  · simp only [not_or, not_exists] at hi
    obtain ⟨hm, hs, hd, he⟩ := hi
    cases exec_comesTo s t i hm hs hd he e with
    | same h => exact .inl h.1
    | raised x h => exact .inr (.inr (.inr (.inr ⟨_, x, h.1, rfl⟩)))
    | halted h _ => exact .inl h.1

end Sys2Proof.Machine
end

section
/-!
PROOFS. The accesses of a frame, untranslated (48_zcmp_zcmt R323 to R325): the addresses of the slots, one store and one load, and what the access of a slot raises.
-/
namespace Sys2Proof.Machine
open Sys2Proof

/-! ## Slots -/

theorem slot_cases (s : State) : s.slot = 4 ∨ s.slot = 8 ∨ s.slot = 16 := by
  unfold State.slot Params.capBytes
  split_ifs <;> simp

theorem slot_pos (s : State) : 0 < s.slot := by
  obtain h | h | h := slot_cases s <;> rw [h] <;> decide

/-- The authority of an access does not depend on its offset. -/
theorem authEa_fst (s : State) (b : Reg) (off off' : Word) : (s.authEa b off).1 = (s.authEa b off').1 := by
  unfold State.authEa
  split <;> rfl

theorem slot_off (top : Word) (w k : Nat) : top - BitVec.ofNat 64 (k * w) - BitVec.ofNat 64 w = top - BitVec.ofNat 64 ((k + 1) * w) := by
  rw [Nat.succ_mul, BitVec.ofNat_add, BitVec.sub_sub]

/-- The address of the k-th slot, as the sequence of accesses comes to it. -/
theorem authEa_slot (s : State) (top : Word) (k : Nat) :
    s.authEa spReg (top - BitVec.ofNat 64 (k * s.slot) - BitVec.ofNat 64 s.slot) = (s.frameAuth, s.slotAddr top k) := by
  rw [slot_off]
  exact Prod.ext (authEa_fst s 2 _ _) rfl

theorem eaOf_toNat (s : State) (a : Word) : (s.eaOf a).toNat = a.toNat % s.spaceEnd := by
  unfold State.eaOf State.spaceEnd
  split
  · exact (Nat.mod_eq_of_lt a.isLt).symm
  · rw [zext32, BitVec.toNat_setWidth, BitVec.toNat_setWidth]
    exact Nat.mod_eq_of_lt ((Nat.mod_lt _ (by decide)).trans (by decide))

/-- Two addresses less than the address space apart are not the same address. -/
theorem eaOf_sub_injective (s : State) (c : Word) (m n : Nat) (hm : m < 256) (hn : n < 256)
    (h : s.eaOf (c - BitVec.ofNat 64 m) = s.eaOf (c - BitVec.ofNat 64 n)) : m = n := by
  have same := congrArg BitVec.toNat h
  rw [eaOf_toNat, eaOf_toNat, BitVec.toNat_sub, BitVec.toNat_sub, BitVec.toNat_ofNat, BitVec.toNat_ofNat] at same
  have hc := c.isLt
  unfold State.spaceEnd at same
  split at same <;> omega

theorem slotAddr_eq_sub (s : State) (top : Word) : ∃ c, ∀ k, s.slotAddr top k = s.eaOf (c - BitVec.ofNat 64 ((k + 1) * s.slot)) := by
  unfold State.slotAddr State.authEa
  split
  · exact ⟨(s.rc 2).addr + top, fun k => congrArg s.eaOf (add_sub_assoc _ _ _).symm⟩
  · exact ⟨s.rx 2 + top, fun k => congrArg s.eaOf (add_sub_assoc _ _ _).symm⟩

/-- Different slots of a frame have different addresses: no frame reaches round the address space. -/
theorem slotAddr_injective (s : State) (top : Word) (i j : Nat) (hi : i < 13) (hj : j < 13) (h : s.slotAddr top i = s.slotAddr top j) : i = j := by
  obtain ⟨c, hc⟩ := slotAddr_eq_sub s top
  rw [hc, hc] at h
  have small (k : Nat) (hk : k < 13) : (k + 1) * s.slot < 256 := by
    obtain hw | hw | hw := slot_cases s <;> rw [hw] <;> omega
  have same := Nat.eq_of_mul_eq_mul_right (slot_pos s) (eaOf_sub_injective s c _ _ (small i hi) (small j hj) h)
  omega

/-! ## An access, untranslated -/

theorem translate_untranslated (s : State) (kind : Acc) (ea : Word) (hv : s.svMode s.effPriv = none) : s.translate kind ea = .ok ⟨ea.toNat, none⟩ := by
  rw [State.translate, State.translateAs, hv]

/-- The slot at `ea` can be accessed. -/
structure State.SlotOk (s : State) (kind : Acc) (ea : Word) : Prop where
  permits : s.permits s.frameAuth ea s.slot kind
  aligned : ea.toNat % s.slot = 0
  mapped : ∀ a ∈ span ea.toNat s.slot, Params.isMapped s.cfg a = true

theorem slotOk_of_frameOk {s : State} {kind : Acc} {top : Word} {n k : Nat} (h : s.frameOk kind top n) (hk : k < n) : s.SlotOk kind (s.slotAddr top k) := by
  obtain ⟨-, hslots⟩ := h
  obtain ⟨hp, ha, hm⟩ := hslots k hk
  exact ⟨hp, ha, hm⟩

section
variable {s : State} {kind : Acc} {ea : Word} (hv : s.svMode s.effPriv = none)
include hv

theorem State.SlotOk.canAccess (h : s.SlotOk kind ea) (al : Align) : s.canAccess s.frameAuth ea s.slot kind al (span ea.toNat s.slot) :=
  ⟨h.permits, .inl ⟨h.aligned, _, translate_untranslated s kind ea hv, rfl⟩, h.mapped⟩

theorem dataPath_untranslated (hp : s.permits s.frameAuth ea s.slot kind) (ha : ea.toNat % s.slot = 0) (al : Align) :
    s.dataPath s.frameAuth ea s.slot kind al = .ok ⟨span ea.toNat s.slot, none⟩ :=
  (dataPath_eq_ok ..).2 ⟨hp, .inl ⟨ha, _, translate_untranslated s kind ea hv, rfl⟩⟩

/-- What raises before the physical check, and a vacant slot. -/
theorem slotFault_cases (x : Exc) (hk : kind = .load ∨ kind = .store) (h : s.slotFault kind ea x) :
    (∀ al, s.dataPath s.frameAuth ea s.slot kind al = .exc x) ∨
      ((∀ al, s.dataPath s.frameAuth ea s.slot kind al = .ok ⟨span ea.toNat s.slot, none⟩) ∧
        (∃ a ∈ span ea.toNat s.slot, Params.isMapped s.cfg a = false) ∧ x = ⟨kind.accessFault, ea⟩) := by
  obtain ⟨hh, hb, rfl⟩ | ⟨hb, ht, hs, hp, -, hc, rfl⟩ | ⟨hp, ha, hm, rfl⟩ := h
  · exact .inl fun al => dataPath_bpHit s _ ea _ kind al hh hb
  · refine .inl fun al => dataPath_checkData s _ ea _ kind al _ hb (checkData_uncovered s _ _ _ _ ?_ ht hs ?_ hc)
    · rintro rfl
      exact absurd hk (by decide)
    · obtain rfl | rfl := hk
      · simpa using hp
      · simpa using hp
  · refine .inr ⟨dataPath_untranslated hv hp ha, hm, ?_⟩
    obtain rfl | rfl := hk <;> rfl

theorem dataAccess_slotFault (x : Exc) (hk : kind = .load ∨ kind = .store) (h : s.slotFault kind ea x) (al : Align) :
    s.dataAccess s.frameAuth ea s.slot kind al = .exc x := by
  obtain hpath | ⟨hpath, ⟨a, ha, hm⟩, rfl⟩ := slotFault_cases hv x hk h
  · rw [State.dataAccess, hpath al, Res.bind_exc]
  · exact dataAccess_vacant s _ ea _ kind al _ a (hpath al) ha hm

theorem capWritePath_slotFault (x : Exc) (h : s.slotFault .store ea x) (hmode : s.capMode = true) (v : Cap) :
    s.capWritePath s.frameAuth ea v .store = .exc x := by
  have width : s.slot = s.cfg.capBytes := if_pos hmode
  have cases := slotFault_cases hv x (.inr rfl) h
  rw [width] at cases
  obtain hpath | ⟨hpath, ⟨a, ha, hm⟩, rfl⟩ := cases
  · rw [State.capWritePath, State.capWriteChecked, hpath .strict]
    rfl
  · rw [State.capWritePath, capWriteChecked_vacant s _ ea v .store _ a (hpath .strict) nofun ha hm, Res.bind_exc]

end

/-! ## One store of a push -/

theorem pushOne_of_capMode (s : State) (r : Reg) (k : Nat) (h : s.capMode = true) :
    s.pushOne r (0 - BitVec.ofNat 64 (k * s.slot) - BitVec.ofNat 64 s.slot) =
      (s.capWritePath s.frameAuth (s.slotAddr 0 k) (s.rc r) .store).bind fun w => .ok (s.putCap w) := by
  rw [State.pushOne, if_pos h, authEa_slot]

theorem pushOne_of_legacy (s : State) (r : Reg) (k : Nat) (h : s.capMode = false) :
    s.pushOne r (0 - BitVec.ofNat 64 (k * s.slot) - BitVec.ofNat 64 s.slot) =
      (s.dataAccess s.frameAuth (s.slotAddr 0 k) s.slot .store .plain).bind fun as => .ok (s.writeInt as (s.rx r)) := by
  rw [State.pushOne, if_neg (by rw [h]; decide), State.storeInt, authEa_slot]

/-- The state after the store of a register to the slot at `ea`. -/
def State.storeSlot (s : State) (r : Reg) (ea : Word) : State :=
  if s.capMode then s.writeCap ea.toNat (s.storedCap s.frameAuth ea.toNat (s.rc r)) else s.writeInt (span ea.toNat s.slot) (s.rx r)

section
variable (s : State) (r : Reg) (k : Nat)

/-- A store of a capability to a slot keeps its tag, or the implementation strips it (R110). -/
def State.SlotTaggable (s : State) (ea : Word) : Prop :=
  s.capMode = true → s.cfg.taggedToUntaggable = .strip ∨ Params.isTaggable s.cfg ea.toNat = true

theorem pushOne_eq_storeSlot (hv : s.svMode s.effPriv = none) (hok : s.SlotOk .store (s.slotAddr 0 k)) (htag : s.SlotTaggable (s.slotAddr 0 k)) :
    s.pushOne r (0 - BitVec.ofNat 64 (k * s.slot) - BitVec.ofNat 64 s.slot) = .ok (s.storeSlot r (s.slotAddr 0 k)) := by
  unfold State.storeSlot
  split
  · next hmode =>
    obtain ⟨hp, ha, hm⟩ := hok
    rw [show s.slot = s.cfg.capBytes from if_pos hmode] at hp ha hm
    have can : s.canStoreCap s.frameAuth (s.slotAddr 0 k) (s.rc r) .store (s.slotAddr 0 k).toNat :=
      ⟨hp, ha, ⟨_, translate_untranslated s _ _ hv, rfl, .inr (.inl rfl)⟩, hm, (htag hmode).imp_right .inl⟩
    rw [pushOne_of_capMode s r k hmode, capWritePath_of_canStoreCap s _ _ _ _ _ can]
    rfl
  · next hmode =>
    rw [pushOne_of_legacy s r k (Bool.eq_false_iff.2 hmode), (dataAccess_eq_ok ..).2 (hok.canAccess hv .plain)]
    rfl

theorem pushOne_halt (h : s.haltHit .store (s.slotAddr 0 k) = true) :
    s.pushOne r (0 - BitVec.ofNat 64 (k * s.slot) - BitVec.ofNat 64 s.slot) = .halt := by
  cases hmode : s.capMode with
  | true =>
    rw [pushOne_of_capMode s r k hmode, State.capWritePath, State.capWriteChecked, dataPath_haltHit s _ _ _ _ _ h]
    rfl
  | false =>
    rw [pushOne_of_legacy s r k hmode, State.dataAccess, dataPath_haltHit s _ _ _ _ _ h]
    rfl

theorem pushOne_slotFault (hv : s.svMode s.effPriv = none) (x : Exc) (h : s.slotFault .store (s.slotAddr 0 k) x) :
    s.pushOne r (0 - BitVec.ofNat 64 (k * s.slot) - BitVec.ofNat 64 s.slot) = .exc x := by
  cases hmode : s.capMode with
  | true => rw [pushOne_of_capMode s r k hmode, capWritePath_slotFault hv x h hmode, Res.bind_exc]
  | false => rw [pushOne_of_legacy s r k hmode, dataAccess_slotFault hv x (.inr rfl) h, Res.bind_exc]

theorem pushOne_untaggable (hmode : s.capMode = true) (h : s.untaggable s.frameAuth (s.slotAddr 0 k) (s.rc r) .store (s.slotAddr 0 k).toNat) :
    s.pushOne r (0 - BitVec.ofNat 64 (k * s.slot) - BitVec.ofNat 64 s.slot) = .exc ⟨7, s.slotAddr 0 k⟩ := by
  rw [pushOne_of_capMode s r k hmode, capWritePath_of_untaggable s _ _ _ _ _ h, Res.bind_exc]

end

/-! ## What a store to a slot changes -/

/-- The slot at `a` holds the register, in the mode of `s`. -/
def State.slotHolds (s u : State) (r : Reg) (a : Nat) : Prop :=
  (s.capMode = true → u.mem.readList (span a s.slot) = capToBytes s.cfg (s.rc r) ∧
    u.mem.tagOf (a / s.slot) = (s.storedCap s.frameAuth a (s.rc r)).tag) ∧
  (s.capMode = false → u.mem.readList (span a s.slot) =
    (if s.effBe then (leBytes s.slot (s.rx r).toNat).reverse else leBytes s.slot (s.rx r).toNat))

section
variable (s : State) (r : Reg) (ea : Word)

theorem storeSlot_frame : ∃ m v, s.storeSlot r ea = { s with mem := m, resv := v } := by
  unfold State.storeSlot
  split <;> exact ⟨_, _, rfl⟩

/-- A capability, or integer data, as the rules for the one store and the other say. -/
theorem storeSlot_cases (hwf : s.mem.wf = true) :
    (s.capMode = true ∧ s.slot = s.cfg.capBytes ∧ s.capStoredAt (s.storeSlot r ea) ea.toNat (s.storedCap s.frameAuth ea.toNat (s.rc r))) ∨
      (s.capMode = false ∧ s.storedAt (s.storeSlot r ea) (span ea.toNat s.slot) (ordered s.effBe (leBytes s.slot (s.rx r).toNat))) := by
  unfold State.storeSlot
  split
  · next hmode => exact .inl ⟨hmode, if_pos hmode, capStoredAt_writeCap s _ _ hwf⟩
  · next hmode =>
    have stored := storedAt_writeInt s (span ea.toNat s.slot) (s.rx r) hwf (span_nodup _ _)
    rw [span_length] at stored
    exact .inr ⟨Bool.eq_false_iff.2 hmode, stored⟩

theorem storeSlot_wf (hwf : s.mem.wf = true) : (s.storeSlot r ea).mem.wf = true := by
  unfold State.storeSlot
  split
  · exact Memory.wf_setTag _ _ _ (Memory.wf_writeList _ _ _ hwf)
  · exact Memory.wf_clearTags _ _ _ (Memory.wf_writeList _ _ _ hwf)

variable (hwf : s.mem.wf = true)
include hwf

theorem storeSlot_readByte (b : Nat) (hb : b ∉ span ea.toNat s.slot) : (s.storeSlot r ea).mem.readByte b = s.mem.readByte b := by
  obtain ⟨-, width, -, bytes, -⟩ | ⟨-, -, bytes, -⟩ := storeSlot_cases s r ea hwf
  · exact bytes b (width ▸ hb)
  · exact bytes b hb

theorem storeSlot_tagOf (g : Nat) (hg : ∀ b ∈ span ea.toNat s.slot, b / s.cfg.capBytes ≠ g) : (s.storeSlot r ea).mem.tagOf g = s.mem.tagOf g := by
  obtain ⟨-, -, -, -, tags, -⟩ | ⟨-, -, -, tags, -⟩ := storeSlot_cases s r ea hwf
  · have first : ea.toNat ∈ span ea.toNat s.slot := (mem_span _ _ _).2 ⟨le_rfl, Nat.lt_add_of_pos_right (slot_pos s)⟩
    rw [tags, if_neg (hg _ first).symm]
  · have untouched : (span ea.toNat s.slot).any (fun b => b / s.cfg.capBytes == g) = false := List.any_eq_false.2 fun b hb => by simpa using hg b hb
    rw [tags, untouched]
    exact Bool.and_true _

/-- A store of an integer sets no tag, and clears those of the granules it touches. -/
theorem storeSlot_tagOf_legacy (hmode : s.capMode = false) (g : Nat) (hg : s.mem.tagOf g = false ∨ ∃ b ∈ span ea.toNat s.slot, b / s.cfg.capBytes = g) :
    (s.storeSlot r ea).mem.tagOf g = false := by
  obtain ⟨hcap, -⟩ | ⟨-, -, -, tags, -⟩ := storeSlot_cases s r ea hwf
  · rw [hmode] at hcap
    exact nomatch hcap
  · obtain hclear | ⟨b, hb, hbg⟩ := hg
    · rw [tags, hclear, Bool.false_and]
    · have touched : (span ea.toNat s.slot).any (fun b => b / s.cfg.capBytes == g) = true := List.any_eq_true.2 ⟨b, hb, beq_iff_eq.2 hbg⟩
      rw [tags, touched]
      exact Bool.and_false _

theorem storeSlot_resv : (s.storeSlot r ea).resv = resvAfter s.resv (span ea.toNat s.slot) := by
  obtain ⟨-, width, -, -, -, resv⟩ | ⟨-, -, -, -, resv⟩ := storeSlot_cases s r ea hwf
  · rw [width]
    exact resv
  · exact resv

theorem storeSlot_holds : s.slotHolds (s.storeSlot r ea) r ea.toNat := by
  obtain ⟨hmode, width, bytes, -, tags, -⟩ | ⟨hmode, bytes, -⟩ := storeSlot_cases s r ea hwf
  · refine ⟨fun _ => ⟨?_, ?_⟩, fun h => absurd (h.symm.trans hmode) nofun⟩
    · rw [width]
      exact bytes
    · rw [width, tags, if_pos rfl]
  · exact ⟨fun h => absurd (h.symm.trans hmode) nofun, fun _ => bytes⟩

end

/-- A slot reads the same where its bytes and its tag are the same. -/
theorem slotHolds_congr {s u u' : State} {r : Reg} {a : Nat} (h : s.slotHolds u r a)
    (hbytes : ∀ b ∈ span a s.slot, u'.mem.readByte b = u.mem.readByte b) (htag : s.capMode = true → u'.mem.tagOf (a / s.slot) = u.mem.tagOf (a / s.slot)) :
    s.slotHolds u' r a := by
  have list : u'.mem.readList (span a s.slot) = u.mem.readList (span a s.slot) := List.map_congr_left hbytes
  refine ⟨fun hmode => ?_, fun hmode => ?_⟩
  · rw [list, htag hmode]
    exact h.1 hmode
  · rw [list]
    exact h.2 hmode

/-! ## One load of a pop -/

theorem popOne_of_capMode (s : State) (r : Reg) (top : Word) (k : Nat) (h : s.capMode = true) :
    s.popOne r (top - BitVec.ofNat 64 (k * s.slot) - BitVec.ofNat 64 s.slot) =
      (s.capRead s.frameAuth (s.slotAddr top k)).bind fun (_, k) => .ok (s.wc r k) := by
  rw [State.popOne, if_pos h, authEa_slot]

theorem popOne_of_legacy (s : State) (r : Reg) (top : Word) (k : Nat) (h : s.capMode = false) :
    s.popOne r (top - BitVec.ofNat 64 (k * s.slot) - BitVec.ofNat 64 s.slot) =
      (s.dataAccess s.frameAuth (s.slotAddr top k) s.slot .load .plain).bind fun as => .ok (s.wc r (s.intCap (sextBytes s.slot (s.readInt as)))) := by
  rw [State.popOne, if_neg (by rw [h]; decide), State.loadInt, authEa_slot]
  cases s.dataAccess s.frameAuth (s.slotAddr top k) s.slot .load .plain <;> rfl

section
variable (s : State) (r : Reg) (top : Word) (k : Nat)

theorem popOne_eq_wc (hv : s.svMode s.effPriv = none) (hok : s.SlotOk .load (s.slotAddr top k)) :
    s.popOne r (top - BitVec.ofNat 64 (k * s.slot) - BitVec.ofNat 64 s.slot) = .ok (s.wc r (s.slotValue (s.slotAddr top k))) := by
  unfold State.slotValue
  split
  · next hmode =>
    have can := hok.canAccess hv .strict
    rw [show s.slot = s.cfg.capBytes from if_pos hmode] at can
    rw [popOne_of_capMode s r top k hmode, capRead_of_canAccess s _ _ _ _ can (translate_untranslated s _ _ hv)]
    rfl
  · next hmode =>
    rw [popOne_of_legacy s r top k (Bool.eq_false_iff.2 hmode), (dataAccess_eq_ok ..).2 (hok.canAccess hv .plain)]
    rfl

theorem popOne_halt (h : s.haltHit .load (s.slotAddr top k) = true) :
    s.popOne r (top - BitVec.ofNat 64 (k * s.slot) - BitVec.ofNat 64 s.slot) = .halt := by
  cases hmode : s.capMode with
  | true =>
    rw [popOne_of_capMode s r top k hmode, State.capRead, State.dataAccess, dataPath_haltHit s _ _ _ _ _ h]
    rfl
  | false =>
    rw [popOne_of_legacy s r top k hmode, State.dataAccess, dataPath_haltHit s _ _ _ _ _ h]
    rfl

theorem popOne_slotFault (hv : s.svMode s.effPriv = none) (x : Exc) (h : s.slotFault .load (s.slotAddr top k) x) :
    s.popOne r (top - BitVec.ofNat 64 (k * s.slot) - BitVec.ofNat 64 s.slot) = .exc x := by
  cases hmode : s.capMode with
  | true =>
    have raised := dataAccess_slotFault hv x (.inl rfl) h .strict
    rw [show s.slot = s.cfg.capBytes from if_pos hmode] at raised
    rw [popOne_of_capMode s r top k hmode, State.capRead, raised]
    rfl
  | false => rw [popOne_of_legacy s r top k hmode, dataAccess_slotFault hv x (.inl rfl) h, Res.bind_exc]

end

end Sys2Proof.Machine
end

section
/-!
PROOFS. CM.PUSH (48_zcmp_zcmt R323, R324): the stores of the list one after the other, what a fault of a later one leaves, the stack pointer moved.
-/
namespace Sys2Proof.Machine
open Sys2Proof

/-! ## The bytes of the slots -/

theorem resvAfter_append (r : Option (Nat × Nat)) (as bs : List Nat) : resvAfter r (as ++ bs) = resvAfter (resvAfter r as) bs := by
  cases r with
  | none => rfl
  | some x =>
    obtain ⟨a, n⟩ := x
    simp only [resvAfter, List.any_append]
    cases as.any fun x => decide (a ≤ x) && decide (x < a + n) <;> rfl

/-- The bytes of the first `k` slots. -/
def State.frameBytes (s : State) (k : Nat) : List Nat := (List.range k).flatMap fun i => span (s.slotAddr 0 i).toNat s.slot

theorem frameBytes_succ (s : State) (k : Nat) : s.frameBytes (k + 1) = s.frameBytes k ++ span (s.slotAddr 0 k).toNat s.slot := by
  rw [State.frameBytes, List.range_succ, List.flatMap_append, List.flatMap_singleton]
  rfl

theorem div_of_mem_span (a n b : Nat) (ha : a % n = 0) (hb : b ∈ span a n) : b / n = a / n :=
  div_of_mem_granule n (a / n) b (by rwa [Nat.div_mul_cancel (Nat.dvd_of_mod_eq_zero ha)])

/-- Two aligned slots are two granules of the slot's size. -/
theorem slot_div_ne (s : State) (i j : Nat) (hi : i < 13) (hj : j < 13) (hij : i ≠ j) (hai : (s.slotAddr 0 i).toNat % s.slot = 0)
    (haj : (s.slotAddr 0 j).toNat % s.slot = 0) : (s.slotAddr 0 i).toNat / s.slot ≠ (s.slotAddr 0 j).toNat / s.slot := by
  intro h
  have same : (s.slotAddr 0 i).toNat = (s.slotAddr 0 j).toNat := by
    rw [← Nat.div_mul_cancel (Nat.dvd_of_mod_eq_zero hai), h, Nat.div_mul_cancel (Nat.dvd_of_mod_eq_zero haj)]
  exact hij (slotAddr_injective s 0 i j hi hj (BitVec.eq_of_toNat_eq same))

/-! ## The first stores of a push -/

/-- `u` is `s` after the first `k` stores of a push, and the others are still to be made. -/
structure State.PushedTo (s u : State) (l : BitVec 4) (k : Nat) : Prop where
  frame : ∃ m v, u = { s with mem := m, resv := v }
  wf : u.mem.wf = true
  pushed : s.pushed u l k
  rest : pushAll (rlistDown l) 0 s = pushAll ((rlistDown l).drop k) (0 - BitVec.ofNat 64 (k * s.slot)) u

theorem pushedTo_zero (s : State) (l : BitVec 4) (hwf : s.mem.wf = true) : s.PushedTo s l 0 where
  frame := ⟨s.mem, s.resv, rfl⟩
  wf := hwf
  pushed := by
    refine ⟨fun _ _ => rfl, fun _ _ => rfl, fun _ b hb => absurd hb List.not_mem_nil, ?_, fun i _ hi => absurd hi i.not_lt_zero⟩
    show s.resv = resvAfter s.resv []
    cases s.resv <;> rfl
  rest := by rw [Nat.zero_mul]; rfl

/-- One store more, apart from the ones before. -/
theorem pushed_storeSlot (s u : State) (l : BitVec 4) (k : Nat) (r : Reg) (hframe : ∃ m v, u = { s with mem := m, resv := v }) (hwf : u.mem.wf = true)
    (h : s.pushed u l k) (hr : (rlistDown l)[k]? = some r) (hk : k < 13) (ha : ∀ i < k + 1, (s.slotAddr 0 i).toNat % s.slot = 0) :
    s.pushed (u.storeSlot r (s.slotAddr 0 k)) l (k + 1) := by
  obtain ⟨m, v, rfl⟩ := hframe
  obtain ⟨hbytes, htags, hclear, hresv, hholds⟩ := h
  let u : State := { s with mem := m, resv := v }
  let a := (s.slotAddr 0 k).toNat
  have bytes (b : Nat) (hb : b ∉ span a s.slot) : (u.storeSlot r (s.slotAddr 0 k)).mem.readByte b = u.mem.readByte b := storeSlot_readByte u r _ hwf b hb
  have tags (g : Nat) (hg : ∀ b ∈ span a s.slot, b / s.cfg.capBytes ≠ g) : (u.storeSlot r (s.slotAddr 0 k)).mem.tagOf g = u.mem.tagOf g :=
    storeSlot_tagOf u r _ hwf g hg
  have resv : (u.storeSlot r (s.slotAddr 0 k)).resv = resvAfter u.resv (span a s.slot) := storeSlot_resv u r _ hwf
  have split (b : Nat) : b ∈ s.frameBytes (k + 1) ↔ b ∈ s.frameBytes k ∨ b ∈ span a s.slot := by rw [frameBytes_succ, List.mem_append]
  refine ⟨fun b hb => ?bytes, fun g hg => ?tags, fun hmode b hb => ?clear, ?resv, fun i q hi hq => ?holds⟩
  case bytes =>
    obtain ⟨hold, hnew⟩ := not_or.1 (mt (split b).2 hb)
    exact (bytes b hnew).trans (hbytes b hold)
  case tags => exact (tags g fun b hb => hg b ((split b).2 (.inr hb))).trans (htags g fun b hb => hg b ((split b).2 (.inl hb)))
  case clear =>
    refine storeSlot_tagOf_legacy u r _ hwf hmode _ ?_
    obtain hold | hnew := (split b).1 hb
    · exact .inl (hclear hmode b hold)
    · exact .inr ⟨b, hnew, rfl⟩
  case resv =>
    refine resv.trans ((congrArg (resvAfter · _) hresv).trans ?_)
    rw [← resvAfter_append]
    exact congrArg (resvAfter s.resv) (frameBytes_succ s k).symm
  case holds =>
    obtain hlt | rfl := Nat.lt_succ_iff_lt_or_eq.1 hi
    · have apart := slot_div_ne s i k (hlt.trans hk) hk hlt.ne (ha i (hlt.trans k.lt_succ_self)) (ha k k.lt_succ_self)
      have held : s.slotHolds u q (s.slotAddr 0 i).toNat := hholds i q hlt hq
      refine slotHolds_congr held (fun b hb => bytes b fun hb' => apart ?_) fun hmode => tags _ fun b hb => ?_
      · exact (div_of_mem_span _ _ b (ha i (hlt.trans k.lt_succ_self)) hb).symm.trans (div_of_mem_span _ _ b (ha k k.lt_succ_self) hb')
      · have width : s.slot = s.cfg.capBytes := if_pos hmode
        rw [← width, div_of_mem_span _ _ b (ha k k.lt_succ_self) hb]
        exact apart.symm
    · obtain rfl := Option.some.inj (hr.symm.trans hq)
      exact storeSlot_holds u r _ hwf

/-- Every slot of the first `k` can be stored to. -/
def State.pushFine (s : State) (k : Nat) : Prop := s.frameOk .store 0 k ∧ ∀ i < k, s.SlotTaggable (s.slotAddr 0 i)

theorem rlistDown_drop (l : BitVec 4) (k : Nat) (hk : k < rlistCount l) :
    ∃ r, (rlistDown l)[k]? = some r ∧ (rlistDown l).drop k = r :: (rlistDown l).drop (k + 1) := by
  rw [← rlistDown_length] at hk
  exact ⟨_, List.getElem?_eq_getElem hk, List.drop_eq_getElem_cons hk⟩

theorem rlistCount_le (l : BitVec 4) : rlistCount l ≤ 13 := by
  revert l
  decide

/-- The first `k` stores complete, in order. -/
theorem exists_pushedTo (s : State) (l : BitVec 4) (hwf : s.mem.wf = true) (k : Nat) (hk : k ≤ rlistCount l) (h : s.pushFine k) :
    ∃ u, s.PushedTo u l k := by
  induction k with
  | zero => exact ⟨s, pushedTo_zero s l hwf⟩
  | succ k ih =>
    obtain ⟨⟨hv, hslots⟩, htag⟩ := h
    obtain ⟨u, ⟨m, v, rfl⟩, hu, hpushed, hrest⟩ := ih (Nat.le_of_succ_le hk)
      ⟨⟨hv, fun i hi => hslots i (hi.trans k.lt_succ_self)⟩, fun i hi => htag i (hi.trans k.lt_succ_self)⟩
    obtain ⟨r, hr, hdrop⟩ := rlistDown_drop l k hk
    have stored := pushOne_eq_storeSlot { s with mem := m, resv := v } r k hv (slotOk_of_frameOk ⟨hv, hslots⟩ k.lt_succ_self) (htag k k.lt_succ_self)
    refine ⟨_, ?_, storeSlot_wf _ r _ hu, pushed_storeSlot s _ l k r ⟨m, v, rfl⟩ hu hpushed hr (hk.trans (rlistCount_le l)) fun i hi => (hslots i hi).2.1, ?_⟩
    · obtain ⟨m', v', e⟩ := storeSlot_frame { s with mem := m, resv := v } r (s.slotAddr 0 k)
      exact ⟨m', v', e⟩
    · calc pushAll (rlistDown l) 0 s = pushAll (r :: (rlistDown l).drop (k + 1)) (0 - BitVec.ofNat 64 (k * s.slot)) _ := by rw [hrest, hdrop]
        _ = _ := pushAll_cons_ok r _ _ _ _ stored
        _ = _ := congrArg (pushAll _ · _) (slot_off 0 s.slot k)

/-! ## The instruction -/

/-- What `pushed` says is said of memory and the reservation alone. -/
theorem pushed_congr {s u t : State} {l : BitVec 4} {k : Nat} (h : s.pushed u l k) (hm : t.mem = u.mem) (hr : t.resv = u.resv) : s.pushed t l k := by
  unfold State.pushed
  rw [hm, hr]
  exact h

theorem spAdd_eq_wc (s : State) (d : Word) : s.spAdd spReg d = s.wc 2 (s.spAfter d) := by
  unfold State.spAdd State.spAfter
  split <;> rfl

section
variable {s u : State} {l : BitVec 4} {k : Nat} (e : BitVec 2)

theorem exec_cmPush_done (h : s.PushedTo u l (rlistCount l)) :
    exec (.cmPush l e) s = .next ((u.wc 2 (s.spAfter (0 - BitVec.ofNat 64 (s.stackAdj l e)))).advance 2) := by
  have frame : pushAll (rlistDown l) 0 s = .done u := by rw [h.rest, ← rlistDown_length, List.drop_length]; rfl
  have spAfter : u.spAfter (0 - BitVec.ofNat 64 (s.stackAdj l e)) = s.spAfter (0 - BitVec.ofNat 64 (s.stackAdj l e)) := by
    obtain ⟨m, v, rfl⟩ := h.frame
    rfl
  rw [← spAfter, ← spAdd_eq_wc]
  change execCmPush l e s = _
  rw [execCmPush, frame]
  rfl

/-- The k-th store raises. -/
theorem exec_cmPush_exc (h : s.PushedTo u l k) (hk : k < rlistCount l) (x : Exc)
    (hx : ∀ r, (rlistDown l)[k]? = some r → u.pushOne r (0 - BitVec.ofNat 64 (k * u.slot) - BitVec.ofNat 64 u.slot) = .exc x) :
    exec (.cmPush l e) s = .next (takeException u x) := by
  obtain ⟨r, hr, hdrop⟩ := rlistDown_drop l k hk
  have width : u.slot = s.slot := by
    obtain ⟨m, v, rfl⟩ := h.frame
    rfl
  have frame : pushAll (rlistDown l) 0 s = .trap u x := by rw [h.rest, hdrop, ← width, pushAll_cons_exc r _ _ u x (hx r hr)]
  change execCmPush l e s = _
  rw [execCmPush, frame]
  rfl

/-- A trigger stops the k-th store. -/
theorem exec_cmPush_halt (h : s.PushedTo u l k) (hk : k < rlistCount l) (hh : u.haltHit .store (u.slotAddr 0 k) = true) :
    exec (.cmPush l e) s = .next (u.enterDebug 2) := by
  obtain ⟨r, hr, hdrop⟩ := rlistDown_drop l k hk
  have width : u.slot = s.slot := by
    obtain ⟨m, v, rfl⟩ := h.frame
    rfl
  have frame : pushAll (rlistDown l) 0 s = .halt u := by rw [h.rest, hdrop, ← width, pushAll_cons_halt r _ _ u (pushOne_halt u r k hh)]
  change execCmPush l e s = _
  rw [execCmPush, frame]
  rfl

end

/-- Settles O55: the first stores complete, and then the next one stops, or the stack pointer is moved. -/
theorem pushFrame : Obligations.PushFrame := by
  intro s l e hl hwf n adj fine
  have pushable (k : Nat) (h : fine k) : s.pushFine k := by
    obtain ⟨hframe, htag⟩ := h
    exact ⟨hframe, fun i hi hmode => (htag hmode).imp_right (· i hi)⟩
  refine ⟨fun h => ?done, fun k hk h => ?stopped⟩
  case done =>
    obtain ⟨u, hu⟩ := exists_pushedTo s l hwf n le_rfl (pushable n h)
    have meaning := exec_cmPush_done e hu
    obtain ⟨⟨m, v, rfl⟩, -, hpushed, -⟩ := hu
    obtain ⟨hpcc, hregs, hsame⟩ := wrote_wc_advance { s with mem := m, resv := v } 2 (s.spAfter (0 - BitVec.ofNat 64 adj)) 2
    refine ⟨_, meaning, hpcc, hregs, ?_, pushed_congr hpushed (wc_mem _ _ _) (wc_resv _ _ _)⟩
    exact congrArg (fun t : State => { t with mem := s.mem, resv := s.resv }) hsame
  case stopped =>
    intro ea held
    obtain ⟨u, hu⟩ := exists_pushedTo s l hwf k hk.le (pushable k h)
    obtain ⟨⟨hv, -⟩, -⟩ := h
    have raised := exec_cmPush_exc e hu hk
    have halted := exec_cmPush_halt e hu hk
    obtain ⟨⟨m, v, rfl⟩, -, hpushed, -⟩ := hu
    have holds : held { s with mem := m, resv := v } := ⟨hpushed, rfl, rfl, rfl⟩
    refine ⟨fun hh => ⟨_, holds, halted hh⟩, fun x hx => ⟨_, holds, raised x fun r _ => pushOne_slotFault { s with mem := m, resv := v } r k hv x hx⟩,
      fun r hr hmode hu => ?_⟩
    refine ⟨_, holds, raised _ fun q hq => ?_⟩
    obtain rfl := Option.some.inj (hr.symm.trans hq)
    refine pushOne_untaggable { s with mem := m, resv := v } r k hmode ?_
    obtain ⟨hp, ha, -, hm, hf, ht, htag⟩ := hu
    exact ⟨hp, ha, ⟨_, translate_untranslated { s with mem := m, resv := v } _ _ hv, rfl, .inr (.inl rfl)⟩, hm, hf, ht, htag⟩

end Sys2Proof.Machine
end

section
/-!
PROOFS. CM.POP, CM.POPRET and CM.POPRETZ (48_zcmp_zcmt R325 to R327): the loads of the list one after the other, what a fault of a later one leaves, the stack pointer
moved, the return.
-/
namespace Sys2Proof.Machine
open Sys2Proof

/-! ## The list of a pop -/

theorem rlistDown_nodup (l : BitVec 4) : (rlistDown l).Nodup := by
  revert l
  decide

theorem zero_notMem_rlistDown (l : BitVec 4) : (0 : Reg) ∉ rlistDown l := by
  revert l
  decide

/-- The argument register that CM.POPRETZ zeroes is in no list. -/
theorem ten_notMem_rlistDown (l : BitVec 4) : (10 : Reg) ∉ rlistDown l := by
  revert l
  decide

/-- The return address is loaded last. -/
theorem rlistDown_last (l : BitVec 4) (hl : 4 ≤ l.toNat) : (rlistDown l)[rlistCount l - 1]? = some 1 := by
  revert l
  decide

theorem rlistCount_pos (l : BitVec 4) (hl : 4 ≤ l.toNat) : 0 < rlistCount l := by
  revert l
  decide

theorem lt_rlistCount (l : BitVec 4) (i : Nat) (r : Reg) (h : (rlistDown l)[i]? = some r) : i < rlistCount l := by
  rw [← rlistDown_length]
  exact (List.getElem?_eq_some_iff.1 h).1

/-! ## What depends on the stack pointer alone, of the registers -/

section
variable (s : State) (regs : Vector Cap 32) (h : ({ s with regs := regs } : State).rc 2 = s.rc 2)
include h

theorem slotAddr_withRegs (top : Word) (k : Nat) : ({ s with regs := regs } : State).slotAddr top k = s.slotAddr top k :=
  congrArg Prod.snd (authEa_withRegs s regs 2 _ h)

theorem frameAuth_withRegs : ({ s with regs := regs } : State).frameAuth = s.frameAuth := congrArg Prod.fst (authEa_withRegs s regs 2 0 h)

theorem slotOk_withRegs (kind : Acc) (ea : Word) (hok : s.SlotOk kind ea) : ({ s with regs := regs } : State).SlotOk kind ea := by
  obtain ⟨hp, ha, hm⟩ := hok
  refine ⟨?_, ha, hm⟩
  rw [frameAuth_withRegs s regs h]
  exact hp

theorem slotValue_withRegs (ea : Word) : ({ s with regs := regs } : State).slotValue ea = s.slotValue ea := by
  unfold State.slotValue
  rw [frameAuth_withRegs s regs h]
  rfl

theorem slotFault_withRegs (kind : Acc) (ea : Word) (x : Exc) (hx : s.slotFault kind ea x) : ({ s with regs := regs } : State).slotFault kind ea x := by
  unfold State.slotFault
  rw [frameAuth_withRegs s regs h]
  exact hx

theorem spAfter_withRegs (d : Word) : ({ s with regs := regs } : State).spAfter d = s.spAfter d := by
  unfold State.spAfter
  rw [h, rx_withRegs s regs 2 h]
  rfl

end

/-! ## The first loads of a pop -/

/-- `u` is `s` after the first `k` loads of a pop, and the others are still to be made. -/
structure State.PoppedTo (s u : State) (l : BitVec 4) (top : Word) (k : Nat) : Prop where
  frame : ∃ regs, u = { s with regs := regs }
  popped : s.popped u l top k
  rest : popAll (rlistDown l) top s = popAll ((rlistDown l).drop k) (top - BitVec.ofNat 64 (k * s.slot)) u

theorem rc_of_popped {s u : State} {l : BitVec 4} {top : Word} {k : Nat} (h : s.popped u l top k) (j : Reg) (hj : j ∉ rlistDown l) : u.rc j = s.rc j := by
  obtain ⟨-, -, -, others⟩ := h
  exact others j fun hmem => hj (List.mem_of_mem_take hmem)

theorem popAll_cons_ok (r : Reg) (rs : List Reg) (off : Word) (s t : State) (h : s.popOne r (off - BitVec.ofNat 64 s.slot) = .ok t) :
    popAll (r :: rs) off s = popAll rs (off - BitVec.ofNat 64 s.slot) t := by rw [popAll, h]

theorem poppedTo_zero (s : State) (l : BitVec 4) (top : Word) : s.PoppedTo s l top 0 where
  frame := ⟨s.regs, rfl⟩
  popped := ⟨sameButRegs_refl s, rfl, fun i _ hi => absurd hi i.not_lt_zero, fun _ _ => rfl⟩
  rest := by rw [Nat.zero_mul, BitVec.sub_zero]; rfl

/-- One load more, into a register apart from the ones before. -/
theorem popped_wc (s u : State) (l : BitVec 4) (top : Word) (k : Nat) (r : Reg) (h : s.popped u l top k) (hr : (rlistDown l)[k]? = some r) :
    s.popped (u.wc r (s.slotValue (s.slotAddr top k))) l top (k + 1) := by
  obtain ⟨hsame, hpcc, hloaded, hothers⟩ := h
  have hr0 : r ≠ 0 := fun e => zero_notMem_rlistDown l (e ▸ List.mem_of_getElem? hr)
  refine ⟨hsame.wc r _, (wc_pcc u r _).trans hpcc, fun i q hi hq => ?loaded, fun j hj => ?others⟩
  case loaded =>
    obtain hlt | rfl := Nat.lt_succ_iff_lt_or_eq.1 hi
    · have apart : r ≠ q := fun e => hlt.ne ((List.getElem?_inj (List.getElem?_eq_some_iff.1 hq).1 (rlistDown_nodup l)).1 (by rw [hq, hr, e]))
      rw [rc_wc_of_ne u r q _ apart, hloaded i q hlt hq]
    · obtain rfl := Option.some.inj (hr.symm.trans hq)
      exact rc_wc_same u r _ hr0
  case others =>
    rw [List.take_add_one, hr, List.mem_append, not_or] at hj
    obtain ⟨hold, hnew⟩ := hj
    rw [rc_wc_of_ne u r j _ fun e => hnew (by simp [e]), hothers j hold]

/-- The first `k` loads complete, in order. -/
theorem exists_poppedTo (s : State) (l : BitVec 4) (top : Word) (k : Nat) (hk : k ≤ rlistCount l) (h : s.frameOk .load top k) :
    ∃ u, s.PoppedTo u l top k := by
  induction k with
  | zero => exact ⟨s, poppedTo_zero s l top⟩
  | succ k ih =>
    obtain ⟨hv, hslots⟩ := h
    obtain ⟨u, ⟨regs, rfl⟩, hpopped, hrest⟩ := ih (Nat.le_of_succ_le hk) ⟨hv, fun i hi => hslots i (hi.trans k.lt_succ_self)⟩
    obtain ⟨r, hr, hdrop⟩ := rlistDown_drop l k hk
    have sp := rc_of_popped hpopped 2 (sp_notMem_rlistDown l)
    have loaded := popOne_eq_wc { s with regs := regs } r top k hv
      (by rw [slotAddr_withRegs s regs sp]; exact slotOk_withRegs s regs sp _ _ (slotOk_of_frameOk ⟨hv, hslots⟩ k.lt_succ_self))
    rw [slotAddr_withRegs s regs sp, slotValue_withRegs s regs sp] at loaded
    refine ⟨_, ?_, popped_wc s _ l top k r hpopped hr, ?_⟩
    · obtain ⟨regs', e⟩ := wc_eq_withRegs { s with regs := regs } r (s.slotValue (s.slotAddr top k))
      exact ⟨regs', e⟩
    · calc popAll (rlistDown l) top s = popAll (r :: (rlistDown l).drop (k + 1)) (top - BitVec.ofNat 64 (k * s.slot)) _ := by rw [hrest, hdrop]
        _ = _ := popAll_cons_ok r _ _ _ _ loaded
        _ = _ := congrArg (popAll _ · _) (slot_off top s.slot k)

/-! ## The instructions that pop -/

/-- CM.POPRET and CM.POPRETZ, where they may update pcc. -/
theorem exec_popRet (s : State) (l : BitVec 4) (e : BitVec 2) (i : Instr) (z : Bool)
    (hi : (i = .cmPopret l e ∧ z = false) ∨ (i = .cmPopretz l e ∧ z = true)) (hpc : s.debug = false ∨ s.cfg.debugPcrelIllegal = false) :
    exec i s = ((s.popFrame l e).andThen fun t => t.popReturn l e z).run := by
  obtain ⟨rfl, rfl⟩ | ⟨rfl, rfl⟩ := hi
  · exact exec_cmPopret s l e ⟨nofun, nofun, fun _ => hpc⟩
  · exact exec_cmPopretz s l e ⟨nofun, nofun, fun _ => hpc⟩

/-- An instruction that pops is the loads of its frame and then a part of its own. -/
theorem exec_popFrame (s : State) (l : BitVec 4) (e : BitVec 2) (i : Instr)
    (hi : i = .cmPop l e ∨ ((i = .cmPopret l e ∨ i = .cmPopretz l e) ∧ (s.debug = false ∨ s.cfg.debugPcrelIllegal = false))) :
    ∃ g, exec i s = ((s.popFrame l e).andThen g).run := by
  obtain rfl | ⟨rfl | rfl, hpc⟩ := hi
  · exact ⟨_, rfl⟩
  · exact ⟨_, exec_popRet s l e _ false (.inl ⟨rfl, rfl⟩) hpc⟩
  · exact ⟨_, exec_popRet s l e _ true (.inr ⟨rfl, rfl⟩) hpc⟩

section
variable {s u : State} {l : BitVec 4} {e : BitVec 2} {k : Nat} {i : Instr} {g : State → Res State}

theorem popFrame_done (h : s.PoppedTo u l (BitVec.ofNat 64 (s.stackAdj l e)) (rlistCount l)) : s.popFrame l e = .done u := by
  rw [State.popFrame, h.rest, ← rlistDown_length, List.drop_length]
  rfl

section
variable (hi : exec i s = ((s.popFrame l e).andThen g).run) (h : s.PoppedTo u l (BitVec.ofNat 64 (s.stackAdj l e)) k) (hk : k < rlistCount l)
include hi h hk

/-- The k-th load raises. -/
theorem exec_pop_slotFault (hv : s.svMode s.effPriv = none) (x : Exc) (hx : s.slotFault .load (s.slotAddr (BitVec.ofNat 64 (s.stackAdj l e)) k) x) :
    exec i s = .next (takeException u x) := by
  obtain ⟨r, hr, hdrop⟩ := rlistDown_drop l k hk
  obtain ⟨⟨regs, rfl⟩, hpopped, hrest⟩ := h
  have sp := rc_of_popped hpopped 2 (sp_notMem_rlistDown l)
  have raised := popOne_slotFault { s with regs := regs } r _ k hv x (by rw [slotAddr_withRegs s regs sp]; exact slotFault_withRegs s regs sp _ _ x hx)
  have frame : s.popFrame l e = .trap { s with regs := regs } x := (hrest.trans (congrArg (popAll · _ _) hdrop)).trans (popAll_cons_exc r _ _ _ x raised)
  rw [hi, frame]
  rfl

/-- A trigger stops the k-th load. -/
theorem exec_pop_halt (hh : s.haltHit .load (s.slotAddr (BitVec.ofNat 64 (s.stackAdj l e)) k) = true) : exec i s = .next (u.enterDebug 2) := by
  obtain ⟨r, hr, hdrop⟩ := rlistDown_drop l k hk
  obtain ⟨⟨regs, rfl⟩, hpopped, hrest⟩ := h
  have sp := rc_of_popped hpopped 2 (sp_notMem_rlistDown l)
  have stopped := popOne_halt { s with regs := regs } r _ k (by rw [slotAddr_withRegs s regs sp]; exact hh)
  have frame : s.popFrame l e = .halt { s with regs := regs } := (hrest.trans (congrArg (popAll · _ _) hdrop)).trans (popAll_cons_halt r _ _ _ stopped)
  rw [hi, frame]
  rfl

end
end

/-- The stack pointer moved after all loads: its register, those of the list, and the others. -/
theorem rc_popped_wc {s u : State} {l : BitVec 4} {top : Word} (h : s.popped u l top (rlistCount l)) (k : Cap) :
    (u.wc 2 k).rc 2 = k ∧ (∀ (i : Nat) (r : Reg), (rlistDown l)[i]? = some r → (u.wc 2 k).rc r = s.slotValue (s.slotAddr top i)) ∧
      ∀ j : Reg, j ≠ 2 → j ∉ rlistDown l → (u.wc 2 k).rc j = s.rc j := by
  refine ⟨rc_wc_same u 2 k (by decide), fun i r hr => ?_, fun j hj hmem => (rc_wc_of_ne u 2 j k hj.symm).trans (rc_of_popped h j hmem)⟩
  obtain ⟨-, -, hloaded, -⟩ := h
  have hr2 : (2 : Reg) ≠ r := by
    rintro rfl
    exact sp_notMem_rlistDown l (List.mem_of_getElem? hr)
  rw [rc_wc_of_ne u 2 r k hr2, hloaded i r (lt_rlistCount l i r hr) hr]

/-- Settles O56: the first loads complete, and then the next one stops, or the stack pointer is moved. -/
theorem popFrame : Obligations.PopFrame := by
  intro s l e _ n adj
  refine ⟨fun hframe => ?done, fun i hi k hk hframe => ?stopped⟩
  case done =>
    obtain ⟨u, hu⟩ := exists_poppedTo s l adj n le_rfl hframe
    have frame : s.popFrame l e = .done u := popFrame_done hu
    obtain ⟨⟨regs, rfl⟩, hpopped, -⟩ := hu
    obtain ⟨hsp, hlist, hothers⟩ := rc_popped_wc hpopped (s.spAfter adj)
    have meaning : exec (.cmPop l e) s = .next ((({ s with regs := regs } : State).wc 2 (s.spAfter adj)).advance 2) := by
      rw [← spAfter_withRegs s regs (rc_of_popped hpopped 2 (sp_notMem_rlistDown l)), ← spAdd_eq_wc]
      change execCmPop l e s = _
      rw [execCmPop, frame]
      rfl
    have same : s.sameButRegs (({ s with regs := regs } : State).wc 2 (s.spAfter adj)) := State.sameButRegs.wc hpopped.1 2 _
    exact ⟨_, meaning, same.advance_pcc (wc_pcc _ _ _) 2, same.advance 2, hsp, hlist, hothers⟩
  case stopped =>
    obtain ⟨g, meaning⟩ := exec_popFrame s l e i hi
    obtain ⟨u, hu⟩ := exists_poppedTo s l adj k hk.le hframe
    exact ⟨fun hh => ⟨u, hu.popped, exec_pop_halt meaning hu hk hh⟩, fun x hx => ⟨u, hu.popped, exec_pop_slotFault meaning hu hk hframe.1 x hx⟩⟩

/-! ## The return of CM.POPRET and CM.POPRETZ -/

theorem sext32_sext32_and (a m : Word) : sext32 (sext32 a &&& m) = sext32 (a &&& m) := by
  have low : (sext32 a &&& m).setWidth 32 = (a &&& m).setWidth 32 := by
    ext j hj
    simp only [BitVec.getElem_setWidth, BitVec.getLsbD_and, getLsbD_sext32 a j hj]
  unfold sext32 at low ⊢
  rw [low]

/-- The target of a jump through a register: in Legacy mode the same for the integer of the register as for the address in it. -/
theorem indirectTarget_zero (s : State) (a : Word) : s.indirectTarget a 0 = s.targetAt (a &&& ~~~1#64) := by
  rw [indirectTarget_eq, add_zero]

theorem indirectTarget_rx (s : State) (r : Reg) : s.indirectTarget (s.rx r) 0 = s.targetAt ((s.rc r).addr &&& ~~~1#64) := by
  rw [indirectTarget_zero, State.rx, State.targetAt, State.targetAt, State.toX, State.toX]
  cases s.cur64 with
  | true => rfl
  | false => exact congrArg (fun a => Params.heldAddr s.cfg .pcc (truncX s.cfg a)) (sext32_sext32_and _ _)

/-- The target the return address in register 1 gives, the check of it, and the pcc it installs. -/
def State.returnTarget (s : State) : Word := s.targetAt ((s.rc 1).addr &&& ~~~1#64)
def State.returnCheck (s : State) : Res Unit := if s.capMode then s.checkJumpCap (s.rc 1) 0 else s.checkTarget s.returnTarget
def State.returnPcc (s : State) : Cap :=
  if s.capMode then { (s.rc 1).unseal s.cfg with addr := s.returnTarget } else { s.pcc with addr := s.returnTarget }

/-- Register 10 zeroed, where `z` asks for it. -/
def State.zeroed (s : State) (z : Bool) : State := if z then s.wc 10 (s.intCap 0) else s

section
variable (s : State) (z : Bool)

theorem zeroed_eq_withRegs : ∃ regs, s.zeroed z = { s with regs := regs } := by
  cases z with
  | true => exact wc_eq_withRegs s 10 _
  | false => exact ⟨s.regs, rfl⟩

theorem zeroed_pcc : (s.zeroed z).pcc = s.pcc := by
  obtain ⟨regs, e⟩ := zeroed_eq_withRegs s z
  rw [e]

theorem rc_zeroed_of_ne (j : Reg) (hj : z = true → j ≠ 10) : (s.zeroed z).rc j = s.rc j := by
  cases z with
  | true => exact rc_wc_of_ne s 10 j _ (hj rfl).symm
  | false => rfl

theorem State.sameButRegs.zeroed {s t : State} (h : s.sameButRegs t) (z : Bool) : s.sameButRegs (t.zeroed z) := by
  cases z with
  | true => exact h.wc 10 _
  | false => exact h

/-- The jump of a return: the check of the target, then register 10, the stack pointer and pcc. -/
theorem popReturn_eq_bind (l : BitVec 4) (e : BitVec 2) : s.popReturn l e z = s.returnCheck.bind fun _ =>
    .ok (((s.zeroed z).wc 2 ((s.zeroed z).spAfter (BitVec.ofNat 64 (s.stackAdj l e)))).setPcc s.returnPcc) := by
  rw [← spAdd_eq_wc]
  cases hmode : s.capMode with
  | true =>
    simp only [State.popReturn, State.returnCheck, State.returnPcc, State.returnTarget, ← indirectTarget_zero, if_pos hmode]
    rfl
  | false =>
    have legacy : ¬s.capMode = true := by rw [hmode]; decide
    have pcc : ((s.zeroed z).spAdd spReg (BitVec.ofNat 64 (s.stackAdj l e))).pcc = s.pcc := by rw [spAdd_eq_wc, wc_pcc, zeroed_pcc]
    simp only [State.popReturn, State.returnCheck, State.returnPcc, State.returnTarget, ← indirectTarget_rx, if_neg legacy]
    rw [← pcc]
    rfl

end

section
variable (s : State)

theorem returnCheck_misaligned (h : s.returnTarget.toNat % s.minLen ≠ 0) : s.returnCheck = .exc ⟨0, s.cutX s.returnTarget⟩ := by
  unfold State.returnCheck
  split
  · rw [State.returnTarget, ← indirectTarget_zero] at h ⊢
    exact checkJumpCap_misaligned s _ 0 h
  · exact checkTarget_misaligned s _ h

theorem returnCheck_of_legacy (hmode : s.capMode = false) : s.returnCheck = s.checkTarget s.returnTarget := if_neg (by rw [hmode]; decide)

variable (h : s.returnTarget.toNat % s.minLen = 0)
include h

theorem returnCheck_of_capMode (hmode : s.capMode = true) :
    (s.indirectTarget (s.rc 1).addr 0).toNat % s.minLen = 0 ∧ s.returnCheck = s.checkJumpCap (s.rc 1) 0 := by
  rw [State.returnTarget, ← indirectTarget_zero] at h
  exact ⟨h, if_pos hmode⟩

theorem returnCheck_untagged (hmode : s.capMode = true) (ht : (s.rc 1).tag = false) : s.returnCheck = .exc ⟨28, 0x20000⟩ := by
  obtain ⟨ha, check⟩ := returnCheck_of_capMode s h hmode
  rw [check, checkJumpCap_untagged s _ 0 ha ht]

theorem returnCheck_notExecutable (hmode : s.capMode = true) (ht : (s.rc 1).tag = true) (hx : ((s.rc 1).perms s.cfg).x = false) :
    s.returnCheck = .exc ⟨28, 0x20002⟩ := by
  obtain ⟨ha, check⟩ := returnCheck_of_capMode s h hmode
  rw [check, checkJumpCap_notExecutable s _ 0 ha ht (.inr rfl) hx]

theorem returnCheck_outside (hmode : s.capMode = true) (ht : (s.rc 1).tag = true) (hx : ((s.rc 1).perms s.cfg).x = true)
    (hb : (s.rc 1).inBounds s.cfg s.returnTarget s.minLen = false) : s.returnCheck = .exc ⟨28, 0x20003⟩ := by
  obtain ⟨ha, check⟩ := returnCheck_of_capMode s h hmode
  rw [State.returnTarget, ← indirectTarget_zero] at hb
  rw [check, checkJumpCap_outside s _ 0 ha ht (.inr rfl) hx hb]

theorem returnCheck_outside_pcc (hmode : s.capMode = false) (hd : s.debug = false) (hb : s.pcc.inBounds s.cfg s.returnTarget s.minLen = false) :
    s.returnCheck = .exc ⟨28, 0x20003⟩ := by
  rw [returnCheck_of_legacy s hmode, checkTarget_outside s _ hd h hb]

theorem returnCheck_passes
    (hcap : s.capMode = true → (s.rc 1).tag = true ∧ ((s.rc 1).perms s.cfg).x = true ∧ (s.rc 1).inBounds s.cfg s.returnTarget s.minLen = true)
    (hleg : s.capMode = false → s.debug = true ∨ s.pcc.inBounds s.cfg s.returnTarget s.minLen = true) : s.returnCheck = .ok () := by
  cases hmode : s.capMode with
  | true =>
    obtain ⟨ha, check⟩ := returnCheck_of_capMode s h hmode
    obtain ⟨ht, hx, hb⟩ := hcap hmode
    rw [State.returnTarget, ← indirectTarget_zero] at hb
    rw [check, (checkJumpCap_eq_ok s _ 0 ()).2 ⟨ha, ht, .inr rfl, hx, hb⟩]
  | false => rw [returnCheck_of_legacy s hmode, (checkTarget_eq_ok s _ ()).2 ⟨h, hleg hmode⟩]

end

section
variable {s u : State} {l : BitVec 4} {e : BitVec 2} {i : Instr} {z : Bool}
  (hi : exec i s = ((s.popFrame l e).andThen fun t => t.popReturn l e z).run)
  (h : s.PoppedTo u l (BitVec.ofNat 64 (s.stackAdj l e)) (rlistCount l))
include hi h

theorem exec_popRet_exc (x : Exc) (hx : u.returnCheck = .exc x) : exec i s = .next (takeException u x) := by
  rw [hi, popFrame_done h, Seq.andThen, popReturn_eq_bind, hx]
  rfl

theorem exec_popRet_ok (hx : u.returnCheck = .ok ()) : exec i s = .next (((u.zeroed z).wc 2 (s.spAfter (BitVec.ofNat 64 (s.stackAdj l e)))).setPcc u.returnPcc) := by
  have spAfter : (u.zeroed z).spAfter (BitVec.ofNat 64 (u.stackAdj l e)) = s.spAfter (BitVec.ofNat 64 (s.stackAdj l e)) := by
    have sp : (u.zeroed z).rc 2 = s.rc 2 := (rc_zeroed_of_ne u z 2 fun _ => by decide).trans (rc_of_popped h.popped 2 (sp_notMem_rlistDown l))
    obtain ⟨regs, rfl⟩ := h.frame
    obtain ⟨regs', e'⟩ := zeroed_eq_withRegs { s with regs := regs } z
    rw [e'] at sp ⊢
    exact spAfter_withRegs s regs' sp _
  rw [hi, popFrame_done h, Seq.andThen, popReturn_eq_bind, hx, Res.bind_ok, spAfter]
  rfl

end

/-- Settles O57: all loads complete, and then the loaded target is refused, or jumped to. -/
theorem popReturns : Obligations.PopReturns := by
  intro s l e i z hi hl hpc n adj k target faults hframe
  have meaning := exec_popRet s l e i z hi hpc
  obtain ⟨u, hu⟩ := exists_poppedTo s l adj n le_rfl hframe
  have raised (x : Exc) (hx : u.returnCheck = .exc x) : faults x := ⟨u, hu.popped, exec_popRet_exc meaning hu x hx⟩
  have done := exec_popRet_ok meaning hu
  obtain ⟨⟨regs, rfl⟩, hpopped, -⟩ := hu
  obtain ⟨hsame, -, hloaded, -⟩ := id hpopped
  let u : State := { s with regs := regs }
  have ra : u.rc 1 = k := hloaded (n - 1) 1 (Nat.sub_lt (rlistCount_pos l hl) Nat.one_pos) (rlistDown_last l hl)
  have hit : u.returnTarget = target := congrArg (fun c : Cap => s.targetAt (c.addr &&& ~~~1#64)) ra
  rw [← hit, ← ra]
  refine ⟨fun ha => raised _ (returnCheck_misaligned u ha), fun ha => ⟨fun hmode => ⟨fun ht => raised _ (returnCheck_untagged u ha hmode ht),
    fun ht hx => raised _ (returnCheck_notExecutable u ha hmode ht hx), fun ht hx hb => raised _ (returnCheck_outside u ha hmode ht hx hb)⟩,
    fun hmode hd hb => raised _ (returnCheck_outside_pcc u ha hmode hd hb), fun hcap hleg => ?_⟩⟩
  have outside (j : Reg) (hj : j ≠ 2) (hz : z = true → j ≠ 10) : ((u.zeroed z).wc 2 (s.spAfter adj)).rc j = u.rc j :=
    (rc_wc_of_ne _ 2 j _ hj.symm).trans (rc_zeroed_of_ne u z j hz)
  refine ⟨_, done (returnCheck_passes u ha hcap hleg), rfl, ((hsame.zeroed z).wc 2 _).setPcc _, rc_wc_same _ 2 _ (by decide), fun hz => ?_,
    fun j r hr => ?_, fun j hj hz hmem => (outside j hj hz).trans (rc_of_popped hpopped j hmem)⟩
  · subst hz
    exact (rc_wc_of_ne _ 2 10 _ (by decide)).trans (rc_wc_same u 10 _ (by decide))
  · have listed := List.mem_of_getElem? hr
    have hr2 : r ≠ 2 := by
      rintro rfl
      exact sp_notMem_rlistDown l listed
    have hr10 : r ≠ 10 := by
      rintro rfl
      exact ten_notMem_rlistDown l listed
    exact (outside r hr2 fun _ => hr10).trans (hloaded j r (lt_rlistCount l j r hr) hr)

end Sys2Proof.Machine
end
